-- ==== Sys2Proof/Word.lean ====
section
/-!
DEFINITION. The words the machine computes with, and the sparse table that holds every indexed store of it.
-/

namespace Sys2Proof

/-- One byte of memory (R4). -/
abbrev Byte := BitVec 8
/-- One 32-bit register (R12). -/
abbrev Word := BitVec 32
/-- One 64-bit value, an even/odd pair (R13). -/
abbrev DWord := BitVec 64

/-- A sparse table: pairs of key and value with keys strictly rising. A key that is not listed holds the
default its reader names; no entry equals that default. -/
abbrev SMap (α : Type) := List (Nat × α)

end Sys2Proof
end

