-- ==== Sys2Proof/Syntax.lean ====
section
/-!
DEFINITION. The instructions of Ndebakar and the steps of the module's other agents: one constructor for each row
of the opcode table. Operands are decoded (Table 11-2), modifiers carry the names of Tables 11-3 and 11-4.
-/

namespace Sys2Proof

/-- The read-only special operands, codes 0x130-0x137 (Table 01-4). -/
inductive Special
  | lane | slice | bundle | crew | core | grank | nlive | launchseq
deriving DecidableEq, Repr, Inhabited

/-- An operand field (Table 11-2). `none` is a field the form does not use, which holds zero (R192). -/
inductive Opnd
  | none
  | v (n : Fin 248)
  | q (n : Fin 8)
  | c (n : Fin 16)
  | t (n : Fin 16)
  | p (n : Fin 8)
  | special (x : Special)
  | peek (n : Fin 8)
  | imm
  | zero
deriving DecidableEq, Repr, Inhabited

/-- The predicate guard, PRED (R187). -/
structure Guard where
  pred : Fin 8
  neg : Bool
deriving DecidableEq, Repr, Inhabited

/-- The scheduling field, bits [127:96] of the word (Table 11-1). SETR and SETW of 12-15 name no flag. -/
structure Sched where
  yield : Bool
  reuse : Fin 8
  setr : Fin 16
  setw : Fin 16
  wait : BitVec 12
  stall : Fin 16
deriving DecidableEq, Repr, Inhabited

/-- What every form carries: its guard, its operand fields DST, SRCA, SRCB and SRCC, the literal that the
code 0x3FE reads (R190; zero when no field selects it), and its scheduling field. -/
structure Args where
  guard : Guard
  d : Opnd
  a : Opnd
  b : Opnd
  c : Opnd
  lit : Word
  sched : Sched
deriving DecidableEq, Repr, Inhabited

/-- The type codes of Table 11-3. -/
inductive Ty
  | b32 | s32 | n32 | b64 | s64 | n64 | s8 | n8 | s16 | n16 | f32 | f16 | bf16 | f16x2 | bf16x2 | block
deriving DecidableEq, Repr, Inhabited

/-- The rounding codes RM of Table 11-4; `fmode` is no suffix. -/
inductive Rm
  | fmode | rn | rz | rd | ru
deriving DecidableEq, Repr, Inhabited

/-- The ordering codes OR of Table 11-4. -/
inductive OrdKind
  | rlx | acq | rel | ar
deriving DecidableEq, Repr, Inhabited

/-- The scopes SC of Table 11-4, narrowest first. -/
inductive Scope
  | lane | bundle | crew | core | gang | die | dev | sys
deriving DecidableEq, Repr, Inhabited

/-- An ordering and its scope; with `rlx` the scope field is zero (R191). -/
structure Order where
  kind : OrdKind
  scope : Scope
deriving DecidableEq, Repr, Inhabited

/-- Access widths MW (Table 11-4). -/
inductive MemW
  | n8 | s8 | n16 | s16 | b32 | b64
deriving DecidableEq, Repr, Inhabited

/-- Register counts of the V forms (Table 11-4). -/
inductive VecN
  | x2 | x4 | x8 | x16
deriving DecidableEq, Repr, Inhabited

/-- Atomic types AT (Table 11-4). -/
inductive ATy
  | b32 | s32 | n32 | b64 | s64 | n64 | f32
deriving DecidableEq, Repr, Inhabited

/-- Block formats BF (Table 11-4). -/
inductive Bf
  | sb3 | sb5 | sb8
deriving DecidableEq, Repr, Inhabited

/-- Integer conditions (Table 13-2). -/
inductive ICond
  | eq | ne | lt | le | gt | ge
deriving DecidableEq, Repr, Inhabited

/-- Float conditions (Table 13-5). -/
inductive FCond
  | eq | ne | lt | le | gt | ge | un | ord
deriving DecidableEq, Repr, Inhabited

/-- Atomic operations, IMM[31:28] (R258). -/
inductive AtomOp
  | add | min | max | and | or | xor | exch
deriving DecidableEq, Repr, Inhabited

/-- `CBAR` operations, MOD[61:59] (R264). -/
inductive CbarOp
  | none | add | min | max | and | or
deriving DecidableEq, Repr, Inhabited

/-- `REDB` and `SCANB` operations (R272). -/
inductive RedOp
  | add | min | max | and | or | xor
deriving DecidableEq, Repr, Inhabited

/-- `VOTE` variants (R269). -/
inductive VoteMode
  | all | any | uni
deriving DecidableEq, Repr, Inhabited

/-- `SHFL` variants (R270). -/
inductive ShflMode
  | idx | up | down | xor
deriving DecidableEq, Repr, Inhabited

/-- States of a scratchpad line (R86), which are also the variants of `LINESET`. -/
inductive LineSt
  | empty | full | poisoned
deriving DecidableEq, Repr, Inhabited

/-- `CCTL` variants (R257). -/
inductive CctlVar
  | wb | inv | wbinv
deriving DecidableEq, Repr, Inhabited

/-- Types stored by `ACCST` (R286). -/
inductive AccTy
  | f32 | f16 | bf16 | blk (f : Bf)
deriving DecidableEq, Repr, Inhabited

/-- Copy directions: source then destination, g global, s scratchpad (Table 15-9). -/
inductive CopyDir
  | gs | sg | gg | ss
deriving DecidableEq, Repr, Inhabited

/-- Copy widths (Table 15-9). -/
inductive CopyW
  | b32 | b64 | b128
deriving DecidableEq, Repr, Inhabited

/-- MOD of class 0xB. -/
structure CopyMod where
  dir : CopyDir
  queue : Fin 4
  weight : Bool
  full : Bool
  width : CopyW
deriving DecidableEq, Repr, Inhabited

/-- The lanes of one bundle on one core: where an event of a bundle takes place. -/
structure BRef where
  core : Nat
  slot : Nat
  bundle : Nat
deriving DecidableEq, Repr, Inhabited

/-- Where an uncorrectable error is detected (Table 25-2). -/
inductive ErrLoc
  /-- a 64 B line of physical memory, by its line number -/
  | memory (line : Nat)
  /-- a scratchpad line of a crew -/
  | scratch (core slot line : Nat)
  /-- a tile of a crew -/
  | tile (core slot tile : Nat)
  /-- an accumulator block of a core -/
  | acc (core block : Nat)
  /-- a register file, met by a bundle -/
  | regfile (core slot bundle : Nat)
  /-- the buffer of a mesh router, met by a packet on its way there -/
  | router (gang idx : Nat)
deriving DecidableEq, Repr, Inhabited

/-- One row of the opcode table each. The first 174 are the instructions of classes 0x0 to 0xE; the rest are
the steps of engines, of the hub, of the firmware's acting registers and of outside parties, with the choices
and outside data each one needs as its arguments. -/
inductive Instr
  -- class 0x0, integer and logic (Table 13-1)
  | nop (x : Args)
  | mov (t : Ty) (x : Args)
  | iadd (t : Ty) (x : Args)
  | isub (t : Ty) (x : Args)
  | iaddc (t : Ty) (x : Args)
  | imul (t : Ty) (x : Args)
  | imulh (t : Ty) (x : Args)
  | imad (t : Ty) (x : Args)
  | imadw (t : Ty) (x : Args)
  | idiv (t : Ty) (x : Args)
  | irem (t : Ty) (x : Args)
  | iabs (t : Ty) (x : Args)
  | ineg (t : Ty) (x : Args)
  | imin (t : Ty) (x : Args)
  | imax (t : Ty) (x : Args)
  | icmp (k : ICond) (t : Ty) (x : Args)
  | isel (t : Ty) (x : Args)
  | andL (t : Ty) (x : Args)
  | orL (t : Ty) (x : Args)
  | xorL (t : Ty) (x : Args)
  | andn (t : Ty) (x : Args)
  | notL (t : Ty) (x : Args)
  | shl (t : Ty) (x : Args)
  | shr (t : Ty) (x : Args)
  | shra (t : Ty) (x : Args)
  | rotl (t : Ty) (x : Args)
  | funnel (x : Args)
  | popc (t : Ty) (x : Args)
  | clz (t : Ty) (x : Args)
  | ctz (t : Ty) (x : Args)
  | brev (t : Ty) (x : Args)
  | bfx (t : Ty) (x : Args)
  | bfi (x : Args)
  | lea (sh : Fin 16) (t : Ty) (x : Args)
  | plop (tt : Byte) (x : Args)
  | pmovPack (x : Args)
  | pmovUnpack (x : Args)
  | gettag (x : Args)
  | taggen (x : Args)
  -- class 0x1, float (Table 13-4)
  | fadd (r : Rm) (t : Ty) (x : Args)
  | fsub (r : Rm) (t : Ty) (x : Args)
  | fmul (r : Rm) (t : Ty) (x : Args)
  | ffma (r : Rm) (t : Ty) (x : Args)
  | fmin (t : Ty) (x : Args)
  | fmax (t : Ty) (x : Args)
  | fabs (t : Ty) (x : Args)
  | fneg (t : Ty) (x : Args)
  | fcmp (k : FCond) (t : Ty) (x : Args)
  | fclass (x : Args)
  | frnd (r : Rm) (x : Args)
  | fscale (r : Rm) (x : Args)
  | hadd2 (r : Rm) (t : Ty) (x : Args)
  | hmul2 (r : Rm) (t : Ty) (x : Args)
  | hfma2 (r : Rm) (t : Ty) (x : Args)
  | fdot2 (r : Rm) (t : Ty) (x : Args)
  -- class 0x2, conversion and blocks (Table 13-7)
  | cvt (r : Rm) (dt st : Ty) (x : Args)
  | pack2 (r : Rm) (t : Ty) (x : Args)
  | unpack2 (t : Ty) (x : Args)
  | had16 (x : Args)
  | qblk (f : Bf) (x : Args)
  | dqblk (f : Bf) (x : Args)
  | seedflip (x : Args)
  -- class 0x3, special functions (Table 13-8)
  | rcp (x : Args)
  | rsq (x : Args)
  | sqrt (x : Args)
  | ex2 (x : Args)
  | lg2 (x : Args)
  | sin (x : Args)
  | cos (x : Args)
  | tanh (x : Args)
  -- class 0x4, control (Table 14-1)
  | bra (disp : Word) (x : Args)
  | brx (conv : Bool) (x : Args)
  | call (disp : Word) (x : Args)
  | callx (conv : Bool) (x : Args)
  | ret (x : Args)
  | join (x : Args)
  | exitL (x : Args)
  | sleep (n : Word) (x : Args)
  -- class 0x5, memory (Table 14-2)
  | ldg (w : MemW) (o : Order) (off : Word) (x : Args)
  | stg (w : MemW) (o : Order) (off : Word) (x : Args)
  | lds (w : MemW) (o : Order) (off : BitVec 20) (x : Args)
  | sts (w : MemW) (o : Order) (off : BitVec 20) (x : Args)
  | ldgv (w : VecN) (o : Order) (off : Word) (x : Args)
  | stgv (w : VecN) (o : Order) (off : Word) (x : Args)
  | ldsv (w : VecN) (o : Order) (off : BitVec 20) (x : Args)
  | stsv (w : VecN) (o : Order) (off : BitVec 20) (x : Args)
  | lineset (st : LineSt) (off : BitVec 20) (x : Args)
  | lineq (off : BitVec 20) (x : Args)
  | pref (off : Word) (x : Args)
  | cctl (k : CctlVar) (off : Word) (x : Args)
  | ldgw (o : Order) (off : Word) (x : Args)
  | stgw (o : Order) (off : Word) (x : Args)
  -- class 0x6, atomics and synchronisation (Table 14-4)
  | atomg (op : AtomOp) (t : ATy) (o : Order) (off : BitVec 28) (x : Args)
  | atoms (op : AtomOp) (t : ATy) (o : Order) (off : BitVec 20) (x : Args)
  | redg (op : AtomOp) (t : ATy) (o : Order) (off : BitVec 28) (x : Args)
  | casg (t : ATy) (o : Order) (off : Word) (x : Args)
  | cass (t : ATy) (o : Order) (off : BitVec 20) (x : Args)
  | fence (o : Order) (x : Args)
  | qfence (x : Args)
  | cbar (op : CbarOp) (t : ATy) (x : Args)
  | expect (x : Args)
  | arrive (x : Args)
  | waitr (x : Args)
  -- class 0x7, cross-lane (Table 14-7)
  | ballot (x : Args)
  | vote (m : VoteMode) (x : Args)
  | shfl (m : ShflMode) (t : Ty) (x : Args)
  | bcast (t : Ty) (x : Args)
  | redb (op : RedOp) (t : Ty) (x : Args)
  | scanb (op : RedOp) (t : Ty) (exc : Bool) (x : Args)
  | matchL (t : Ty) (x : Args)
  | actmask (x : Args)
  -- class 0x8, ports (Table 15-1)
  | pbind (g : Bool) (x : Args)
  | punbind (x : Args)
  | pstat (x : Args)
  | pskip (x : Args)
  | pflush (x : Args)
  | bpend (disp : Word) (x : Args)
  | prewind (x : Args)
  -- class 0x9, matrix (Table 15-2)
  | tld (x : Args)
  | tst (x : Args)
  | tzero (x : Args)
  | mloop (x : Args)
  | gmloop (x : Args)
  | accalloc (x : Args)
  | accfree (x : Args)
  | accrd (x : Args)
  | accwr (x : Args)
  | accst (t : AccTy) (x : Args)
  | mwait (x : Args)
  -- class 0xA, attention and context (Table 16-3)
  | segnew (x : Args)
  | segseal (x : Args)
  | segretire (x : Args)
  | ctxnew (x : Args)
  | ctxfree (x : Args)
  | link (x : Args)
  | unlink (x : Args)
  | fork (x : Args)
  | ctxflat (x : Args)
  | append (x : Args)
  | patch (x : Args)
  | attn (o gated : Bool) (x : Args)
  | specb (x : Args)
  | speca (x : Args)
  | specr (x : Args)
  | ctxq (x : Args)
  | palloc (x : Args)
  | pfree (x : Args)
  | promote (x : Args)
  | demote (x : Args)
  -- class 0xB, copy (Table 15-9)
  | cpy (m : CopyMod) (so dof : BitVec 16) (x : Args)
  | tcpy (m : CopyMod) (x : Args)
  | cpyfill (m : CopyMod) (n dof : BitVec 16) (x : Args)
  -- class 0xC, tasks and quiescence (Table 16-11)
  | spawn (x : Args)
  | splitw (x : Args)
  | retw (x : Args)
  | retwSv (x : Args)
  | waitq (x : Args)
  | qopen (x : Args)
  | qclose (x : Args)
  | qread (x : Args)
  | postres (x : Args)
  | msend (x : Args)
  -- class 0xD, mesh and gang (Table 16-12)
  | gbar (x : Args)
  | rsend (x : Args)
  | rrecv (x : Args)
  | mcast (x : Args)
  -- class 0xE, system (Table 16-17)
  | movk (k : BitVec 10) (x : Args)
  | movr (k : BitVec 10) (x : Args)
  | trap (n : Word) (x : Args)
  | svc (n : Word) (x : Args)
  | eret (x : Args)
  | slotq (x : Args)
  | csave (x : Args)
  | crestore (x : Args)
  -- steps of a core
  | pickerDecision (core picker : Nat)
  | stallElapse (at_ : BRef) (mask : Word)
  | hintReplayElapse (at_ : BRef) (mask : Word)
  | asyncTrapTake (at_ : BRef)
  | loadResultReturn (core idx : Nat)
  | sleepExpire (at_ : BRef) (lane : Nat)
  | lineWaiterWake (at_ : BRef)
  | bundleRetire (at_ : BRef)
  -- the sorting office and placement
  | phRecordArrive (die idx : Nat)
  | phTimerExpire (die ph : Nat)
  | bundleForm (die ph : Nat)
  | readyQueuePop (die : Nat) (cores : List Nat)
  | gangPlaceAttempt (launch replica : Nat)
  | gangHoldAnswer (launch replica core : Nat)
  | placerBackoffExpire (launch replica : Nat)
  | crewStart (core slot : Nat)
  -- quiet-domain roots
  | qdMint (idx : Nat)
  | qdBorrow (idx : Nat)
  | borrowGrantArrive (at_ : BRef) (lane : Nat)
  | qdReturn (idx : Nat)
  | qdArm (idx : Nat)
  -- engines
  | matrixCommandStart (core idx : Nat)
  | matrixCommandComplete (core idx : Nat)
  | gmloopQueryAnswer (core idx : Nat)
  | copyTransferLand (core queue : Nat)
  | portElementFetch (at_ : BRef) (port idx : Nat)
  | portWriteEntryPerform (at_ : BRef) (port : Nat)
  | attnStart (core : Nat)
  | attnWindowComplete (core : Nat)
  | patchPerform (core : Nat)
  | mcastPerform (core : Nat)
  | msendDeliver (core idx : Nat)
  | redgApply (core idx : Nat)
  | reductionPacketArrive (gang idx : Nat)
  | reductionTimeout (gang tree : Nat)
  | reductionFlushArrive (gang idx : Nat)
  -- context manager and tiers
  | segretireSweep (seg : Nat)
  | promotionComplete (page : Nat)
  | demotionComplete (page : Nat)
  | tierMoverVisit (acct : Nat)
  | farReadRefill (core : Nat)
  | uncorrectableError (loc : ErrLoc)
  | errorCorrected
  | originRefetchComplete (line : Nat)
  -- rings and the firmware's acting registers
  | faultEntryPost (core idx : Nat)
  | rootMessagePost (idx : Nat)
  | tlbiPage (asid : Nat) (va : DWord) (large : Bool)
  | tlbiAsid (asid : Nat)
  | tlbiAll
  | freplayReplay (core idx : Nat)
  | freplayRefuse (core idx : Nat)
  | freplayFill (core idx : Nat)
  | tresume (at_ : BRef) (adv : Bool)
  | lend (lseq : Nat)
  | cctsync (core : Nat)
  | calctlInstall
  | calendarFrame
  | slotcmdNotice (entry rep : Nat)
  | slotcmdOpen (entry rep : Nat)
  | slotcmdClose (entry rep : Nat)
  | qreplyBorrow (at_ : BRef) (lane : Nat) (grant : Word)
  | qreplyArm (at_ : BRef) (lane : Nat) (value : Bool)
  | qreplyOpen (at_ : BRef) (lane : Nat) (value : Bool)
  | qreplyClose (at_ : BRef) (lane : Nat) (value : Bool)
  | qreset (dom : BitVec 12)
  | qpub (dom : BitVec 12)
  | seedWrite (v : Word)
  | supervisorRegisterWrite (house : Nat) (k : BitVec 10) (v : DWord)
  -- maintenance slots
  | slotNotice (entry rep : Nat)
  | slotNoticeReceive (die : Nat)
  | slotCountZero (die : Nat)
  | slotDrainedReceive (die : Nat)
  | slotOpen
  | slotOpenReceive (die : Nat)
  | slotMaxlenExpire
  | maintenanceComplete (ns : Word)
  | slotCloseReceive (die : Nat)
  -- record windows, launches and sessions
  | windowWrite (w off : Nat) (bytes : List Byte)
  | windowOpen (w acct : Nat) (peer : BitVec 128) (port : BitVec 16) (session : Word)
  | windowClose (w : Nat)
  | fabricDatagram (src : BitVec 128) (port : BitVec 16) (bytes : List Byte)
  | recordDecide (w : Nat)
  | launchComplete (lseq : Nat)
  -- mailbox, measurements, boot
  | mailboxReport (mseq : Word) (resp : DWord) (mdata : List Byte)
  | mailboxRaisefsvn (mseq : Word) (resp : DWord) (mdata : List Byte)
  | mailboxUnknownCommand (cmd : Byte) (mseq : Word)
  | measurementExtend (m : Nat) (data : List Byte)
  | moduleReset
  | bootDhcpTimeout
  | bootFetchComplete (http : Nat) (image : List Byte)
  | bootRetryExpire
  -- links, host and loader
  | pcieUncorrectableError
  | cxlPortFail (port : Nat)
  | storePerformed (core idx : Nat)
  | pageWalkComplete (core idx : Nat)
  | hostApertureAccess (write : Bool) (acct : Nat) (va : DWord) (bytes : List Byte)
  | bootDhcpReply (addr : BitVec 128) (url : List Byte)
  | objectLoad (acct : Nat) (codeVa dataVa : DWord) (file : List Byte)
  | objectUnload (obj : Nat)
deriving DecidableEq, Repr, Inhabited

end Sys2Proof
end

