-- ==== Sys2Proof/Config.lean ====
section
/-!
DEFINITION. What the spec leaves to an implementation or to the outside: the free values of the model. None has a
body, so nothing can be proved of the value it takes.
-/

namespace Sys2Proof

/-- The event that happens next when no event is waiting in the agenda (DESIGN CHOICE, assumption 1): agents other than the
machine's own step order choose it, and the spec gives no order among them. -/
opaque Config.schedule : Nat → Instr

/-- A free value for the place named by the first number (DESIGN CHOICE, assumptions 11, 14 and others). -/
opaque Config.freeWord : Nat → Nat → Word

/-- How far back in the order of all writes a read takes its value, within what R102 allows, by the number of the read
(DESIGN CHOICE, assumption 49). -/
opaque Config.readAge : Nat → Nat
/-- How many parts of an outstanding instruction are still left for later when some of them are performed, by the number of
the draw (R105; DESIGN CHOICE, assumption 7). -/
opaque Config.partsLeft : Nat → Nat

/-- SHA-512 of a byte string, as its 64 bytes (R343; DESIGN CHOICE, assumption 13). -/
opaque Config.sha512 : List Byte → BitVec 512
/-- Whether an Ed25519 signature verifies: key, message, signature (R342; DESIGN CHOICE, assumption 13). -/
opaque Config.ed25519 : List Byte → List Byte → List Byte → Bool
/-- Whether an ML-DSA-65 signature verifies: key, message, signature (R342; DESIGN CHOICE, assumption 13). -/
opaque Config.mldsa : List Byte → List Byte → List Byte → Bool
/-- The hash that a key slot of the fuses holds: 0 to 3 Ed25519, 4 to 7 ML-DSA-65 (R342; DESIGN CHOICE, assumption 13). -/
opaque Config.keySlot : Nat → BitVec 512
/-- Whether a key slot has been revoked by fuse (R342; DESIGN CHOICE, assumption 13). -/
opaque Config.keyRevoked : Nat → Bool
/-- The ROM's version and the fuse settings other than FSVN, as the bytes that extend M0 (R343; DESIGN CHOICE, assumption 13). -/
opaque Config.romBytes : List Byte
/-- Where die 0's boot region begins in physical memory (R340; DESIGN CHOICE, assumption 13). -/
opaque Config.bootBase : Nat
/-- The device's signatures of a report's first 1,152 bytes (R344; DESIGN CHOICE, assumption 13). -/
opaque Config.edSign : List Byte → List Byte
opaque Config.mlSign : List Byte → List Byte
/-- The device's identity certificates (R344; DESIGN CHOICE, assumption 13). -/
opaque Config.edCert : List Byte
opaque Config.mlCert : List Byte
/-- The die whose bonded DRAM holds a near 64 B line (R96, R384; DESIGN CHOICE, assumption 15). -/
opaque Config.homeDie : Nat → Fin 4
/-- Where the near frame of a number, and the far frame of an index, stand in physical memory (R176, R181; DESIGN CHOICE,
assumption 15). -/
opaque Config.nearAddr : Nat → Nat
opaque Config.farAddr : Nat → Nat
/-- The set of an L2 TLB that a translation falls into, by account, address and whether its page is large (R370; DESIGN CHOICE,
assumption 15). -/
opaque Config.l2Set : Nat → Nat → Bool → Fin 2048
/-- Whether the host takes a response write to an address of its bus, at some time (R351; DESIGN CHOICE, assumption 33). -/
opaque Config.hostTakes : Nat → Nat → Bool
/-- The CXL port of a far physical page (R366; DESIGN CHOICE, assumption 15). -/
opaque Config.farPort : Nat → Fin 8

end Sys2Proof
end

