-- ==== Sys2Proof/Machine/IntOps.lean ====
section
/-!
DEFINITION. The integer results of class 0x0 (R57, R216-R223), as functions of 64-bit operands: a 32-bit
operand stands zero-extended in its low half, and `w` is the width of the form's type, 32 or 64.
-/

namespace Sys2Proof.Machine

/-- The width of a type of class 0x0. -/
def tyWidth (t : Ty) : Nat :=
  match t with
  | .b64 | .s64 | .n64 => 64
  | _ => 32

/-- Whether the type reads its values as signed. -/
def tySigned (t : Ty) : Bool :=
  match t with
  | .s32 | .s64 | .s8 | .s16 => true
  | _ => false

/-- ux: the value read as an unsigned w-bit number. -/
def ux (w : Nat) (x : DWord) : Nat := x.toNat % 2 ^ w
/-- sx: the value read as a signed w-bit number. -/
def sx (w : Nat) (x : DWord) : Int :=
  let n := ux w x
  if n < 2 ^ (w - 1) then (n : Int) else (n : Int) - (2 ^ w : Nat)
/-- ex: signed for .s types, unsigned for the others (R216). -/
def ex (t : Ty) (x : DWord) : Int := if tySigned t then sx (tyWidth t) x else (ux (tyWidth t) x : Int)
/-- A result modulo 2^w. -/
def wrapTo (w : Nat) (z : Int) : DWord := BitVec.ofNat 64 (z % (2 ^ w : Nat)).toNat
def wrapNat (w : Nat) (n : Nat) : DWord := BitVec.ofNat 64 (n % 2 ^ w)

def iaddV (t : Ty) (a b : DWord) : DWord := wrapNat (tyWidth t) (a.toNat + b.toNat)
def isubV (t : Ty) (a b : DWord) : DWord := wrapTo (tyWidth t) ((a.toNat : Int) - b.toNat)
def imulV (t : Ty) (a b : DWord) : DWord := wrapNat (tyWidth t) (a.toNat * b.toNat)
def imulhV (t : Ty) (a b : DWord) : DWord := wrapTo 32 ((ex t a * ex t b) / (2 ^ 32 : Nat))
def imadV (t : Ty) (a b c : DWord) : DWord := wrapNat (tyWidth t) (a.toNat * b.toNat + c.toNat)
def imadwV (t : Ty) (a b c : DWord) : DWord := wrapTo 64 (ex t a * ex t b + (c.toNat : Int))

/-- R57: the quotient rounds toward zero; by zero it is all ones; the most negative value by -1 is itself. -/
def idivV (t : Ty) (a b : DWord) : DWord :=
  if ux (tyWidth t) b = 0 then wrapTo (tyWidth t) (-1) else wrapTo (tyWidth t) ((ex t a).tdiv (ex t b))
/-- R57: the remainder has the dividend's sign; by zero it is the dividend. -/
def iremV (t : Ty) (a b : DWord) : DWord :=
  if ux (tyWidth t) b = 0 then wrapNat (tyWidth t) a.toNat else wrapTo (tyWidth t) ((ex t a).tmod (ex t b))

def iabsV (t : Ty) (a : DWord) : DWord := wrapTo (tyWidth t) (sx (tyWidth t) a).natAbs
def inegV (t : Ty) (a : DWord) : DWord := wrapTo (tyWidth t) (0 - (a.toNat : Int))
def iminV (t : Ty) (a b : DWord) : DWord :=
  if ex t a ≤ ex t b then wrapTo (tyWidth t) (ex t a) else wrapTo (tyWidth t) (ex t b)
def imaxV (t : Ty) (a b : DWord) : DWord :=
  if ex t b ≤ ex t a then wrapTo (tyWidth t) (ex t a) else wrapTo (tyWidth t) (ex t b)

/-- Table 13-2. -/
def icmpV (k : ICond) (t : Ty) (a b : DWord) : Bool :=
  match k with
  | .eq => decide (ux (tyWidth t) a = ux (tyWidth t) b)
  | .ne => decide (ux (tyWidth t) a ≠ ux (tyWidth t) b)
  | .lt => decide (ex t a < ex t b)
  | .le => decide (ex t a ≤ ex t b)
  | .gt => decide (ex t b < ex t a)
  | .ge => decide (ex t b ≤ ex t a)

def iselV (a b c : DWord) : DWord := if ux 32 c = 0 then b else a
def andnV (a b : DWord) : DWord := a &&& ~~~b
def notV (t : Ty) (a : DWord) : DWord := wrapNat (tyWidth t) (~~~a).toNat

/-- R220: shift counts are unsigned 32-bit numbers, not reduced modulo the width. -/
def shlV (t : Ty) (a b : DWord) : DWord :=
  let n := ux 32 b
  if n < tyWidth t then wrapNat (tyWidth t) (a.toNat * 2 ^ n) else 0
def shrV (t : Ty) (a b : DWord) : DWord :=
  let n := ux 32 b
  if n < tyWidth t then BitVec.ofNat 64 (ux (tyWidth t) a / 2 ^ n) else 0
def shraV (t : Ty) (a b : DWord) : DWord :=
  let n := ux 32 b
  if n < tyWidth t then wrapTo (tyWidth t) (sx (tyWidth t) a / (2 ^ n : Nat))
  else if sx (tyWidth t) a < 0 then wrapTo (tyWidth t) (-1) else 0
def rotlV (t : Ty) (a b : DWord) : DWord :=
  let w := tyWidth t
  let k := ux 32 b % w
  if k = 0 then wrapNat w a.toNat else wrapNat w (a.toNat * 2 ^ k + ux w a / 2 ^ (w - k))
def funnelV (a b c : DWord) : DWord := wrapNat 32 ((ux 32 b * 2 ^ 32 + ux 32 a) / 2 ^ (ux 32 c % 32))

/-- R221: the number of one bits among the lowest `n`. -/
def popcN (x : Nat) : Nat → Nat
  | 0 => 0
  | n + 1 => popcN x n + (if x.testBit n then 1 else 0)
/-- Zero bits above the highest one bit, among the lowest `n`. -/
def clzN (x : Nat) : Nat → Nat
  | 0 => 0
  | n + 1 => if x.testBit n then 0 else clzN x n + 1
/-- Zero bits below the lowest one bit, counting from bit `i` over `n` bits. -/
def ctzN (x : Nat) (i : Nat) : Nat → Nat
  | 0 => 0
  | n + 1 => if x.testBit i then 0 else ctzN x (i + 1) n + 1
def popcV (t : Ty) (a : DWord) : DWord := BitVec.ofNat 64 (popcN a.toNat (tyWidth t))
def clzV (t : Ty) (a : DWord) : DWord := BitVec.ofNat 64 (clzN a.toNat (tyWidth t))
def ctzV (t : Ty) (a : DWord) : DWord := BitVec.ofNat 64 (ctzN a.toNat 0 (tyWidth t))
/-- d[i] ← a[w − 1 − i]. -/
def brevV (t : Ty) (a : DWord) : DWord :=
  BitVec.ofNat 64 ((List.range (tyWidth t)).foldl
    (fun acc i => acc + (if a.toNat.testBit (tyWidth t - 1 - i) then 2 ^ i else 0)) 0)

/-- Table 13-3: position and length of a field. -/
def bfPos (b : DWord) : Nat := ux 32 b % 32
def bfLen (b : DWord) : Nat := min (ux 32 b / 256 % 64) (32 - bfPos b)

def bfxV (t : Ty) (a b : DWord) : DWord :=
  let len := bfLen b
  let f := ux 32 a / 2 ^ bfPos b % 2 ^ len
  if len = 0 then 0
  else if tySigned t && f.testBit (len - 1) then wrapTo 32 ((f : Int) - (2 ^ len : Nat)) else BitVec.ofNat 64 f
def bfiV (a b c : DWord) : DWord :=
  let mask : DWord := wrapNat 32 ((2 ^ bfLen b - 1) * 2 ^ bfPos b)
  (wrapNat 32 c.toNat &&& ~~~mask) ||| (wrapNat 32 (a.toNat * 2 ^ bfPos b) &&& mask)

/-- R223. -/
def leaV (t : Ty) (sh : Nat) (a b : DWord) : DWord := wrapTo 64 ((a.toNat : Int) + ex t b * (2 ^ sh : Nat))

/-- R224: the bit of the truth table that three predicates choose. -/
def plopV (tt : Byte) (pa pb pc : Bool) : Bool :=
  tt.getLsbD ((if pa then 4 else 0) + (if pb then 2 else 0) + (if pc then 1 else 0))

/-- R74. -/
def seedflipV (a b : DWord) : DWord :=
  let s : Word := a.setWidth 32
  let j : Word := b.setWidth 32
  let x := s ^^^ (j * 0x2545F491#32)
  let x := x ^^^ (x >>> 15)
  let x := x * 0x2C1B3C6D#32
  let x := x ^^^ (x >>> 12)
  (x &&& 0xFFFF#32).setWidth 64

end Sys2Proof.Machine
end

