-- ==== Sys2Proof/Machine/Float.lean ====
section
/-!
DEFINITION. Floating-point values and the one rounding that every float result goes through (R58-R69, R228-R235).
A finite value is an exact sign, natural significand and binary exponent; results are rounded once, from the
exact value.
-/

namespace Sys2Proof.Machine

/-- A binary format: exponent bits and fraction bits. -/
structure Fmt where
  ebits : Nat
  fbits : Nat
deriving DecidableEq, Repr

def f32 : Fmt := ⟨8, 23⟩
def f16 : Fmt := ⟨5, 10⟩
def bf16 : Fmt := ⟨8, 7⟩

/-- The format a type names. -/
def fmtOf (t : Ty) : Fmt :=
  match t with
  | .f16 | .f16x2 => f16
  | .bf16 | .bf16x2 => bf16
  | _ => f32

/-- Rounding modes (Table 01-3, FMODE). -/
inductive RMode
  | rn | rz | rd | ru
deriving DecidableEq, Repr

/-- A value read from a format: (-1)^neg * m * 2^e when finite. -/
inductive FVal
  | nan (signalling : Bool)
  | inf (neg : Bool)
  | fin (neg : Bool) (m : Nat) (e : Int)
deriving DecidableEq, Repr

/-- FSTAT flags, laid out as Table 01-3: NV DZ OF UF NX from bit 4 down. -/
abbrev FFlags := BitVec 5
def fNV : FFlags := 0x10#5
def fDZ : FFlags := 0x08#5
def fOF : FFlags := 0x04#5
def fUF : FFlags := 0x02#5
def fNX : FFlags := 0x01#5

def Fmt.bits (f : Fmt) : Nat := f.ebits + f.fbits + 1
def Fmt.bias (f : Fmt) : Int := (2 ^ (f.ebits - 1) : Nat) - 1
/-- The exponent of the lowest bit of a subnormal. -/
def Fmt.qmin (f : Fmt) : Int := 1 - f.bias - (f.fbits : Int)
def Fmt.signBit (f : Fmt) : Nat := 2 ^ (f.bits - 1)
def Fmt.infBits (f : Fmt) : Nat := (2 ^ f.ebits - 1) * 2 ^ f.fbits
def Fmt.maxBits (f : Fmt) : Nat := f.infBits - 1
/-- R61: the canonical quiet NaN. -/
def Fmt.nanBits (f : Fmt) : Nat := f.infBits + 2 ^ (f.fbits - 1)
def Fmt.signed (f : Fmt) (neg : Bool) (mag : Nat) : Nat := if neg then f.signBit + mag else mag

/-- The value that bits of a format stand for; bits above the format are ignored (R214). -/
def Fmt.unpack (f : Fmt) (w : Nat) : FVal :=
  let frac := w % 2 ^ f.fbits
  let ex := w / 2 ^ f.fbits % 2 ^ f.ebits
  let neg := w.testBit (f.bits - 1)
  if ex = 2 ^ f.ebits - 1 then
    if frac = 0 then .inf neg else .nan (frac < 2 ^ (f.fbits - 1))
  else if ex = 0 then .fin neg frac f.qmin
  else .fin neg (frac + 2 ^ f.fbits) (f.qmin + ((ex : Int) - 1))

/-- The number of bits of a significand. -/
def bitLen (m : Nat) : Nat := if m = 0 then 0 else Nat.log2 m + 1

/-- The significand m*2^e, plus a part below its last bit when `sticky`, rounded to a multiple of 2^q by the mode;
and whether the result is inexact. -/
def roundAt (mode : RMode) (neg : Bool) (m : Nat) (e : Int) (sticky : Bool) (q : Int) : Nat × Bool :=
  if q ≤ e then (m * 2 ^ (e - q).toNat, sticky)
  else
    let sh := (q - e).toNat
    let lo := m >>> sh
    let rem := m % 2 ^ sh
    let half := 2 ^ (sh - 1)
    let inexact := rem != 0 || sticky
    let up :=
      match mode with
      | .rn => decide (half < rem) || (rem == half && (sticky || lo % 2 == 1))
      | .rz => false
      | .rd => neg && inexact
      | .ru => !neg && inexact
    (if up then lo + 1 else lo, inexact)

/-- R58: what an overflowing result becomes. -/
def Fmt.overflow (f : Fmt) (mode : RMode) (neg : Bool) : Nat :=
  match mode with
  | .rn => f.signed neg f.infBits
  | .rz => f.signed neg f.maxBits
  | .ru => f.signed neg (if neg then f.maxBits else f.infBits)
  | .rd => f.signed neg (if neg then f.infBits else f.maxBits)

/-- R58, R60, R63: a non-zero magnitude rounded into the format, with the flags it raises. -/
def Fmt.round (f : Fmt) (mode : RMode) (neg : Bool) (m : Nat) (e : Int) (sticky : Bool) : Nat × FFlags :=
  let q0 : Int := e + (bitLen m : Int) - ((f.fbits : Int) + 1)
  let free := roundAt mode neg m e sticky q0
  let emax : Int := f.bias
  let overflows := decide (2 ^ (f.fbits + 1) ≤ free.1) && decide (emax ≤ q0 + f.fbits) ||
    decide (emax < q0 + f.fbits)
  if overflows then (f.overflow mode neg, fOF ||| fNX)
  else
    let q := max q0 f.qmin
    let r := roundAt mode neg m e sticky q
    let mag := r.1 + (q - f.qmin).toNat * 2 ^ f.fbits
    let tiny := decide (q0 + (bitLen free.1 : Int) - 1 < 1 - f.bias)
    (f.signed neg mag, (if r.2 then fNX else 0) ||| (if r.2 && tiny then fUF else 0))

/-- A signed exact value n*2^e, rounded; an exact zero takes the sign given. -/
def Fmt.roundInt (f : Fmt) (mode : RMode) (n : Int) (e : Int) (zeroNeg : Bool) : Nat × FFlags :=
  if n = 0 then (f.signed zeroNeg 0, 0) else f.round mode (decide (n < 0)) n.natAbs e false

/-- A quotient num/den * 2^e of positive numbers, rounded. -/
def Fmt.roundQuot (f : Fmt) (mode : RMode) (neg : Bool) (num den : Nat) (e : Int) : Nat × FFlags :=
  let sh := f.fbits + 4 + bitLen den
  let n := num * 2 ^ sh
  f.round mode neg (n / den) (e - sh) (n % den != 0)

def FVal.isNan : FVal → Bool
  | .nan _ => true
  | _ => false
def FVal.isSnan : FVal → Bool
  | .nan s => s
  | _ => false

/-- R61: the canonical NaN, with NV if an input is signalling. -/
def Fmt.nanOf (f : Fmt) (vs : List FVal) : Nat × FFlags :=
  (f.nanBits, if vs.any FVal.isSnan then fNV else 0)

def FVal.neg : FVal → FVal
  | .nan s => .nan s
  | .inf n => .inf !n
  | .fin n m e => .fin (!n) m e

/-- The exact product of two finite or infinite values; `none` for 0 × Inf. NaN operands are excluded before. -/
def FVal.mul : FVal → FVal → Option FVal
  | .fin n m e, .fin n' m' e' => some (.fin (n != n') (m * m') (e + e'))
  | .inf n, .inf n' => some (.inf (n != n'))
  | .inf n, .fin n' m _ => if m = 0 then none else some (.inf (n != n'))
  | .fin n m _, .inf n' => if m = 0 then none else some (.inf (n != n'))
  | _, _ => none

/-- R60, R233: the sign of an exact zero sum of these terms: their common sign, else negative only under RD. That terms all of +0 sum
to +0 under RD too is the model's, for `FDOT2`, whose rule names only terms all of -0 (DESIGN CHOICE, assumption 61). -/
def zeroSign (mode : RMode) (negs : List Bool) : Bool :=
  if negs.all id then true else if negs.all not then false else mode == .rd

/-- The sum of terms none of which is a NaN, exact, rounded once; infinities of opposite sign raise NV. -/
def Fmt.sum (f : Fmt) (mode : RMode) (ts : List FVal) : Nat × FFlags :=
  let infs := ts.filterMap fun | .inf n => some n | _ => none
  match infs with
  | n :: rest => if rest.all (· == n) then (f.signed n f.infBits, 0) else (f.nanBits, fNV)
  | [] =>
    let fins := ts.filterMap fun | .fin n m e => some (n, m, e) | _ => none
    let emin := fins.foldl (fun a t => min a t.2.2) (fins.headD (false, 0, 0)).2.2
    let total : Int := fins.foldl
      (fun a t => a + (if t.1 then -1 else 1) * ((t.2.1 * 2 ^ (t.2.2 - emin).toNat : Nat) : Int)) 0
    let allZero := fins.all fun t => t.2.1 == 0
    let zs := if allZero then zeroSign mode (fins.map (·.1)) else mode == .rd
    f.roundInt mode total emin zs

/-- R228: a + b. -/
def fadd (f : Fmt) (mode : RMode) (a b : Nat) : Nat × FFlags :=
  let x := f.unpack a; let y := f.unpack b
  if x.isNan || y.isNan then f.nanOf [x, y] else f.sum mode [x, y]

/-- R228: a − b. -/
def fsub (f : Fmt) (mode : RMode) (a b : Nat) : Nat × FFlags :=
  let x := f.unpack a; let y := (f.unpack b).neg
  if x.isNan || y.isNan then f.nanOf [x, y] else f.sum mode [x, y]

/-- R228: a × b. -/
def fmul (f : Fmt) (mode : RMode) (a b : Nat) : Nat × FFlags :=
  let x := f.unpack a; let y := f.unpack b
  if x.isNan || y.isNan then f.nanOf [x, y]
  else
    match x.mul y with
    | none => (f.nanBits, fNV)
    | some p => f.sum mode [p]

/-- R228: a × b + c, rounded once; 0 × Inf raises NV even beside a quiet NaN. -/
def ffma (f : Fmt) (mode : RMode) (a b c : Nat) : Nat × FFlags :=
  let x := f.unpack a; let y := f.unpack b; let z := f.unpack c
  if x.isNan || y.isNan then f.nanOf [x, y, z]
  else
    match x.mul y with
    | none => (f.nanBits, fNV)
    | some p => if z.isNan then f.nanOf [z] else f.sum mode [p, z]

/-- R233: a0 × b0 + a1 × b1 + c, the products in the format `f` and the sum rounded once to FP32. -/
def fdot2 (f : Fmt) (mode : RMode) (a b c : Nat) : Nat × FFlags :=
  let x0 := f.unpack a; let y0 := f.unpack b
  let x1 := f.unpack (a / 2 ^ 16); let y1 := f.unpack (b / 2 ^ 16)
  let z := f32.unpack c
  let bad (x y : FVal) : Bool := !x.isNan && !y.isNan && (x.mul y).isNone
  if bad x0 y0 || bad x1 y1 then (f32.nanBits, fNV)
  else if [x0, y0, x1, y1, z].any FVal.isNan then f32.nanOf [x0, y0, x1, y1, z]
  else
    match x0.mul y0, x1.mul y1 with
    | some p, some p' => f32.sum mode [p, p', z]
    | _, _ => (f32.nanBits, fNV)

/-- A key that orders the values of a format, infinities included, with the zeros equal. -/
def Fmt.key (f : Fmt) (w : Nat) : Int :=
  let mag := w % f.signBit
  if w.testBit (f.bits - 1) then -(mag : Int) else mag

/-- R62; `wantMax` chooses FMAX. -/
def fminmax (f : Fmt) (wantMax : Bool) (a b : Nat) : Nat × FFlags :=
  let x := f.unpack a; let y := f.unpack b
  let a' := a % 2 ^ f.bits; let b' := b % 2 ^ f.bits
  let fl := if x.isSnan || y.isSnan then fNV else 0
  if x.isNan && y.isNan then (f.nanBits, fl)
  else if x.isNan then (b', fl)
  else if y.isNan then (a', fl)
  else
    let aLess := decide (f.key a < f.key b) || (f.key a == f.key b && a.testBit (f.bits - 1))
    (if aLess != wantMax then a' else b', fl)

def fabsV (f : Fmt) (a : Nat) : Nat := a % f.signBit
def fnegV (f : Fmt) (a : Nat) : Nat :=
  if a.testBit (f.bits - 1) then a % f.signBit else a % f.signBit + f.signBit

/-- Table 13-5. -/
def fcmpV (f : Fmt) (k : FCond) (a b : Nat) : Bool × FFlags :=
  let x := f.unpack a; let y := f.unpack b
  let un := x.isNan || y.isNan
  let quiet : FFlags := if x.isSnan || y.isSnan then fNV else 0
  let loud : FFlags := if un then fNV else 0
  match k with
  | .eq => (!un && f.key a == f.key b, quiet)
  | .ne => (un || f.key a != f.key b, quiet)
  | .lt => (!un && decide (f.key a < f.key b), loud)
  | .le => (!un && decide (f.key a ≤ f.key b), loud)
  | .gt => (!un && decide (f.key b < f.key a), loud)
  | .ge => (!un && decide (f.key b ≤ f.key a), loud)
  | .un => (un, quiet)
  | .ord => (!un, quiet)

/-- Table 13-6. -/
def fclassV (a : Nat) : Nat :=
  match f32.unpack a with
  | .nan true => 1
  | .nan false => 2
  | .inf true => 4
  | .inf false => 512
  | .fin neg m _ =>
    if m = 0 then (if neg then 32 else 64)
    else if m < 2 ^ 23 then (if neg then 16 else 128)
    else (if neg then 8 else 256)

/-- R232: to an integral FP32 value. -/
def frndV (mode : RMode) (a : Nat) : Nat × FFlags :=
  match f32.unpack a with
  | .nan s => f32.nanOf [.nan s]
  | .inf n => (f32.signed n f32.infBits, 0)
  | .fin neg m e =>
    let r := roundAt mode neg m e false (max 0 e)
    if r.1 = 0 then (f32.signed neg 0, if r.2 then fNX else 0)
    else ((f32.round .rn neg r.1 (max 0 e) false).1, if r.2 then fNX else 0)

/-- R232: a × 2^n, one rounding. The exponent is held within the span where the result can still differ. -/
def fscaleV (mode : RMode) (a : Nat) (n : Int) : Nat × FFlags :=
  match f32.unpack a with
  | .nan s => f32.nanOf [.nan s]
  | .inf neg => (f32.signed neg f32.infBits, 0)
  | .fin neg m e =>
    if m = 0 then (f32.signed neg 0, 0) else f32.round mode neg m (e + max (-1000) (min 1000 n)) false

/-- A conversion between formats: exact value, one rounding (Table 03-2). -/
def cvtFF (src dst : Fmt) (mode : RMode) (a : Nat) : Nat × FFlags :=
  match src.unpack a with
  | .nan s => dst.nanOf [.nan s]
  | .inf n => (dst.signed n dst.infBits, 0)
  | .fin neg m e => if m = 0 then (dst.signed neg 0, 0) else dst.round mode neg m e false

/-- Least and greatest values of an integer type (R234: a .b type has the unsigned range). -/
def intLo (t : Ty) : Int :=
  match t with
  | .s8 => -(2 ^ 7 : Nat) | .s16 => -(2 ^ 15 : Nat) | .s32 => -(2 ^ 31 : Nat) | .s64 => -(2 ^ 63 : Nat)
  | _ => 0
def intHi (t : Ty) : Int :=
  match t with
  | .s8 => (2 ^ 7 : Nat) - 1 | .n8 => (2 ^ 8 : Nat) - 1
  | .s16 => (2 ^ 15 : Nat) - 1 | .n16 => (2 ^ 16 : Nat) - 1
  | .s32 => (2 ^ 31 : Nat) - 1 | .s64 => (2 ^ 63 : Nat) - 1
  | .b64 | .n64 => (2 ^ 64 : Nat) - 1
  | _ => (2 ^ 32 : Nat) - 1

/-- Table 03-2, float to integer. -/
def cvtFI (src : Fmt) (t : Ty) (mode : RMode) (a : Nat) : Int × FFlags :=
  match src.unpack a with
  | .nan _ => (0, fNV)
  | .inf n => (if n then intLo t else intHi t, fNV)
  | .fin neg m e =>
    let r := roundAt mode neg m e false (max 0 e)
    let mag : Int := ((r.1 * 2 ^ (max 0 e).toNat : Nat) : Int)
    let v := if neg then -mag else mag
    if v < intLo t then (intLo t, fNV)
    else if intHi t < v then (intHi t, fNV)
    else (v, if r.2 then fNX else 0)

/-- Table 03-2, integer to float. -/
def cvtIF (dst : Fmt) (mode : RMode) (n : Int) : Nat × FFlags := dst.roundInt mode n 0 false

def isFloatTy (t : Ty) : Bool := t == .f32 || t == .f16 || t == .bf16

/-- Bits of an integer type. -/
def intBits (t : Ty) : Nat :=
  match t with
  | .s8 | .n8 => 8
  | .s16 | .n16 => 16
  | .b64 | .s64 | .n64 => 64
  | _ => 32

/-- An integer source of `CVT`, read from its low bits (R234). -/
def cvtSrcInt (t : Ty) (a : DWord) : Int := if tySigned t then sx (intBits t) a else (ux (intBits t) a : Int)
/-- An integer result of `CVT`, extended to its registers (R234). -/
def cvtDstInt (t : Ty) (v : Int) : DWord := wrapTo (if intBits t = 64 then 64 else 32) v

/-- R234. -/
def cvtV (dt st : Ty) (mode : RMode) (a : DWord) : DWord × FFlags :=
  if isFloatTy st then
    if isFloatTy dt then
      let r := cvtFF (fmtOf st) (fmtOf dt) mode (a.toNat % 2 ^ 32)
      (BitVec.ofNat 64 r.1, r.2)
    else
      let r := cvtFI (fmtOf st) dt mode (a.toNat % 2 ^ 32)
      (cvtDstInt dt r.1, r.2)
  else
    let v := cvtSrcInt st a
    if isFloatTy dt then
      let r := cvtIF (fmtOf dt) mode v
      (BitVec.ofNat 64 r.1, r.2)
    else if dt == .b32 || dt == .b64 then (cvtDstInt dt v, 0)
    else (cvtDstInt dt (max (intLo dt) (min (intHi dt) v)), 0)

/-- An operation on both elements of a pair (R65). -/
def packed2 (op : Nat → Nat → Nat → Nat × FFlags) (a b c : Nat) : Nat × FFlags :=
  let lo := op (a % 2 ^ 16) (b % 2 ^ 16) (c % 2 ^ 16)
  let hi := op (a / 2 ^ 16 % 2 ^ 16) (b / 2 ^ 16 % 2 ^ 16) (c / 2 ^ 16 % 2 ^ 16)
  (hi.1 * 2 ^ 16 + lo.1, hi.2 ||| lo.2)

/-- R235. -/
def pack2V (t : Ty) (mode : RMode) (a b : Nat) : Nat × FFlags :=
  let lo := cvtFF f32 (fmtOf t) mode a
  let hi := cvtFF f32 (fmtOf t) mode b
  (hi.1 * 2 ^ 16 + lo.1, hi.2 ||| lo.2)
/-- R235: the even register in the low half. -/
def unpack2V (t : Ty) (a : Nat) : DWord × FFlags :=
  let lo := cvtFF (fmtOf t) f32 .rn (a % 2 ^ 16)
  let hi := cvtFF (fmtOf t) f32 .rn (a / 2 ^ 16 % 2 ^ 16)
  (BitVec.ofNat 64 (hi.1 * 2 ^ 32 + lo.1), hi.2 ||| lo.2)

/-! ### Arithmetic of the engines: FP32, RNE, no flags (R64, R59) -/

def rneAdd (a b : Nat) : Nat := (fadd f32 .rn a b).1
def rneSub (a b : Nat) : Nat := (fsub f32 .rn a b).1
def rneMul (a b : Nat) : Nat := (fmul f32 .rn a b).1
def rneFma (a b c : Nat) : Nat := (ffma f32 .rn a b c).1
def rneMax (a b : Nat) : Nat := (fminmax f32 true a b).1

/-- A correctly rounded FP32 quotient (R82). -/
def rneDiv (a b : Nat) : Nat :=
  match f32.unpack a, f32.unpack b with
  | .nan _, _ => f32.nanBits
  | _, .nan _ => f32.nanBits
  | .inf _, .inf _ => f32.nanBits
  | .inf n, .fin n' _ _ => f32.signed (n != n') f32.infBits
  | .fin n _ _, .inf n' => f32.signed (n != n') 0
  | .fin n m e, .fin n' m' e' =>
    if m' = 0 then (if m = 0 then f32.nanBits else f32.signed (n != n') f32.infBits)
    else if m = 0 then f32.signed (n != n') 0
    else (f32.roundQuot .rn (n != n') m m' (e - e')).1

end Sys2Proof.Machine
end

