-- ==== Sys2Proof/Machine/Special.lean ====
section
/-!
DEFINITION. The special functions of class 0x3 (R67-R69). `RCP`, `RSQ` and `SQRT` are exact algebra. The others
are enclosed between two fixed-point numbers with `P` bits after the point; when both ends round to one FP32
value, that is the correctly rounded result, and otherwise a higher precision is tried (DEDUCED, assumption 14).
-/

namespace Sys2Proof.Machine

/-- The integer square root, by bits from 2^k down. -/
def isqrtGo (n : Nat) : Nat → Nat → Nat
  | 0, acc => acc
  | k + 1, acc => let t := acc + 2 ^ k; isqrtGo n k (if t * t ≤ n then t else acc)
def isqrt (n : Nat) : Nat := isqrtGo n (bitLen n / 2 + 1) 0

/-- Table 03-4. -/
def rcpV (a : Nat) : Nat × FFlags :=
  match f32.unpack a with
  | .nan s => f32.nanOf [.nan s]
  | .inf n => (f32.signed n 0, 0)
  | .fin neg m e =>
    if m = 0 then (f32.signed neg f32.infBits, fDZ)
    else
      -- |1/x| < 2^-126 exactly when m*2^e > 2^126
      let big := if 126 ≤ e then decide (1 < m * 2 ^ (e - 126).toNat) else decide (2 ^ (126 - e).toNat < m)
      if big then (f32.signed neg 0, fUF ||| fNX) else f32.roundQuot .rn neg 1 m (-e)

/-- Table 03-3, SQRT. -/
def sqrtV (a : Nat) : Nat × FFlags :=
  match f32.unpack a with
  | .nan s => f32.nanOf [.nan s]
  | .inf n => if n then (f32.nanBits, fNV) else (f32.infBits, 0)
  | .fin neg m e =>
    if m = 0 then (f32.signed neg 0, 0)
    else if neg then (f32.nanBits, fNV)
    else
      let odd := e % 2 != 0
      let n := (if odd then 2 * m else m) * 2 ^ 64
      let r := isqrt n
      f32.round .rn false r ((if odd then e - 1 else e) / 2 - 32) (r * r != n)

/-- Table 03-3, RSQ: the square root of the quotient 2^k / m. -/
def rsqV (a : Nat) : Nat × FFlags :=
  match f32.unpack a with
  | .nan s => f32.nanOf [.nan s]
  | .inf n => if n then (f32.nanBits, fNV) else (0, 0)
  | .fin neg m e =>
    if m = 0 then (f32.signed neg f32.infBits, fDZ)
    else if neg then (f32.nanBits, fNV)
    else
      let odd := e % 2 != 0
      let m' := if odd then 2 * m else m
      let e' := if odd then e - 1 else e
      let q := 2 ^ 100 / m'
      let r := isqrt q
      f32.round .rn false r (-50 - e' / 2) (r * r * m' != 2 ^ 100)

/-! ### Fixed point with `P` fraction bits -/

/-- The error, in units of the last place, that every enclosure below allows for. -/
def fxErr : Int := 2 ^ 20

/-- Sum over k of 1 / ((2k+1) * d^(2k+1)) * (sgn)^k, each term cut to P bits: arctangent (sgn -1) or its
hyperbolic companion (sgn 1) of 1/d. -/
def atanInvGo (d : Int) (sgn : Int) : Nat → Int → Int → Int → Int
  | 0, _, _, acc => acc
  | n + 1, pw, k, acc => atanInvGo d sgn n (sgn * (pw / (d * d))) (k + 2) (acc + pw / k)
def atanInv (P : Nat) (d : Int) (sgn : Int) : Int := atanInvGo d sgn (P / 2 + 8) ((2 ^ P : Nat) / d) 1 0

/-- π by Machin's formula. -/
def fxPi (P : Nat) : Int := 4 * (4 * atanInv P 5 (-1) - atanInv P 239 (-1))
/-- ln 2 = 2 * artanh(1/3). -/
def fxLn2 (P : Nat) : Int := 2 * atanInv P 3 1

def fxMul (P : Nat) (a b : Int) : Int := a * b / (2 ^ P : Nat)

/-- exp of a fixed-point number of magnitude below 1. -/
def fxExpGo (P : Nat) (x : Int) : Nat → Int → Int → Int → Int
  | 0, _, _, acc => acc
  | n + 1, t, k, acc => let t' := fxMul P t x / k; fxExpGo P x n t' (k + 1) (acc + t')
def fxExp (P : Nat) (x : Int) : Int := fxExpGo P x (P / 4 + 20) (2 ^ P : Nat) 1 (2 ^ P : Nat)

/-- sin (start x, k 1) and cos (start 1, k 0) of a fixed-point number of magnitude below 1. -/
def fxTrigGo (P : Nat) (x2 : Int) : Nat → Int → Int → Int → Int
  | 0, _, _, acc => acc
  | n + 1, t, k, acc =>
    let t' := -(fxMul P t x2 / ((k + 1) * (k + 2)))
    fxTrigGo P x2 n t' (k + 2) (acc + t')
def fxSin (P : Nat) (x : Int) : Int := fxTrigGo P (fxMul P x x) (P / 8 + 20) x 1 x
def fxCos (P : Nat) (x : Int) : Int := fxTrigGo P (fxMul P x x) (P / 8 + 20) (2 ^ P : Nat) 0 (2 ^ P : Nat)

/-- 2 * artanh z for |z| < 1/5. -/
def fxLogGo (P : Nat) (z2 : Int) : Nat → Int → Int → Int → Int
  | 0, _, _, acc => acc
  | n + 1, pw, k, acc => let pw' := fxMul P pw z2; fxLogGo P z2 n pw' (k + 2) (acc + pw' / k)
def fxLog (P : Nat) (z : Int) : Int := 2 * fxLogGo P (fxMul P z z) (P / 4 + 8) z 3 z

/-- m*2^e as a fixed-point number, cut. -/
def fxOf (P : Nat) (neg : Bool) (m : Nat) (e : Int) : Int :=
  let s : Int := e + P
  let mag : Int := if 0 ≤ s then (m * 2 ^ s.toNat : Nat) else (m / 2 ^ (-s).toNat : Nat)
  if neg then -mag else mag

/-- An enclosed value: between (v - err) * 2^s and (v + err) * 2^s. -/
structure Encl where
  v : Int
  s : Int
deriving Repr

/-- The FP32 value and flags on which both ends of an enclosure agree. -/
def Encl.settle (x : Encl) : Option (Nat × FFlags) :=
  let lo := x.v - fxErr
  let hi := x.v + fxErr
  if 0 < lo then
    let a := f32.round .rn false lo.natAbs x.s true
    let b := f32.round .rn false hi.natAbs x.s true
    if a = b then some a else none
  else if hi < 0 then
    let a := f32.round .rn true hi.natAbs x.s true
    let b := f32.round .rn true lo.natAbs x.s true
    if a = b then some a else none
  else none

/-- The first precision at which the enclosure settles; a free value where none of them does. -/
def settleAt (tag a : Nat) (g : Nat → Encl) : List Nat → Nat × FFlags
  | [] => ((Config.freeWord tag a).toNat, fNX)
  | P :: rest =>
    match (g P).settle with
    | some r => r
    | none => settleAt tag a g rest

/-- The precisions tried, above `base`. -/
def precisions (base : Nat) : List Nat := [base + 96, base + 160, base + 288]

/-- 2^(m*2^e): the fraction part by series, the integer part as the exponent. -/
def ex2Encl (neg : Bool) (m : Nat) (e : Int) (P : Nat) : Encl :=
  let x := fxOf P neg m e
  let k := x / (2 ^ P : Nat)
  let f := x - k * (2 ^ P : Nat)
  ⟨fxExp P (fxMul P f (fxLn2 P)), k - P⟩

/-- Table 03-3, EX2. -/
def ex2V (a : Nat) : Nat × FFlags :=
  match f32.unpack a with
  | .nan s => f32.nanOf [.nan s]
  | .inf n => if n then (0, 0) else (f32.infBits, 0)
  | .fin neg m e =>
    if m = 0 then (f32.signed false 0x3F800000, 0)
    else
      let r := roundAt .rz neg m e false (max 0 e)
      let mag : Int := (min (r.1 * 2 ^ (max 0 e).toNat) 1000 : Nat)
      let n := if neg then -mag else mag
      if r.2 = false then f32.round .rn false 1 n false
      else if 128 ≤ n then (f32.infBits, fOF ||| fNX)
      else if n ≤ -152 then (0, fUF ||| fNX)
      else settleAt 11 a (ex2Encl neg m e) (precisions 32)

/-- log2 of m*2^e, with the significand brought into [2/3, 4/3). -/
def lg2Encl (m : Nat) (e : Int) (P : Nat) : Encl :=
  let nb := bitLen m
  let small := decide (3 * m < 2 * 2 ^ nb)
  -- m / 2^nb lies in [1/2, 1); the significand is doubled when it is below 2/3
  let num : Int := (if small then 2 * m else m : Nat)
  let den : Int := (2 ^ nb : Nat)
  let k : Int := e + nb - (if small then 1 else 0)
  let z := (num - den) * (2 ^ P : Nat) / (num + den)
  let l := fxLog P z * (2 ^ P : Nat) / fxLn2 P
  ⟨k * (2 ^ P : Nat) + l, -(P : Int)⟩

/-- Table 03-3, LG2; a power of two gives its exponent exactly. -/
def lg2V (a : Nat) : Nat × FFlags :=
  match f32.unpack a with
  | .nan s => f32.nanOf [.nan s]
  | .inf n => if n then (f32.nanBits, fNV) else (f32.infBits, 0)
  | .fin neg m e =>
    if m = 0 then (f32.signed true f32.infBits, fDZ)
    else if neg then (f32.nanBits, fNV)
    else if m = 2 ^ (bitLen m - 1) then f32.roundInt .rn (e + (bitLen m - 1 : Nat)) 0 false
    else settleAt 12 a (lg2Encl m e) (precisions 64)

/-- sin or cos after reduction by the nearest multiple of π/2. -/
def trigEncl (cosine : Bool) (neg : Bool) (m : Nat) (e : Int) (P : Nat) : Encl :=
  let pi := fxPi (P + 32)
  let x := fxOf (P + 32) neg m e
  let k := (4 * x + pi) / (2 * pi)
  let r := (x - k * pi / 2) / (2 ^ 32 : Nat)
  let q := (k + (if cosine then 1 else 0)) % 4
  ⟨if q = 0 then fxSin P r else if q = 1 then fxCos P r else if q = 2 then -fxSin P r else -fxCos P r, -(P : Int)⟩

/-- Bits below the point that an operand of this exponent reaches. -/
def lowBits (e : Int) : Nat := (-e).toNat

/-- Table 03-3, SIN and COS; |x| < 2^24 (R67). -/
def trigV (cosine : Bool) (a : Nat) : Nat × FFlags :=
  match f32.unpack a with
  | .nan s => f32.nanOf [.nan s]
  | .inf _ => (f32.nanBits, fNV)
  | .fin neg m e =>
    if m = 0 then (if cosine then 0x3F800000 else f32.signed neg 0, 0)
    else if 24 < e + bitLen m then (f32.nanBits, fNV)
    else settleAt (if cosine then 14 else 13) a (trigEncl cosine neg m e) (precisions (32 + lowBits e))

def sinV (a : Nat) : Nat × FFlags := trigV false a
def cosV (a : Nat) : Nat × FFlags := trigV true a

/-- tanh by exp(-2|x|), whose argument is taken apart as 2^k * exp(r). -/
def tanhEncl (neg : Bool) (m : Nat) (e : Int) (P : Nat) : Encl :=
  let x := 2 * fxOf P false m e
  let ln2 := fxLn2 P
  let k := x / ln2
  let u := fxExp P (k * ln2 - x) / (2 ^ k.toNat : Nat)
  let one : Int := (2 ^ P : Nat)
  let t := (one - u) * one / (one + u)
  ⟨if neg then -t else t, -(P : Int)⟩

/-- Table 03-3, TANH; a magnitude of 16 and more is nearer to 1 than to any other FP32 value. -/
def tanhV (a : Nat) : Nat × FFlags :=
  match f32.unpack a with
  | .nan s => f32.nanOf [.nan s]
  | .inf n => (f32.signed n 0x3F800000, 0)
  | .fin neg m e =>
    if m = 0 then (f32.signed neg 0, 0)
    else if 4 < e + bitLen m then (f32.signed neg 0x3F800000, fNX)
    else settleAt 15 a (tanhEncl neg m e) (precisions (32 + lowBits e))

end Sys2Proof.Machine
end

