-- ==== Sys2Proof/Machine/Blocks.lean ====
section
/-!
DEFINITION. Shared-exponent blocks, the Hadamard transform and the sums of the matrix engine (R70-R79), as functions
of numbers: a block is the number its bytes spell, lowest byte first.
-/

namespace Sys2Proof.Machine

/-- The magnitude bits of a block format. -/
def Bf.mbits : Bf → Nat
  | .sb3 => 2 | .sb5 => 4 | .sb8 => 7
/-- Bytes of a block with m magnitude bits (R70). -/
def blockBytes (m : Nat) : Nat := 2 + 2 * (m + 1)

def blkE (b : Nat) : Nat := b % 256
def blkD (b p : Nat) : Nat := if b.testBit (8 + p) then 1 else 0
def blkCode (b m e : Nat) : Nat := b / 2 ^ (16 + (m + 1) * e) % 2 ^ (m + 1)
def blkMag (b m e : Nat) : Nat := blkCode b m e % 2 ^ m
def blkSign (b m e : Nat) : Bool := (blkCode b m e).testBit m

/-- R71, R73: an element as FP32 bits. -/
def blkDecode (b m e : Nat) : Nat :=
  if blkE b = 255 then f32.nanBits
  else
    let mag := blkMag b m e
    if mag = 0 then 0
    else (f32.round .rn (blkSign b m e) mag ((blkE b : Int) - 127 - blkD b (e / 2) - (m - 1 : Nat)) false).1

/-- The magnitude of a value, as significand and exponent; an infinity as a number beyond every format. -/
def fMag (x : Nat) : Nat × Int :=
  match f32.unpack x with
  | .fin _ m e => (m, e)
  | .inf _ => (1, 1000)
  | .nan _ => (0, 0)

/-- rne_int of magnitude / 2^q. -/
def rneInt (x : Nat) (q : Int) : Nat :=
  let v := fMag x
  if v.1 = 0 then 0 else if v.2 = 1000 then 2 ^ 20 else (roundAt .rn false v.1 v.2 false (max q v.2)).1 * 2 ^ (v.2 - q).toNat

/-- R72; bytes of the block as a number, and the flags. -/
def qblkV (m : Nat) (xs : List Nat) : Nat × FFlags :=
  let vs := xs.map f32.unpack
  if vs.any FVal.isNan then (255, if vs.any FVal.isSnan then fNV else 0)
  else
    let mag (x : Nat) : Nat := x % 2 ^ 31
    let pairMax (p : Nat) : Nat := max (mag (xs.getD (2 * p) 0)) (mag (xs.getD (2 * p + 1) 0))
    let top := (List.range 8).foldl (fun a p => max a (pairMax p)) 0
    if top = 0 then (0, 0)
    else
      let e : Int :=
        if top = f32.infBits then 254
        else let v := fMag top; max 0 (min 254 (v.2 + bitLen v.1 - 1 + 127))
      let d (p : Nat) : Nat := if rneInt (pairMax p) (e - 127 - 1 - (m - 1 : Nat)) ≤ 2 ^ m - 1 then 1 else 0
      let code (i : Nat) : Nat :=
        let x := xs.getD i 0
        let q := min (rneInt x (e - 127 - d (i / 2) - (m - 1 : Nat))) (2 ^ m - 1)
        q + (if q != 0 && x.testBit 31 then 2 ^ m else 0)
      let b := e.toNat + (List.range 8).foldl (fun a p => a + d p * 2 ^ (8 + p)) 0 +
        (List.range 16).foldl (fun a i => a + code i * 2 ^ (16 + (m + 1) * i)) 0
      let same (i : Nat) : Bool :=
        let y := blkDecode b m i
        let x := xs.getD i 0
        y == x || (mag x == 0 && y == 0)
      (b, if (List.range 16).all same then 0 else fNX)

/-- One butterfly stage of R75 over sixteen values, gathering flags. -/
def hadStage (h : Nat) (ys : List Nat) : List Nat × FFlags :=
  let r := (List.range 16).map fun i =>
    if i / h % 2 = 0 then fadd f32 .rn (ys.getD i 0) (ys.getD (i + h) 0)
    else fsub f32 .rn (ys.getD (i - h) 0) (ys.getD i 0)
  (r.map (·.1), r.foldl (fun a x => a ||| x.2) 0)

/-- R75: sixteen values and sixteen flip bits. -/
def had16V (ys : List Nat) (flips : Nat) : List Nat × FFlags :=
  let y0 := (List.range 16).map fun e => if flips.testBit e then fnegV f32 (ys.getD e 0) else ys.getD e 0
  let s1 := hadStage 1 y0
  let s2 := hadStage 2 s1.1
  let s4 := hadStage 4 s2.1
  let s8 := hadStage 8 s4.1
  let r := s8.1.map fun y => fmul f32 .rn y 0x3E800000
  (r.map (·.1), r.foldl (fun a x => a ||| x.2) (s1.2 ||| s2.2 ||| s4.2 ||| s8.2))

/-- R76. -/
def blockDot (a ma b mb : Nat) : Nat :=
  if blkE a = 255 ∨ blkE b = 255 then f32.nanBits
  else
    let i : Int := (List.range 16).foldl (fun acc e =>
      let t : Int := (blkMag a ma e * blkMag b mb e * 2 ^ (2 - blkD a (e / 2) - blkD b (e / 2)) : Nat)
      if blkSign a ma e != blkSign b mb e then acc - t else acc + t) 0
    (f32.roundInt .rn i ((blkE a : Int) + blkE b - 254 - (ma - 1 : Nat) - (mb - 1 : Nat) - 2) false).1

/-- R79: an accumulator element that is NaN stays the canonical NaN. -/
def accAdd (acc s : Nat) : Nat := rneAdd acc s

/-- R77: one K-step from the four block products. -/
def kstepBlocks (acc : Nat) (blk : Nat → Nat) : Nat :=
  accAdd acc (rneAdd (rneAdd (blk 0) (blk 1)) (rneAdd (blk 2) (blk 3)))

/-- One level of the sum tree of R78. -/
def pairSums : List Nat → List Nat
  | a :: b :: rest => rneAdd a b :: pairSums rest
  | l => l

/-- R78: one K-step from 64 products. -/
def kstepHalves (acc : Nat) (ts : List Nat) : Nat :=
  accAdd acc ((pairSums (pairSums (pairSums (pairSums (pairSums (pairSums ts)))))).headD 0)

/-- R78: a product of two 16-bit values, rounded once to FP32. -/
def halfMul (f : Fmt) (a b : Nat) : Nat :=
  rneMul (cvtFF f f32 .rn a).1 (cvtFF f f32 .rn b).1

end Sys2Proof.Machine
end

