-- ==== Sys2Proof/Machine/Map.lean ====
section
/-!
DEFINITION. The operations on sparse tables: reading, writing and removing one key. A table kept in rising key order
stays in it; keys that a write does not name keep their values.
-/

namespace Sys2Proof.Machine

variable {α : Type}

/-- The value listed for a key. -/
def find (m : SMap α) (k : Nat) : Option α :=
  match m with
  | [] => none
  | (j, x) :: r => if j = k then some x else find r k

/-- The value listed for a key, or the table's default. -/
def findD (m : SMap α) (k : Nat) (d : α) : α := (find m k).getD d

/-- The table with a key set, in its place in rising order. -/
def put (m : SMap α) (k : Nat) (x : α) : SMap α :=
  match m with
  | [] => [(k, x)]
  | (j, y) :: r => if k < j then (k, x) :: (j, y) :: r else if k = j then (k, x) :: r else (j, y) :: put r k x

/-- The table without a key. -/
def del (m : SMap α) (k : Nat) : SMap α := m.filter fun e => e.1 != k

/-- The table without a key, for tables kept in rising key order: the search ends where the key would stand. -/
def cut (m : SMap α) (k : Nat) : SMap α :=
  match m with
  | [] => []
  | (j, y) :: r => if k < j then (j, y) :: r else if k = j then r else (j, y) :: cut r k

/-- The table with a key set, where `d` is what an unlisted key holds: setting it to `d` removes the entry. -/
def setD [DecidableEq α] (m : SMap α) (k : Nat) (x d : α) : SMap α := if x = d then del m k else put m k x

/-- Whether the keys rise strictly from above `lo`. -/
def risingFrom (m : SMap α) (lo : Nat) : Bool :=
  match m with
  | [] => true
  | (k, _) :: r => decide (lo ≤ k) && risingFrom r (k + 1)

/-- The canonical form: keys strictly rising and no entry equal to what an unlisted key holds. -/
def canonical [DecidableEq α] (m : SMap α) (d : α) : Bool := risingFrom m 0 && m.all fun e => e.2 != d

/-- A number put in its place among rising ones. -/
def insertNat (x : Nat) (l : List Nat) : List Nat :=
  (l.filter fun y => decide (y < x)) ++ [x] ++ l.filter fun y => decide (x < y)

/-! ### Byte stores -/

/-- A store of bytes, where an unlisted address reads as zero. -/
abbrev Mem := List (Nat × Byte)

/-- One byte (DESIGN CHOICE, assumption 4: an address nothing has written reads as zero). -/
def Mem.read (m : Mem) (a : Nat) : Byte := findD m a 0
def Mem.write (m : Mem) (a : Nat) (b : Byte) : Mem := setD m a b 0
/-- The canonical form of a byte store. -/
def Mem.wf (m : Mem) : Bool := canonical m 0

/-- `n` bytes from `a`, lowest address first. -/
def Mem.readN (m : Mem) (a : Nat) : Nat → List Byte
  | 0 => []
  | n + 1 => m.read a :: Mem.readN m (a + 1) n
def Mem.writeL (m : Mem) (a : Nat) : List Byte → Mem
  | [] => m
  | b :: r => Mem.writeL (m.write a b) (a + 1) r
/-- Bytes at listed addresses. -/
def Mem.gather (m : Mem) (as : List Nat) : List Byte := as.map m.read
def Mem.scatter (m : Mem) : List (Nat × Byte) → Mem
  | [] => m
  | (a, b) :: r => Mem.scatter (m.write a b) r

/-- The number that bytes spell, lowest first (R4). -/
def leNat : List Byte → Nat
  | [] => 0
  | b :: r => b.toNat + 256 * leNat r
/-- The lowest `n` bytes of a number, lowest first. -/
def leBytes (x : Nat) : Nat → List Byte
  | 0 => []
  | n + 1 => BitVec.ofNat 8 x :: leBytes (x / 256) n

def Mem.readNat (m : Mem) (a n : Nat) : Nat := leNat (m.readN a n)
def Mem.writeNat (m : Mem) (a n x : Nat) : Mem := m.writeL a (leBytes x n)

/-! ### Bit fields of numbers -/

/-- Bits [hi:lo] of a number. -/
def bits (x hi lo : Nat) : Nat := x / 2 ^ lo % 2 ^ (hi + 1 - lo)
/-- The number read as signed of `w` bits. -/
def sext (w x : Nat) : Int := let y := x % 2 ^ w; if y < 2 ^ (w - 1) then (y : Int) else (y : Int) - (2 ^ w : Nat)

/-- The lanes of a mask, lowest first. -/
def lanesOf (mask : Word) : List Nat := (List.range 32).filter fun i => mask.getLsbD i
/-- The mask of a list of lanes. -/
def maskOf (ls : List Nat) : Word := ls.foldl (fun a i => a ||| (1#32 <<< i)) 0
/-- How many lanes a mask holds. -/
def countOf (mask : Word) : Nat := (lanesOf mask).length

end Sys2Proof.Machine
end

