-- ==== Sys2Proof/Machine/State.lean ====
section
/-!
DEFINITION. The state of the Stenan 9 module: plain data, every piece of state the spec names, and the machine right
after module reset.
-/

namespace Sys2Proof.Machine

/-! ## What agents know of each other's writes (R98-R104) -/

/-- For each author of writes, the clock below which its writes happen before whatever the holder does next. -/
abbrev View := SMap Nat

/-- One write in a location's modification order: its place in the order of all writes, its author, the author's clock,
whether an atomic made it, and the byte it replaced. -/
structure Ver where
  at_ : Nat
  author : Nat
  seq : Nat
  atom : Bool
  old : Byte
deriving DecidableEq, Repr, Inhabited

/-- The place of a lane among the instances of the scopes (R98): its core, crew number, bundle and lane, and its gang. -/
structure Who where
  core : Nat
  crew : Nat
  bundle : Nat
  lane : Nat
  gang : Option Nat
deriving DecidableEq, Repr, Inhabited

/-- A release (R100): the place of its write in the order of all writes, who made it, at which scope, and what happens
before it. -/
structure Rel where
  at_ : Nat
  who : Who
  scope : Scope
  view : View
deriving DecidableEq, Repr, Inhabited

/-- What the order of R101 to R104 keeps of a lane. `know` lists what its acquires have given it, by the number of the first
operation they order; `floor` the newest write it has read of a location where its knowledge does not say so already
(R102); `un` the number below which a `FENCE` of scope .sys has ordered its UN accesses; `relNext` the scope that a
`FENCE.rel` gives its next store or atomic; `last` its last load or atomic, with the releases whose values that read. -/
structure Mind where
  know : SMap View
  floor : SMap Nat
  un : Nat
  relNext : Option Scope
  last : Option (Nat × List Rel)
deriving DecidableEq, Repr, Inhabited

/-! ## Lanes and bundles -/

/-- Shape tags (R21), in the order of their codes. -/
inductive Tag
  | uniform | affine | general
deriving DecidableEq, Repr, Inhabited

/-- Why a lane that is not waiting may not issue yet: its STALL count (R193) or a hint replay (R196), with the core
cycle at which it ends. -/
inductive Hold
  | none
  | stall (until_ : Nat)
  | replay (until_ : Nat)
deriving DecidableEq, Repr, Inhabited

/-- One lane (R10, R12, R14, R126, R245). -/
structure Lane where
  pc : DWord
  v : SMap Word
  p : BitVec 8
  wt : Word
  wd : BitVec 12
  cd : Nat
  age : Nat
  hold : Hold
  /-- pending-write bits of v-registers and of predicates (R196) -/
  pendV : BitVec 256
  pendP : BitVec 8
  mind : Mind
deriving DecidableEq, Repr, Inhabited

/-- What an engine-state wait is for (Table 02-3 and the rules that use that state). -/
inductive EngWait
  /-- `MWAIT`: the matrix-queue entries named -/
  | matrix (ops : List Nat)
  /-- `PFLUSH` and `PUNBIND`: write queues of the ports in the mask -/
  | pflush (mask : BitVec 8)
  /-- `RRECV`: a delivery of the tree past the round given, with the register it writes and its operation -/
  | rrecv (tree : Nat) (round : BitVec 16) (dst : Opnd) (id : Nat)
  /-- `SPAWN` whose record waits for room, or for the office's answer in host-assisted mode (R309, R382) -/
  | spill (dst : Opnd) (id : Nat)
  /-- `LINK` whose repair records have no room in the office of the die and its spill area (R300, R382) -/
  | office
  /-- `CSAVE` of a crew that is still draining (R377) -/
  | csave (core slot : Nat)
  /-- `GMLOOP` whose queries are unanswered (R283) -/
  | query
  /-- `QOPEN` and `QCLOSE` of a root in firmware (R380), with the register that takes the status -/
  | root (isOpen : Bool) (dst : Opnd) (id : Nat)
  /-- `MOVK` to a register that acts, until the act is complete (R367); to TLBICTL, with scope, ASID, page and its size
  (R371); to SLOTCMD with OPEN, with the slot's entry and repeat (R386) -/
  | act
  | tlbi (scope asid va : Nat) (large : Bool)
  | slotOpen (entry rep : Nat)
deriving DecidableEq, Repr, Inhabited

/-- The waiting states of Table 02-3. A course that waits on a flag is simply not chosen. -/
inductive Why
  /-- lines by core, crew slot and number: all full, or one poisoned, ends the wait -/
  | line (ls : List (Nat × Nat × Nat))
  | port
  /-- a receipt word by core, crew slot and offset, and the generation waited past -/
  | receipt (core slot off : Nat) (gen : BitVec 16)
  | barrier (id : Nat)
  | gbar (id : Nat)
  /-- `WAITQ`, with its destination predicate -/
  | quiet (dom : Nat) (pd : Opnd)
  | engine (w : EngWait)
  | join
  | sleep (until_ : Nat)
  /-- a borrow has been sent; the lane needs its weight above this share -/
  | grant (share : Nat)
  /-- a translation fault, with its fault buffer entry; none when the buffer was full -/
  | fault (idx : Option Nat)
  | storage
  /-- `ACCALLOC` waits for accumulator blocks (R92) -/
  | blocks
  /-- a read of a line whose page is being refetched from its origin: latency only (R182, R379) -/
  | refetch (line : Nat)
  /-- accesses of the lane that are outstanding and that the instruction may not pass (R101-R103) -/
  | accesses
  /-- the lane itself waits for nothing, but the course's instruction has not executed -/
  | course
deriving DecidableEq, Repr, Inhabited

/-- A course whose instruction waits: its lanes with what each waits for, its PC, the flags it has marked, and
whether the instruction executes from the start when the wait ends. -/
structure Park where
  pc : DWord
  waits : List (Nat × Why)
  setr : Fin 16
  setw : Fin 16
  again : Bool
  /-- the instruction itself could not be fetched (R186), so that its lanes simply become ready again -/
  fetch : Bool
  /-- the instruction has popped ports, so that a save keeps its wait as it stands (R45, R48) -/
  taken : Bool
deriving DecidableEq, Repr, Inhabited

/-- A trap's cause and information words (R50, R397). -/
structure TrapInfo where
  cause : Nat
  i0 : Word
  i1 : Word
  i2 : Word
  i3 : Word
deriving DecidableEq, Repr, Inhabited

/-- A bundle stopped by a trap, awaiting the firmware (R47, R374, R375). -/
structure Stopped where
  pc : DWord
  /-- the lanes that raised the trap, and the course that trapped -/
  lanes : Word
  course : Word
  info : TrapInfo
deriving DecidableEq, Repr, Inhabited

/-- Where bytes of a push or copy go. -/
inductive Place
  /-- byte cells, the address of the first of them, the UN pages among theirs, each as first cell and size, and whether a page
  is far -/
  | phys (as : List Nat) (va : Nat) (uns : List (Nat × Nat)) (far : Bool)
  /-- an allocation's bytes from an offset -/
  | scr (core slot off : Nat)
  /-- the matrix command channel -/
  | matrix
deriving DecidableEq, Repr, Inhabited

/-- A push (R144, R145): each element's lane, place and bytes; the translations it holds; the operation that made it, which is
the first of its elements' ids; the lanes that issued it, each with what `Mind.un` was; and the lanes whose data are still
to come. -/
structure PushEnt where
  els : List (Nat × Place × List Byte)
  setw : Fin 16
  held : List (Nat × Nat)
  id : Nat
  by_ : List (Nat × Nat)
  owed : List Nat
deriving DecidableEq, Repr, Inhabited

/-- One entry of a port's write queue, or a `QFENCE` marker in it (R262). -/
inductive WqEnt
  | push (e : PushEnt)
  | fence (id : Nat)
deriving DecidableEq, Repr, Inhabited

/-- What a prefetch found for an element (R146). -/
inductive Fetched
  | data (bytes : List Byte)
  | fault
  | poison
deriving DecidableEq, Repr, Inhabited

/-- One port (Table 07-1). -/
structure Port where
  bound : Bool
  desc : BitVec 512
  pos : Nat
  err : Nat
  fidx : Nat
  faddr : DWord
  /-- the coordinates of FIDX under the descriptor it was reported for (Table 07-6) -/
  fcoord : List Nat
  wq : List WqEnt
  buf : SMap Fetched
  /-- attention channel: words by position, and the position the next delivered word takes (R148) -/
  words : SMap Word
  nextWord : Nat
  /-- the operation that last set the position, and the lanes that made it, each with what `Mind.un` was (R110) -/
  since : Nat
  by_ : List (Nat × Nat)
  /-- what the entries performed so far have made happen before a `PFLUSH` of the port (R108) -/
  done : View
deriving DecidableEq, Repr, Inhabited

/-- One bundle (R10, R42, R131, R194). -/
structure Bundle where
  live : Word
  lanes : SMap Lane
  adm : Nat
  age : Nat
  flags : SMap Nat
  /-- the flags as the core's current cycle began (R194) -/
  flagsWere : SMap Nat
  fstat : BitVec 5
  /-- the flags raised in one core cycle, which a `MOVK` to FSTAT of the same cycle leaves raised (R64) -/
  raised : Nat × BitVec 5
  fmode : BitVec 2
  htrap : Bool
  hintMiss : Word
  tags : SMap Tag
  ports : SMap Port
  parked : List Park
  rsums : SMap Nat
  stopped : Option Stopped
  /-- a wait that is an ordering point has ended since the last issue (R182) -/
  orderPt : Bool
  /-- what finding a flag clear acquires (R108), by flag -/
  flagView : SMap View
deriving DecidableEq, Repr, Inhabited

/-! ## Crews -/

/-- A task record (R33, R309). -/
structure TRec where
  words : List Word
  share : Nat
  dom : Nat
  /-- what happens before the start of the lane it becomes (R309) -/
  view : View
deriving DecidableEq, Repr, Inhabited

/-- A record on its way to the office, from a lane; `answer` when the lane awaits the office (R309). -/
structure Arriving where
  ref : BRef
  lane : Nat
  ph : Nat
  rec_ : TRec
  answer : Bool
deriving DecidableEq, Repr, Inhabited

/-- One lane's arrival at a barrier (R263, R264), by the number of its operation. -/
structure Arrival where
  id : Nat
  bundle : Nat
  lane : Nat
  op : CbarOp
  ty : ATy
  a : Word
  dst : Opnd
deriving DecidableEq, Repr, Inhabited

/-- How far a crew is: running, stopped for a save (R377), placed and not yet started (R32, R378), or stopped because its
bundle is being displaced (R26). -/
inductive CrewRun
  | running | stopping | starting | displacing
deriving DecidableEq, Repr, Inhabited

/-- A tile register's storage: its bytes and its poison (R16, R276). -/
structure Tile where
  bytes : Mem
  poison : Bool
deriving DecidableEq, Repr, Inhabited

/-- One crew (R10, R11). `agent` is the model's own number for it, by which its agents' writes are known. -/
structure Crew where
  run : CrewRun
  agent : Nat
  lseq : Nat
  acct : Nat
  kid : Nat
  replica : Nat
  /-- queued class (R27, R355); the rest is gang class -/
  queued : Bool
  det : Bool
  /-- supervisor level (R339) -/
  sup : Bool
  ver : Nat
  nreg : Nat
  slines : Nat
  ntiles : Nat
  nacc : Nat
  nbundles : Nat
  gang : Option Nat
  grank : Nat
  bundles : SMap Bundle
  c : SMap Word
  /-- the cycle of a crew register's last write, and the bundle that made it (R112); of TSHn under 4,096 + n -/
  cBy : SMap (Nat × Nat)
  tsh : SMap Word
  tiles : SMap Tile
  scratch : Mem
  lineSt : SMap LineSt
  barriers : SMap (List Arrival)
  /-- what observing a line full acquires (R87), and, by receipt word, what its updates have ordered since its last match and
  what a `WAITR` acquires from that (R90) -/
  lineView : SMap View
  rwView : SMap (View × View)
  /-- pending asynchronous traps (R51), and those that wait for the crew's next ordering point (R182), oldest first -/
  async : List TrapInfo
  later : List TrapInfo
  /-- of a saved crew, the records of its lanes that wait for spill room (R45, R382) -/
  spills : List Arriving
deriving DecidableEq, Repr, Inhabited

/-! ## Memory traffic of a core -/

/-- Page ordering attributes (R94). -/
inductive PageOrd
  | so | rc | un
deriving DecidableEq, Repr, Inhabited

/-- A cached leaf translation (R370). -/
structure Tlb where
  asid : Nat
  va : Nat
  large : Bool
  pa : Nat
  ord : PageOrd
  user : Bool
  writable : Bool
  far : Bool
  cmp : Bool
  acct : Nat
  origin : Option Nat
deriving DecidableEq, Repr, Inhabited

/-- One lane's access to one page or to one scratchpad line, a part of an outstanding instruction (R105): where its bytes
stand in the lane's access, their locations, what a store carries, their address, the bytes that are single-copy atomic
together (R85), and how the part is ordered. -/
structure Part where
  lane : Nat
  off : Nat
  cells : List Nat
  data : List Byte
  va : Nat
  unit : Nat
  ord : PageOrd
  /-- whether the page is far, so that a read goes through the core's limiter (R180) -/
  far : Bool
  acq : Option Scope
  rel : Option Scope
  un : Nat
  /-- scratchpad: the allocation and offset of its first byte -/
  scr : Option (Nat × Nat × Nat)
deriving DecidableEq, Repr, Inhabited

inductive PKind
  /-- a load: sign extension, and the registers it writes -/
  | load (sgn : Bool) (regs : Nat)
  | store
  /-- an atomic that has been performed, whose result has still to return; no operation means compare and swap -/
  | atom (op : Option AtomOp) (t : ATy)
  | redg (op : AtomOp) (t : ATy)
  /-- messages, with each lane's share and its domain (R313) -/
  | msend (ws : List (Nat × Nat))
  /-- a `FENCE.ar` (R101) -/
  | fence (scope : Scope)
  /-- a prefetch of far lines (R257) -/
  | pref
deriving DecidableEq, Repr, Inhabited

/-- An instruction's accesses that are still outstanding: its number, the cycle it issued in, the parts not yet performed in
ascending lane order (R251), the bytes its performed parts have read, and the addresses of the poisoned lines they met (R252). -/
structure Pend where
  id : Nat
  ref : BRef
  kind : PKind
  parts : List Part
  dst : Opnd
  setw : Fin 16
  cyc : Nat
  got : List (Nat × Nat × List Byte)
  bad : List Nat
deriving DecidableEq, Repr, Inhabited

/-- A far request that waits at a core's limiter (R180): an access by its number, a copy queue, a port, an attention
command. -/
inductive FarReq
  | access (id : Nat)
  | copy (queue : Nat)
  | fetch (at_ : BRef) (port : Nat)
  | attn
deriving DecidableEq, Repr, Inhabited

/-- Kinds of access that translation distinguishes (Table 24-4, ACC). -/
inductive Acc
  | read | write | atomic | fetch
deriving DecidableEq, Repr, Inhabited

/-- A fault buffer entry (R95, R372). `walking` while the hardware walk has still to answer. -/
structure FaultEnt where
  ref : BRef
  lane : Nat
  va : DWord
  acc : Acc
  src : Nat
  reason : Nat
  pv : Bool
  port : Nat
  elem : Nat
  asid : Nat
  walking : Bool
  posted : Bool
deriving DecidableEq, Repr, Inhabited

/-- Far-read limiter of a core and the copy of its configuration entry (R180, R376, Table 24-6). -/
structure CoreCfg where
  dispBase : DWord
  dispSize : Word
  farB : BitVec 16
deriving DecidableEq, Repr, Inhabited

/-! ## Engines (R109, R274) -/

/-- One unit of a copy: bytes of a source, or fill bytes, to a destination, for a lane (R289, R291). -/
structure CUnit where
  lane : Nat
  src : Option Place
  fill : List Byte
  dst : Place
  n : Nat
  /-- the source's address as the program named it -/
  sva : Nat
deriving DecidableEq, Repr, Inhabited

/-- One lane's part in a copy: its receipt word, and its share with the domain that share belongs to. -/
structure CLane where
  lane : Nat
  receipt : Option (Nat × Nat × Nat)
  share : Nat
  dom : Nat
deriving DecidableEq, Repr, Inhabited

/-- One piece of a copy as saved (R329): its lane, source, destination, bytes and receipt address. -/
structure CPiece where
  lane : Nat
  src : Nat
  dst : Nat
  n : Nat
  rcpt : Nat
deriving DecidableEq, Repr, Inhabited

/-- A copy command (R288-R291): what is left of it, arrivals held by an empty line, and the bytes it has landed. -/
structure Copy where
  full : Bool
  /-- whether a far page is read, through the core's limiter (R180) -/
  far : Bool
  units : List CUnit
  lanes : List CLane
  owed : List (Nat × Nat × Nat × Nat)
  /-- bytes it has written of lines that were carried as poison (R252) -/
  cured : List Nat
  landed : Nat
  bytes : Nat
  /-- the command as saved (R329): its MOD byte, and the layout record of a `TCPY` -/
  modB : Nat
  record : Option (BitVec 512)
  /-- what the copy fault record and the save area say of each lane -/
  srcs : List CPiece
deriving DecidableEq, Repr, Inhabited

/-- The operands of a matrix command (Tables 15-3, 15-4, 03-7), with the tile shapes read at issue. -/
structure MatCmd where
  fmt : Nat
  handle : Word
  asrc : Nat
  bsrc : Nat
  m : Nat
  n : Nat
  s : Nat
  tsh : List Word
deriving DecidableEq, Repr, Inhabited

/-- What an entry of the matrix queue does (Table 15-7). -/
inductive MatBody
  | tld (tile : Nat) (core slot off n : Nat)
  | tst (tile : Nat) (core slot off n : Nat)
  | tzero (tile : Nat)
  | mloop (c : MatCmd)
  /-- a part of a `GMLOOP`: row and column in the four, the members that supply A and B, and the member it is for (R282) -/
  | gpart (c : MatCmd) (i j : Nat) (a b own : Nat × Nat)
  /-- lanes with block and element -/
  | accrd (es : List (Nat × Nat × Nat)) (dst : Opnd)
  | accwr (es : List (Nat × Nat × Word))
  /-- rows of the tile, with the place each is stored to -/
  | accst (t : AccTy) (handle : Word) (rows : List Place)
  | accfree (handle : Word)
deriving DecidableEq, Repr, Inhabited

/-- An attention command (R303, R304): its operand block, and how far it is. -/
structure AttnCmd where
  ctx : Nat
  layer : Nat
  head : Nat
  lo : Nat
  hi : Nat
  pq : Nat
  sigma : Nat
  q : List Nat
  o : Bool
  gated : Bool
  /-- where the words go: a port, v-registers, or scratchpad (R304) -/
  dst : Opnd
  out : Nat × Nat × Nat
  /-- LEN, link table and parent chain, taken when it starts (R164) -/
  started : Option (Nat × List Nat)
  next : Nat
  mx : Nat
  sm : Nat
  vec : List Nat
  words : Nat
  /-- it has met a poisoned line, before whose window it stands (R182) -/
  poison : Bool
  /-- contexts whose publication a `.gated` command awaits, with the PUBGEN it saw (R173) -/
  gate : List (Nat × Nat)
deriving DecidableEq, Repr, Inhabited

/-- An entry of a copy, matrix, attention or mesh queue. -/
inductive Body
  | copy (c : Copy)
  | mat (b : MatBody)
  | attn (a : AttnCmd)
  /-- `PATCH`: context, key/value bytes recorded at issue (none for a context not live then), scratchpad place,
  position, layer, head; the lane and register that take the result word -/
  | patch (ctx : Nat) (kb : Option Nat) (core slot off : Nat) (p l h : Nat) (lane : Nat) (dst : Opnd)
  | rsend (tree round : Nat) (vals : List Word)
  | mcast (c : List (Nat × Copy))
deriving DecidableEq, Repr, Inhabited

structure Cmd where
  id : Nat
  ref : BRef
  setw : Fin 16
  /-- translations it holds until it is performed, by account and page (R274, R371) -/
  held : List (Nat × Nat)
  started : Bool
  suspended : Bool
  /-- the fault buffer entry that holds a command of the attention queue (R372, R373) -/
  fault : Option Nat
  /-- K-steps done of a matrix command -/
  step : Nat
  /-- performed, and waiting for earlier entries before it signals -/
  done : Bool
  /-- the lanes that issued it, each with what `Mind.un` was, and what it has acquired since (R107, R108) -/
  by_ : List (Nat × Nat)
  got : View
  body : Body
deriving DecidableEq, Repr, Inhabited

/-- A queue holds commands and `QFENCE` markers (R262). -/
inductive QEnt
  | cmd (c : Cmd)
  | fence (id : Nat)
deriving DecidableEq, Repr, Inhabited

/-- A `GMLOOP` query to a member, and its answer: yes, or the trap it makes at the leader (R283). -/
structure Query where
  /-- the number that the command will have, and the whole of it -/
  id : Nat
  ref : BRef
  mask : Word
  rank : Nat
  core : Nat
  slot : Nat
  cmd : MatCmd
  i : Nat
  j : Nat
  answer : Option (Option TrapInfo)
deriving DecidableEq, Repr, Inhabited

/-- A tentative placement that a core has granted (R30). -/
structure HoldRes where
  lseq : Nat
  replica : Nat
  slot : Nat
  nregs : Nat
  nbundles : Nat
  slines : Nat
  ntiles : Nat
  nacc : Nat
  accs : List Nat
deriving DecidableEq, Repr, Inhabited

/-- A course chosen for issue (R38). `again` marks one whose instruction executes from the start after a wait, so
that it has passed its issue checks and made its flag marks. -/
structure Course where
  core : Nat
  slot : Nat
  bundle : Nat
  mask : Word
  pc : DWord
  picker : Nat
  again : Bool
deriving DecidableEq, Repr, Inhabited

/-- One core (Table 01-6). House cores are the numbers 768 to 783 (DESIGN CHOICE, assumption 12). -/
structure Core where
  cyc : Nat
  crews : SMap Crew
  acc : SMap (SMap Word)
  accPoison : BitVec 16
  /-- which crew slot a block is reserved by, and which crew slot holds it and under which handle (R91) -/
  accRes : SMap Nat
  accHeld : SMap (Nat × Word)
  /-- handles given up by `ACCFREE` whose blocks have still to return (R285), by crew slot -/
  accGone : List (Nat × Word)
  /-- handles pinned by a `GMLOOP`, by its command and crew slot (R283) -/
  pins : List (Nat × Nat × Word)
  /-- the matrix engine's fault records: by the number of a command that met a poisoned operand, the command with its HAD bit,
  and the address that its POISON reports (R80, R182) -/
  matFaults : SMap (MatCmd × Word)
  tlb : List Tlb
  fbuf : SMap FaultEnt
  pend : List Pend
  /-- copy queues 0-3, then 4 matrix, 5 attention, 6 mesh (R109); and what the entries performed so far order, by queue -/
  queues : SMap (List QEnt)
  qView : SMap View
  queries : List Query
  holds : List HoldRes
  cfg : CoreCfg
  /-- parts of the displacement area in use: offset and bytes (R26) -/
  disp : List (Nat × Nat)
  farLeft : Nat
  /-- requests that found the budget spent, first in first out (R180) -/
  farQ : List FarReq
  /-- the budget that the next refill brings into force, and the refills made -/
  farNext : BitVec 16
  farEpoch : Nat
  /-- admissions so far, which number the bundles (R39) -/
  admNext : Nat
  /-- the picker that decides next -/
  turn : Nat
  /-- the bundle that picker 0 has chosen in this cycle (R38), and the bundle a YIELD bit puts last (R39) -/
  chosen : Option (Nat × Nat)
  /-- picker 0's course of this cycle, when it has to await that of picker 1 (R92) -/
  late : Option Course
  yielded : Option (Nat × Nat)
  /-- a popped bundle was returned: no pop until a crew retires or storage is freed (R37) -/
  popHeld : Bool
deriving DecidableEq, Repr, Inhabited

/-- House-core registers (R367, R368). -/
structure House where
  tvec : DWord
  tcause : Word
  tpc : DWord
  tinfo0 : Word
  tinfo1 : Word
  tinfo2 : Word
  tinfo3 : Word
  inh : Bool
  asid : BitVec 16
  ptbase : DWord
  held : Bool
  halted : Bool
deriving DecidableEq, Repr, Inhabited

/-- A record bound for the trap ring (Table 24-5), without its SEQ. -/
structure TrapMsg where
  pc : DWord
  info : TrapInfo
  lanes : Word
  asid : Nat
  core : Nat
  slot : Nat
  bundle : Nat
  lseq : Nat
deriving DecidableEq, Repr, Inhabited

/-- A buffered FP32 `REDG.add` of a deterministic launch, with its key (R55). -/
structure DetAdd where
  lseq : Nat
  replica : Nat
  grank : Nat
  bundle : Nat
  lane : Nat
  addr : Nat
  val : Word
deriving DecidableEq, Repr, Inhabited

/-! ## Gangs and reduction trees (R29, R315-R317) -/

/-- A packet or answer of a tree, on its way to a router or waiting there; or a flush (R317). -/
structure Packet where
  tree : Nat
  rank : Nat
  port : Nat
  round : Nat
  vals : List Word
  bitmap : BitVec 16
  empty : Bool
  bad : Bool
  flush : Bool
deriving DecidableEq, Repr, Inhabited

/-- A router of a tree: the round it collects, the inputs it holds by port, and whether it has been flushed. -/
structure Router where
  round : Nat
  inputs : List Packet
  flushed : Bool
  /-- core cycle at which the root took its round's first packet -/
  since : Option Nat
deriving DecidableEq, Repr, Inhabited

/-- A gang (R29): its members' cores and crew slots by rank, its tree records, and its routers by tree and rank. -/
structure Gang where
  members : SMap (Nat × Nat)
  w : Nat
  h : Nat
  trees : SMap (BitVec 1024)
  /-- `RSEND`s counted by 16 x tree + rank -/
  sends : SMap Nat
  routers : SMap Router
  flight : List Packet
  waiting : List Packet
  /-- deliveries made and dead letters, by tree -/
  rounds : SMap Nat
  dead : SMap Nat
  /-- crews saved and not yet restored, by rank (R377, R378) -/
  saved : List Nat
  /-- where each member was placed, kept while it is saved and after it has retired; and the commands of restored
  members until the last is restored, by core and queue -/
  was : SMap (Nat × Nat)
  /-- every member has been saved, and they are being restored (R377, R378) -/
  restoring : Bool
  heldCmds : List (Nat × Nat × QEnt)
  /-- what deliveries of a tree's rounds order (R318) -/
  treeView : SMap View
deriving DecidableEq, Repr, Inhabited

/-! ## Sorting office and placer of a die -/

/-- A pigeonhole (R33-R35, Table 02-2): its state follows from these. -/
structure Pigeon where
  entry : DWord
  kid : Nat
  c : Nat
  t : Nat
  due : Bool
  recs : List TRec
  /-- spilled records, oldest first, each with the physical address of its slot in the spill area (R382) -/
  spilled : List (Nat × TRec)
  restart : Nat
deriving DecidableEq, Repr, Inhabited

/-- An entry of the ready queue: a formed bundle as its crew of one, or a displaced one by its save area, with what the
device keeps of it beside the area and its commands by queue. -/
inductive ReadyEnt
  | formed (k : Crew)
  | displaced (k : Crew) (core addr size : Nat) (cmds : SMap (List QEnt))
deriving DecidableEq, Repr, Inhabited

/-- The die side of the slot handshake (Table 24-11). -/
inductive DieSlot
  | run | count (until_ : Nat) | drained | held
deriving DecidableEq, Repr, Inhabited

/-- A slot: calendar entry, repeat, and its kind. -/
structure SlotId where
  entry : Nat
  rep : Nat
  kind : Nat
deriving DecidableEq, Repr, Inhabited

structure Die where
  dcyc : Nat
  phs : SMap Pigeon
  arriving : List Arriving
  /-- the last record stored: its die cycle, and its lane's place among those of one cycle (R35) -/
  lastArr : Option (Nat × Nat)
  /-- lanes whose records wait for spill room, oldest first (R382) -/
  spillWait : List Arriving
  ready : List ReadyEnt
  cursor : Nat
  slot : DieSlot
  slotId : SlotId
  /-- NOTICEs that came while an earlier slot was open, oldest first: slot, lead, and the die cycle each came in (R385) -/
  kept : List (SlotId × Nat × Nat)
deriving DecidableEq, Repr, Inhabited

/-! ## Quiet domains (R123-R136) -/

inductive DomSt
  | closed | opened | corrupt
deriving DecidableEq, Repr, Inhabited

structure Dom where
  st : DomSt
  t : Nat
  h : Nat
  /-- lanes whose `WAITQ` has been armed -/
  waiters : List (BRef × Nat)
  /-- events that reached a CORRUPT domain, held for the firmware: returns -/
  heldBack : List Nat
  /-- what its returns cover (R131, R134) -/
  view : View
deriving DecidableEq, Repr, Inhabited

inductive QKind
  /-- for a replica of a launch, or for a `LINK` (R170) -/
  | mint (launch : Option (Nat × Nat))
  | borrow | ret | arm | opening | closing
deriving DecidableEq, Repr, Inhabited

/-- A message to a root. `posted` when it has been written to the root ring (R380). -/
structure QMsg where
  kind : QKind
  dom : Nat
  amount : Nat
  ref : BRef
  lane : Nat
  posted : Bool
  /-- of a return: what it covers (R131) -/
  view : View
deriving DecidableEq, Repr, Inhabited

/-! ## Segments, contexts, cache pages (R151-R181) -/

/-- A segment: the low 512 bits of its record (the rest is zero), its page cursor, and whether it has been sealed. -/
structure Seg where
  record : BitVec 512
  cursor : Nat
  sealed_ : Bool
deriving DecidableEq, Repr, Inhabited

/-- A link of a context (Table 08-2). -/
structure Link where
  base : Nat
  seg : Nat
  name : Nat
  ntok : Nat
  pred : Nat
deriving DecidableEq, Repr, Inhabited

structure Ctx where
  layers : Nat
  kvh : Nat
  hdim : Nat
  fmt : Nat
  tpp : Nat
  depth : Nat
  parent : Option Nat
  /-- in BASE order -/
  links : List Link
  len : Nat
  /-- token identifiers of appended positions -/
  toks : SMap Nat
  /-- overlay pages by window, layer and head (R398), and the slots present by position, layer and head -/
  ovPages : List ((Nat × Nat × Nat) × Nat)
  ovSlots : List (Nat × Nat × Nat)
  /-- pages that `PALLOC` allocated to the context and no overlay window uses yet -/
  spare : List Nat
  rot : List Word
  children : Nat
  inflight : Nat
  policy : Nat
  rdom : Nat
  repent : Nat
  pubgen : Nat
  pending : Bool
  /-- what a `.gated` command acquires from the last publication (R173) -/
  pubView : View
  acct : Nat
  journal : Option (List (BitVec 128))
  cursor : Nat
deriving DecidableEq, Repr, Inhabited

/-- Tier states (Table 09-4). -/
inductive TierSt
  | far | promoting | both | near | demoting
deriving DecidableEq, Repr, Inhabited

/-- A cache page: who owns it (a segment, else a context), its reference count, its frames, and whether it has been
sealed. -/
structure Page where
  tier : TierSt
  acct : Nat
  ofSeg : Bool
  owner : Nat
  rc : Nat
  nearF : Option Nat
  farF : Option Nat
  ro : Bool
deriving DecidableEq, Repr, Inhabited

/-! ## Launches (R347-R362) -/

/-- A record window (R347, R348): the current record, its 8-byte units written, and records that await decision,
each with the units that were written. -/
structure Window where
  isOpen : Bool
  acct : Nat
  cur : Mem
  units : BitVec 32
  queue : List (BitVec 2048 × BitVec 32)
  lastSeq : Nat
  verdict : Nat
  drops : Nat
deriving DecidableEq, Repr, Inhabited

/-- An admitted peer of a fabric session (R352), with the datagrams that await the decision of their record. -/
structure Session where
  peer : BitVec 128
  port : BitVec 16
  session : Word
  dseq : Nat
  sent : Nat
  answers : List Nat
deriving DecidableEq, Repr, Inhabited

/-- A replica of a launch on its way (R356, R357). -/
inductive RepSt
  /-- offered to a die, with its failures so far and the dies that had no rectangle -/
  | offered (die fails tried : Nat)
  | waiting (fails : Nat)
  /-- holds sent: die, origin, cores asked, and those that have answered yes or no -/
  | holding (die origin fails : Nat) (cores : List Nat) (yes no : List Nat)
  | backoff (die fails until_ : Nat)
  | committed
  | started
  | retired
deriving DecidableEq, Repr, Inhabited

structure Launch where
  rec_ : BitVec 2048
  win : Nat
  reps : SMap RepSt
  /-- crews of each replica that have not yet retired -/
  left : SMap Nat
  result : DWord
  /-- the key and value of the last write of a deterministic launch's result (R312) -/
  detKey : Option (List Nat)
  trees : List (BitVec 1024)
  /-- the status it ends with when it is no longer DONE, and its cause -/
  ended : Option (Nat × Nat)
  /-- whether it may start: a graph node waits for its firings -/
  go : Bool
  firings : Nat
  /-- its place among fired nodes; 0 for a launch that starts on acceptance (R355) -/
  order : Nat
  /-- what its retired crews have done (R113) -/
  view : View
deriving DecidableEq, Repr, Inhabited

/-- A kernel as loaded (R208, R209). -/
structure Kernel where
  acct : Nat
  obj : Nat
  code : DWord
  header : BitVec 128
  ports : SMap (BitVec 512)
deriving DecidableEq, Repr, Inhabited

/-- A loaded object: its kernels and the pigeonholes registered for it. -/
structure Obj where
  kids : List Nat
  phs : List Nat
deriving DecidableEq, Repr, Inhabited

/-- What the module has sent out. -/
inductive OutMsg
  | msix (v : Nat)
  | datagram (peer : BitVec 128) (port : BitVec 16) (bytes : List Byte)
  | objectRefused
  | optionalUnmet (id : Nat)
  | unloadRefused (obj : Nat)
  | hostRead (bytes : List Byte)
deriving DecidableEq, Repr, Inhabited

/-- The slot handshake at the sequencer (Table 24-10). -/
inductive SeqSt
  | idle | noticed | open_ | overrun
deriving DecidableEq, Repr, Inhabited

/-- A slot at the sequencer: its state, the dies that have answered DRAINED, and the messages still on their way to
dies and back. -/
structure Sequencer where
  st : SeqSt
  slot : SlotId
  drained : List Nat
  /-- the slots whose NOTICE has been sent while an earlier one was open, in order, with the dies that have answered -/
  next : List (SlotId × List Nat)
  /-- in host-assisted mode, slots whose OPEN has been written and cannot be made yet, by entry and repeat (R386) -/
  asked : List (Nat × Nat)
  notices : List (Nat × SlotId × Nat)
  opens : List (Nat × SlotId)
  closes : List (Nat × SlotId)
  drains : List (Nat × SlotId)
deriving DecidableEq, Repr, Inhabited

/-- The boot ROM's progress (R340, R350). -/
structure Boot where
  /-- 0 trying ports, 1 waiting, 2 image running -/
  phase : Nat
  rounds : Nat
  failPort : Nat
  failStep : Nat
  /-- the port being tried, attempts made, and the address and URL obtained -/
  port : Nat
  tries : Nat
  lease : Option (BitVec 128 × List Byte)
deriving DecidableEq, Repr, Inhabited

/-- The machine. -/
structure State where
  -- the model's own fields
  cur : Course
  issue : List Course
  agenda : List Instr
  tick : Nat
  opSeq : Nat
  outLog : List OutMsg
  -- memory
  mem : Mem
  /-- writes so far that agents may see late, and of each location the latest of them, newest first (R102) -/
  clock : Nat
  vers : SMap (List Ver)
  /-- the releases made at each location (R100) -/
  rels : SMap (List Rel)
  /-- free read times drawn so far -/
  draws : Nat
  /-- what the `FENCE.ar` of each instance of a scope have ordered (R101), the context manager's forms (R295), and launches
  that are complete (R113) -/
  fences : SMap View
  mgrView : View
  doneView : View
  /-- the number of the next crew -/
  agentNext : Nat
  poison : List Nat
  /-- lines whose page is being refetched from its origin (R379) -/
  refetch : List Nat
  /-- lines whose page has been refetched, so that a second error is delivered while a read that met the first still stands -/
  refetched : List Nat
  /-- of each line in `refetch`: its page's stored bytes, as first address and number, and the origin they come from -/
  origins : SMap (Nat × Nat × Nat)
  hostMem : Mem
  /-- pages made read-only by `SEGSEAL`, by account and 64 KiB page (R154) -/
  roVa : List (Nat × Nat)
  detBuf : List DetAdd
  -- cores and dies
  cores : SMap Core
  house : SMap House
  dies : SMap Die
  l2 : SMap (List Tlb)
  /-- shift registers: core c under c, the placer of die d under 1024 + d (R383) -/
  lfsr : SMap (BitVec 16)
  /-- crews saved by `CSAVE` and not restored: the area's address, what the device keeps of the crew beside the area,
  and the crew's commands by queue, with the `QFENCE` markers among them (R327, R329) -/
  saved : List (Nat × Crew × SMap (List QEnt))
  gangs : SMap Gang
  gangNext : Nat
  -- quiet domains
  doms : SMap Dom
  /-- weight of `.W` copies that poison has stopped, by launch sequence number (R183, R375) -/
  stopWt : SMap Nat
  qmsgs : List QMsg
  /-- grants on their way to lanes -/
  grants : List (BRef × Nat × Nat)
  -- contexts
  ctxs : SMap Ctx
  segs : SMap Seg
  pages : SMap Page
  serial : Nat
  -- launches
  windows : SMap Window
  sessions : SMap Session
  nextLseq : Nat
  launches : SMap Launch
  fireNext : Nat
  kernels : SMap Kernel
  objs : SMap Obj
  kidNext : Nat
  windowOpened : Bool
  -- supervisor registers and rings
  sup : SMap DWord
  trapWait : List TrapMsg
  fqSeq : Nat
  tqSeq : Nat
  rqSeq : Nat
  -- maintenance
  /-- the calendar in force and the pending one, with frames left until it takes force -/
  calendar : SMap DWord
  calPending : Option (SMap DWord × Nat)
  frame : Nat
  seq : Sequencer
  -- boot, security, ports to the outside
  boot : Boot
  bootHalt : BitVec 16
  meas : SMap (BitVec 512)
  fsvn : Nat
  svn : Nat
  edSlot : Nat
  mlSlot : Nat
  mcmd : DWord
  mstatus : DWord
  respAddr : DWord
  mdata : Mem
  telemetry : SMap Nat
  pcieUp : Bool
  cxlDown : List Nat
  /-- far ports that failed before the image ran: the capability list does not change after that (R345, R366) -/
  untrained : List Nat
deriving DecidableEq, Repr, Inhabited

/-! ## Stops -/

/-- Reasons a step can stop with a fault. No meaning of the model stops so: every trap the spec names is taken, and
the machine goes on. -/
inductive Fault
  /-- raised by nothing; safe -/
  | unreachable
deriving DecidableEq, Repr, Inhabited

inductive Refusal
  /-- an instruction that has no meaning in the model yet, by its mnemonic; raised by the dispatch; safe -/
  | notModelled (mnemonic : String)
deriving DecidableEq, Repr, Inhabited

/-- The one bundle of a house core at reset (R339): lane 0 live, every register 0 (DESIGN CHOICE, assumption 5). -/
def houseBundle : Bundle := { (default : Bundle) with live := 1, lanes := [(0, default)] }
/-- A house core's work: one lane at supervisor level, 248 registers, 256 KiB of private scratchpad (R339). -/
def houseCrew : Crew :=
  { (default : Crew) with sup := true, ver := 3, nreg := 248, slines := 2048, nbundles := 1, bundles := [(0, houseBundle)] }
/-- House core `h`. -/
def houseCore (h : Nat) : Core := { (default : Core) with crews := [(0, { houseCrew with agent := h })] }

/-- The machine right after module reset: what a table does not list holds its default, which is zero, empty, closed,
free or full as the spec gives it. House core 0 runs the boot ROM and the others are held (R340). -/
def State.reset : State :=
  { (default : State) with
    cores := (List.range 16).map fun h => (768 + h, houseCore h),
    house := (List.range 15).map fun h => (h + 1, { (default : House) with held := true }),
    agentNext := 16,
    opSeq := 1,
    nextLseq := 1,
    pcieUp := true }

end Sys2Proof.Machine
end

