-- ==== Sys2Proof/Machine/View.lean ====
section
/-!
DEFINITION. What agents know of each other's writes (R100, R101): views, and a lane's acquires.
-/

namespace Sys2Proof.Machine

/-- The number that stands in a view for every author of a crew. -/
def crewAuthor (author : Nat) : Nat := author / 4096 * 4096 + 4095

/-- A bound raised. -/
def View.bump (v : View) (k n : Nat) : View := if findD v k 0 < n then put v k n else v
def View.join (v w : View) : View := w.foldl (fun v e => v.bump e.1 e.2) v
/-- Whether a view adds nothing to another. -/
def View.has (v w : View) : Bool := w.all fun e => decide (e.2 ≤ findD v e.1 0)
/-- Whether a write happens before what the view's holder does. -/
def View.knows (v : View) (e : Ver) : Bool :=
  decide (e.seq < findD v e.author 0) || decide (e.seq < findD v (crewAuthor e.author) 0)

/-- What a lane's acquires have given it before its operation `n`. -/
def Mind.at_ (m : Mind) (n : Nat) : View :=
  m.know.foldl (fun v e => if e.1 ≤ n then v.join e.2 else v) []
/-- An acquire: it orders the lane's operations from `n` on. -/
def Mind.learn (m : Mind) (n : Nat) (v : View) : Mind :=
  if (m.at_ n).has v then m else { m with know := put m.know n ((findD m.know n []).join v) }

end Sys2Proof.Machine
end

