-- ==== Sys2Proof/WellFormed.lean ====
section
/-!
DEFINITION. The limits on an instruction that its word can express: which kinds of operand each field takes
(R188, Tables 13-1 to 16-17), which modifiers a form allows (R191, R199), and the limits that depend on the
kernel (R12, R13, R16, R198), on the level of the core (R18, R192, R367) and on a house core (Table 23-1).
-/

namespace Sys2Proof

/-- The kinds of operand a field accepts (R188, R212, R242). -/
inductive Kind
  | unused
  /-- the default source set r -/
  | src
  /-- the default set without the literal (s32, and every field of a form whose IMM holds an offset) -/
  | s32
  /-- a v-register pair, a crew pair, or the zero operand -/
  | pair
  /-- a v-register pair or a crew pair -/
  | pairVC
  /-- the default destination set: v, q, c or zero -/
  | dst
  | predDst
  /-- a predicate or zero, read -/
  | pz
  /-- a predicate or zero, read and written (`IADDC`) -/
  | pzCarry
  /-- a predicate or zero, written (`PALLOC`) -/
  | pzDst
  | vSrc
  | vDst
  /-- consecutive v-registers or a port, read or written -/
  | group
  | groupDst
  /-- consecutive v-registers only -/
  | groupV
  | groupVDst
  | immOnly
  | immZ
  /-- the field names a port and does not pop it (class 0x8) -/
  | port
  | tile
  | tileDst
  /-- a result word: v, c or zero (R293) -/
  | result
  /-- the destination of `ATTN`: port, v or zero -/
  | attnDst
deriving DecidableEq, Repr, Inhabited

/-- One operand field of a form: its kind and how many 32-bit registers it covers. -/
structure Slot where
  kind : Kind
  regs : Nat
deriving DecidableEq, Repr, Inhabited

/-- One form: operation code, first encoding version (Table 11-7), privilege, and its four operand fields. -/
structure Shape where
  opc : Nat
  ver : Nat
  priv : Bool
  d : Slot
  a : Slot
  b : Slot
  c : Slot
deriving DecidableEq, Repr, Inhabited

/-- Registers a value of the type takes (R13). -/
def Ty.regs : Ty → Nat
  | .b64 | .s64 | .n64 => 2
  | _ => 1

def Ty.isInt : Ty → Bool
  | .b32 | .s32 | .n32 | .b64 | .s64 | .n64 => true
  | _ => false

def Ty.isSN : Ty → Bool
  | .s32 | .n32 | .s64 | .n64 => true
  | _ => false

def Ty.isBits (t : Ty) : Bool := t == .b32 || t == .b64
def Ty.isS (t : Ty) : Bool := t == .s32 || t == .s64
def Ty.isSN32 (t : Ty) : Bool := t == .s32 || t == .n32
def Ty.isFlt (t : Ty) : Bool := t == .f32 || t == .f16 || t == .bf16
def Ty.isPkd (t : Ty) : Bool := t == .f16x2 || t == .bf16x2
/-- The types `CVT` takes: all but 0xD-0xF (R234). -/
def Ty.isCvt (t : Ty) : Bool := !(t == .f16x2 || t == .bf16x2 || t == .block)

def ATy.regs : ATy → Nat
  | .b64 | .s64 | .n64 => 2
  | _ => 1

/-- `CASG` and `CASS` take .b32 and .b64 only. -/
def ATy.isCas (t : ATy) : Bool := t == .b32 || t == .b64

def MemW.regs : MemW → Nat
  | .b64 => 2
  | _ => 1

def VecN.count : VecN → Nat
  | .x2 => 2 | .x4 => 4 | .x8 => 8 | .x16 => 16

def ICond.isEqNe (k : ICond) : Bool := k == .eq || k == .ne

/-- A relaxed ordering carries scope 0 (R191). -/
def Order.scopeOk (o : Order) : Bool := o.kind != .rlx || o.scope == .lane
def Order.isLoad (o : Order) : Bool := o.scopeOk && (o.kind == .rlx || o.kind == .acq)
def Order.isStore (o : Order) : Bool := o.scopeOk && (o.kind == .rlx || o.kind == .rel)
def Order.isAtomic (o : Order) : Bool := o.scopeOk
def Order.isFence (o : Order) : Bool := o.kind != .rlx

/-- The combinations of atomic operation and type that trap RSVD are left out (R258 and Table 14-4). -/
def atomOk (op : AtomOp) (t : ATy) : Bool :=
  (t != .f32 || op == .add) && (!(op == .min || op == .max) || !(t == .b32 || t == .b64))

/-- `CBAR` with OP 0 has AT 0; with an OP it has .s32, or .f32 with .add (Table 14-4). -/
def cbarOk (op : CbarOp) (t : ATy) : Bool :=
  match op with
  | .none => t == .b32
  | .add => t == .s32 || t == .f32
  | _ => t == .s32

def redOk (op : RedOp) (t : Ty) : Bool :=
  t == .s32 || t == .n32 || (t == .f32 && op == .add)

/-- A 16-bit float literal has IMM[31:16] zero (R190). -/
def floatLitOk (t : Ty) (x : Args) : Bool :=
  t == .f32 || !(x.a == .imm || x.b == .imm || x.c == .imm) || decide (x.lit.toNat < 65536)

def CopyDir.srcGlobal (d : CopyDir) : Bool := d == .gs || d == .gg
def CopyDir.dstGlobal (d : CopyDir) : Bool := d == .sg || d == .gg

/-- A copy's base: a pair for a global address, s32 for a scratchpad address (Table 15-9). -/
def baseSlot (global : Bool) : Slot := if global then ⟨.pair, 2⟩ else ⟨.s32, 1⟩

/-- `CPYFILL`'s fill value: one register, a pair, or a group of four. -/
def fillSlot : CopyW → Slot
  | .b32 => ⟨.s32, 1⟩
  | .b64 => ⟨.pair, 2⟩
  | .b128 => ⟨.group, 4⟩

/-- The operand of an atomic: s32 at 32 bits, a pair at 64 (Table 14-4). -/
def atomSlot (t : ATy) : Slot := if t.regs = 2 then ⟨.pair, 2⟩ else ⟨.s32, 1⟩

/-- The 64-bit control registers (R18, R367). -/
def ctlWide (k : Nat) : Bool :=
  [0x014, 0x100, 0x102, 0x109, 0x10A, 0x10C, 0x10D, 0x10E, 0x110, 0x112, 0x115, 0x11A, 0x11B, 0x11C, 0x11E,
    0x123, 0x126, 0x128, 0x12A].contains k

def ctlRegs (k : BitVec 10) : Nat := if ctlWide k.toNat then 2 else 1

/-- Numbers of the user space that `MOVR` may name (Table 01-3), and the supervisor space, whose numbers all
count as assigned (R18). -/
def movrOk (k : BitVec 10) : Bool := decide (k.toNat ≤ 0x016) || decide (0x100 ≤ k.toNat)

/-- `MOVK` may not name a read-only register of the user space: WT, WD and CYC (Table 01-3). -/
def movkOk (k : BitVec 10) : Bool :=
  movrOk k && !([0x010, 0x011, 0x014].contains k.toNat)

/-- The form of each instruction; the steps of other agents have none. -/
def Instr.shape : Instr → Option Shape
  | .nop _ => some ⟨0x000, 1, false, ⟨.unused, 0⟩, ⟨.unused, 0⟩, ⟨.unused, 0⟩, ⟨.unused, 0⟩⟩
  | .mov t _ => some ⟨0x001, 1, false, ⟨.dst, t.regs⟩, ⟨.src, t.regs⟩, ⟨.unused, 0⟩, ⟨.unused, 0⟩⟩
  | .iadd t _ => some ⟨0x002, 1, false, ⟨.dst, t.regs⟩, ⟨.src, t.regs⟩, ⟨.src, t.regs⟩, ⟨.unused, 0⟩⟩
  | .isub t _ => some ⟨0x003, 1, false, ⟨.dst, t.regs⟩, ⟨.src, t.regs⟩, ⟨.src, t.regs⟩, ⟨.unused, 0⟩⟩
  | .iaddc t _ => some ⟨0x004, 1, false, ⟨.dst, t.regs⟩, ⟨.src, t.regs⟩, ⟨.src, t.regs⟩, ⟨.pzCarry, 0⟩⟩
  | .imul t _ => some ⟨0x005, 1, false, ⟨.dst, t.regs⟩, ⟨.src, t.regs⟩, ⟨.src, t.regs⟩, ⟨.unused, 0⟩⟩
  | .imulh _ _ => some ⟨0x006, 1, false, ⟨.dst, 1⟩, ⟨.src, 1⟩, ⟨.src, 1⟩, ⟨.unused, 0⟩⟩
  | .imad t _ => some ⟨0x007, 1, false, ⟨.dst, t.regs⟩, ⟨.src, t.regs⟩, ⟨.src, t.regs⟩, ⟨.src, t.regs⟩⟩
  | .imadw _ _ => some ⟨0x008, 1, false, ⟨.dst, 2⟩, ⟨.src, 1⟩, ⟨.src, 1⟩, ⟨.src, 2⟩⟩
  | .idiv t _ => some ⟨0x009, 1, false, ⟨.dst, t.regs⟩, ⟨.src, t.regs⟩, ⟨.src, t.regs⟩, ⟨.unused, 0⟩⟩
  | .irem t _ => some ⟨0x00A, 1, false, ⟨.dst, t.regs⟩, ⟨.src, t.regs⟩, ⟨.src, t.regs⟩, ⟨.unused, 0⟩⟩
  | .iabs t _ => some ⟨0x00B, 1, false, ⟨.dst, t.regs⟩, ⟨.src, t.regs⟩, ⟨.unused, 0⟩, ⟨.unused, 0⟩⟩
  | .ineg t _ => some ⟨0x00C, 1, false, ⟨.dst, t.regs⟩, ⟨.src, t.regs⟩, ⟨.unused, 0⟩, ⟨.unused, 0⟩⟩
  | .imin t _ => some ⟨0x00D, 1, false, ⟨.dst, t.regs⟩, ⟨.src, t.regs⟩, ⟨.src, t.regs⟩, ⟨.unused, 0⟩⟩
  | .imax t _ => some ⟨0x00E, 1, false, ⟨.dst, t.regs⟩, ⟨.src, t.regs⟩, ⟨.src, t.regs⟩, ⟨.unused, 0⟩⟩
  | .icmp _ t _ => some ⟨0x00F, 1, false, ⟨.predDst, 0⟩, ⟨.src, t.regs⟩, ⟨.src, t.regs⟩, ⟨.unused, 0⟩⟩
  | .isel t _ => some ⟨0x010, 1, false, ⟨.dst, t.regs⟩, ⟨.src, t.regs⟩, ⟨.src, t.regs⟩, ⟨.src, 1⟩⟩
  | .andL t _ => some ⟨0x011, 1, false, ⟨.dst, t.regs⟩, ⟨.src, t.regs⟩, ⟨.src, t.regs⟩, ⟨.unused, 0⟩⟩
  | .orL t _ => some ⟨0x012, 1, false, ⟨.dst, t.regs⟩, ⟨.src, t.regs⟩, ⟨.src, t.regs⟩, ⟨.unused, 0⟩⟩
  | .xorL t _ => some ⟨0x013, 1, false, ⟨.dst, t.regs⟩, ⟨.src, t.regs⟩, ⟨.src, t.regs⟩, ⟨.unused, 0⟩⟩
  | .andn t _ => some ⟨0x014, 1, false, ⟨.dst, t.regs⟩, ⟨.src, t.regs⟩, ⟨.src, t.regs⟩, ⟨.unused, 0⟩⟩
  | .notL t _ => some ⟨0x015, 1, false, ⟨.dst, t.regs⟩, ⟨.src, t.regs⟩, ⟨.unused, 0⟩, ⟨.unused, 0⟩⟩
  | .shl t _ => some ⟨0x016, 1, false, ⟨.dst, t.regs⟩, ⟨.src, t.regs⟩, ⟨.src, 1⟩, ⟨.unused, 0⟩⟩
  | .shr t _ => some ⟨0x017, 1, false, ⟨.dst, t.regs⟩, ⟨.src, t.regs⟩, ⟨.src, 1⟩, ⟨.unused, 0⟩⟩
  | .shra t _ => some ⟨0x018, 1, false, ⟨.dst, t.regs⟩, ⟨.src, t.regs⟩, ⟨.src, 1⟩, ⟨.unused, 0⟩⟩
  | .rotl t _ => some ⟨0x019, 1, false, ⟨.dst, t.regs⟩, ⟨.src, t.regs⟩, ⟨.src, 1⟩, ⟨.unused, 0⟩⟩
  | .funnel _ => some ⟨0x01A, 1, false, ⟨.dst, 1⟩, ⟨.src, 1⟩, ⟨.src, 1⟩, ⟨.src, 1⟩⟩
  | .popc t _ => some ⟨0x01B, 1, false, ⟨.dst, 1⟩, ⟨.src, t.regs⟩, ⟨.unused, 0⟩, ⟨.unused, 0⟩⟩
  | .clz t _ => some ⟨0x01C, 1, false, ⟨.dst, 1⟩, ⟨.src, t.regs⟩, ⟨.unused, 0⟩, ⟨.unused, 0⟩⟩
  | .ctz t _ => some ⟨0x01D, 1, false, ⟨.dst, 1⟩, ⟨.src, t.regs⟩, ⟨.unused, 0⟩, ⟨.unused, 0⟩⟩
  | .brev t _ => some ⟨0x01E, 1, false, ⟨.dst, t.regs⟩, ⟨.src, t.regs⟩, ⟨.unused, 0⟩, ⟨.unused, 0⟩⟩
  | .bfx _ _ => some ⟨0x01F, 1, false, ⟨.dst, 1⟩, ⟨.src, 1⟩, ⟨.src, 1⟩, ⟨.unused, 0⟩⟩
  | .bfi _ => some ⟨0x020, 1, false, ⟨.dst, 1⟩, ⟨.src, 1⟩, ⟨.src, 1⟩, ⟨.src, 1⟩⟩
  | .lea _ _ _ => some ⟨0x021, 1, false, ⟨.dst, 2⟩, ⟨.src, 2⟩, ⟨.src, 1⟩, ⟨.unused, 0⟩⟩
  | .plop _ _ => some ⟨0x022, 1, false, ⟨.predDst, 0⟩, ⟨.pz, 0⟩, ⟨.pz, 0⟩, ⟨.pz, 0⟩⟩
  | .pmovPack _ => some ⟨0x023, 1, false, ⟨.dst, 1⟩, ⟨.unused, 0⟩, ⟨.unused, 0⟩, ⟨.unused, 0⟩⟩
  | .pmovUnpack _ => some ⟨0x023, 1, false, ⟨.predDst, 0⟩, ⟨.src, 1⟩, ⟨.src, 1⟩, ⟨.unused, 0⟩⟩
  | .gettag _ => some ⟨0x024, 1, false, ⟨.dst, 1⟩, ⟨.vSrc, 1⟩, ⟨.unused, 0⟩, ⟨.unused, 0⟩⟩
  | .taggen _ => some ⟨0x025, 1, false, ⟨.vDst, 1⟩, ⟨.unused, 0⟩, ⟨.unused, 0⟩, ⟨.unused, 0⟩⟩
  | .fadd _ _ _ => some ⟨0x100, 1, false, ⟨.dst, 1⟩, ⟨.src, 1⟩, ⟨.src, 1⟩, ⟨.unused, 0⟩⟩
  | .fsub _ _ _ => some ⟨0x101, 1, false, ⟨.dst, 1⟩, ⟨.src, 1⟩, ⟨.src, 1⟩, ⟨.unused, 0⟩⟩
  | .fmul _ _ _ => some ⟨0x102, 1, false, ⟨.dst, 1⟩, ⟨.src, 1⟩, ⟨.src, 1⟩, ⟨.unused, 0⟩⟩
  | .ffma _ _ _ => some ⟨0x103, 1, false, ⟨.dst, 1⟩, ⟨.src, 1⟩, ⟨.src, 1⟩, ⟨.src, 1⟩⟩
  | .fmin _ _ => some ⟨0x104, 1, false, ⟨.dst, 1⟩, ⟨.src, 1⟩, ⟨.src, 1⟩, ⟨.unused, 0⟩⟩
  | .fmax _ _ => some ⟨0x105, 1, false, ⟨.dst, 1⟩, ⟨.src, 1⟩, ⟨.src, 1⟩, ⟨.unused, 0⟩⟩
  | .fabs _ _ => some ⟨0x106, 1, false, ⟨.dst, 1⟩, ⟨.src, 1⟩, ⟨.unused, 0⟩, ⟨.unused, 0⟩⟩
  | .fneg _ _ => some ⟨0x107, 1, false, ⟨.dst, 1⟩, ⟨.src, 1⟩, ⟨.unused, 0⟩, ⟨.unused, 0⟩⟩
  | .fcmp _ _ _ => some ⟨0x108, 1, false, ⟨.predDst, 0⟩, ⟨.src, 1⟩, ⟨.src, 1⟩, ⟨.unused, 0⟩⟩
  | .fclass _ => some ⟨0x109, 1, false, ⟨.dst, 1⟩, ⟨.src, 1⟩, ⟨.unused, 0⟩, ⟨.unused, 0⟩⟩
  | .frnd _ _ => some ⟨0x10A, 1, false, ⟨.dst, 1⟩, ⟨.src, 1⟩, ⟨.unused, 0⟩, ⟨.unused, 0⟩⟩
  | .fscale _ _ => some ⟨0x10B, 1, false, ⟨.dst, 1⟩, ⟨.src, 1⟩, ⟨.src, 1⟩, ⟨.unused, 0⟩⟩
  | .hadd2 _ _ _ => some ⟨0x10C, 1, false, ⟨.dst, 1⟩, ⟨.src, 1⟩, ⟨.src, 1⟩, ⟨.unused, 0⟩⟩
  | .hmul2 _ _ _ => some ⟨0x10D, 1, false, ⟨.dst, 1⟩, ⟨.src, 1⟩, ⟨.src, 1⟩, ⟨.unused, 0⟩⟩
  | .hfma2 _ _ _ => some ⟨0x10E, 1, false, ⟨.dst, 1⟩, ⟨.src, 1⟩, ⟨.src, 1⟩, ⟨.src, 1⟩⟩
  | .fdot2 _ _ _ => some ⟨0x10F, 1, false, ⟨.dst, 1⟩, ⟨.src, 1⟩, ⟨.src, 1⟩, ⟨.src, 1⟩⟩
  | .cvt _ dt st _ => some ⟨0x200, 1, false, ⟨.dst, dt.regs⟩, ⟨.s32, st.regs⟩, ⟨.unused, 0⟩, ⟨.unused, 0⟩⟩
  | .pack2 _ _ _ => some ⟨0x201, 1, false, ⟨.dst, 1⟩, ⟨.src, 1⟩, ⟨.src, 1⟩, ⟨.unused, 0⟩⟩
  | .unpack2 _ _ => some ⟨0x202, 1, false, ⟨.dst, 2⟩, ⟨.src, 1⟩, ⟨.unused, 0⟩, ⟨.unused, 0⟩⟩
  | .had16 _ => some ⟨0x203, 1, false, ⟨.dst, 1⟩, ⟨.src, 1⟩, ⟨.src, 1⟩, ⟨.unused, 0⟩⟩
  | .qblk _ _ => some ⟨0x204, 1, false, ⟨.dst, 1⟩, ⟨.src, 1⟩, ⟨.unused, 0⟩, ⟨.unused, 0⟩⟩
  | .dqblk _ _ => some ⟨0x205, 1, false, ⟨.dst, 1⟩, ⟨.src, 1⟩, ⟨.unused, 0⟩, ⟨.unused, 0⟩⟩
  | .seedflip _ => some ⟨0x206, 1, false, ⟨.dst, 1⟩, ⟨.src, 1⟩, ⟨.src, 1⟩, ⟨.unused, 0⟩⟩
  | .rcp _ => some ⟨0x300, 1, false, ⟨.dst, 1⟩, ⟨.src, 1⟩, ⟨.unused, 0⟩, ⟨.unused, 0⟩⟩
  | .rsq _ => some ⟨0x301, 1, false, ⟨.dst, 1⟩, ⟨.src, 1⟩, ⟨.unused, 0⟩, ⟨.unused, 0⟩⟩
  | .sqrt _ => some ⟨0x302, 1, false, ⟨.dst, 1⟩, ⟨.src, 1⟩, ⟨.unused, 0⟩, ⟨.unused, 0⟩⟩
  | .ex2 _ => some ⟨0x303, 1, false, ⟨.dst, 1⟩, ⟨.src, 1⟩, ⟨.unused, 0⟩, ⟨.unused, 0⟩⟩
  | .lg2 _ => some ⟨0x304, 1, false, ⟨.dst, 1⟩, ⟨.src, 1⟩, ⟨.unused, 0⟩, ⟨.unused, 0⟩⟩
  | .sin _ => some ⟨0x305, 1, false, ⟨.dst, 1⟩, ⟨.src, 1⟩, ⟨.unused, 0⟩, ⟨.unused, 0⟩⟩
  | .cos _ => some ⟨0x306, 1, false, ⟨.dst, 1⟩, ⟨.src, 1⟩, ⟨.unused, 0⟩, ⟨.unused, 0⟩⟩
  | .tanh _ => some ⟨0x307, 1, false, ⟨.dst, 1⟩, ⟨.src, 1⟩, ⟨.unused, 0⟩, ⟨.unused, 0⟩⟩
  | .bra _ _ => some ⟨0x400, 1, false, ⟨.unused, 0⟩, ⟨.unused, 0⟩, ⟨.unused, 0⟩, ⟨.unused, 0⟩⟩
  | .brx _ _ => some ⟨0x401, 1, false, ⟨.unused, 0⟩, ⟨.pairVC, 2⟩, ⟨.unused, 0⟩, ⟨.unused, 0⟩⟩
  | .call _ _ => some ⟨0x402, 1, false, ⟨.unused, 0⟩, ⟨.unused, 0⟩, ⟨.unused, 0⟩, ⟨.unused, 0⟩⟩
  | .callx _ _ => some ⟨0x403, 1, false, ⟨.unused, 0⟩, ⟨.pairVC, 2⟩, ⟨.unused, 0⟩, ⟨.unused, 0⟩⟩
  | .ret _ => some ⟨0x404, 1, false, ⟨.unused, 0⟩, ⟨.unused, 0⟩, ⟨.unused, 0⟩, ⟨.unused, 0⟩⟩
  | .join _ => some ⟨0x405, 1, false, ⟨.unused, 0⟩, ⟨.unused, 0⟩, ⟨.unused, 0⟩, ⟨.unused, 0⟩⟩
  | .exitL _ => some ⟨0x406, 1, false, ⟨.unused, 0⟩, ⟨.unused, 0⟩, ⟨.unused, 0⟩, ⟨.unused, 0⟩⟩
  | .sleep _ _ => some ⟨0x407, 1, false, ⟨.unused, 0⟩, ⟨.unused, 0⟩, ⟨.unused, 0⟩, ⟨.unused, 0⟩⟩
  | .ldg w _ _ _ => some ⟨0x500, 1, false, ⟨.dst, w.regs⟩, ⟨.pair, 2⟩, ⟨.unused, 0⟩, ⟨.unused, 0⟩⟩
  | .stg w _ _ _ => some ⟨0x501, 1, false, ⟨.unused, 0⟩, ⟨.pair, 2⟩, ⟨.s32, w.regs⟩, ⟨.unused, 0⟩⟩
  | .lds w _ _ _ => some ⟨0x502, 1, false, ⟨.dst, w.regs⟩, ⟨.s32, 1⟩, ⟨.unused, 0⟩, ⟨.unused, 0⟩⟩
  | .sts w _ _ _ => some ⟨0x503, 1, false, ⟨.unused, 0⟩, ⟨.s32, 1⟩, ⟨.src, w.regs⟩, ⟨.unused, 0⟩⟩
  | .ldgv w _ _ _ => some ⟨0x504, 1, false, ⟨.groupDst, w.count⟩, ⟨.pair, 2⟩, ⟨.unused, 0⟩, ⟨.unused, 0⟩⟩
  | .stgv w _ _ _ => some ⟨0x505, 1, false, ⟨.unused, 0⟩, ⟨.pair, 2⟩, ⟨.group, w.count⟩, ⟨.unused, 0⟩⟩
  | .ldsv w _ _ _ => some ⟨0x506, 1, false, ⟨.groupDst, w.count⟩, ⟨.s32, 1⟩, ⟨.unused, 0⟩, ⟨.unused, 0⟩⟩
  | .stsv w _ _ _ => some ⟨0x507, 1, false, ⟨.unused, 0⟩, ⟨.s32, 1⟩, ⟨.group, w.count⟩, ⟨.unused, 0⟩⟩
  | .lineset _ _ _ => some ⟨0x508, 1, false, ⟨.unused, 0⟩, ⟨.s32, 1⟩, ⟨.src, 1⟩, ⟨.unused, 0⟩⟩
  | .lineq _ _ => some ⟨0x509, 1, false, ⟨.dst, 1⟩, ⟨.s32, 1⟩, ⟨.unused, 0⟩, ⟨.unused, 0⟩⟩
  | .pref _ _ => some ⟨0x50A, 1, false, ⟨.unused, 0⟩, ⟨.pair, 2⟩, ⟨.unused, 0⟩, ⟨.unused, 0⟩⟩
  | .cctl _ _ _ => some ⟨0x50B, 1, false, ⟨.unused, 0⟩, ⟨.pair, 2⟩, ⟨.unused, 0⟩, ⟨.unused, 0⟩⟩
  | .ldgw _ _ _ => some ⟨0x50C, 1, false, ⟨.dst, 1⟩, ⟨.pair, 2⟩, ⟨.s32, 1⟩, ⟨.unused, 0⟩⟩
  | .stgw _ _ _ => some ⟨0x50D, 1, false, ⟨.unused, 0⟩, ⟨.pair, 2⟩, ⟨.s32, 1⟩, ⟨.s32, 1⟩⟩
  | .atomg _ t _ _ _ => some ⟨0x600, 1, false, ⟨.dst, t.regs⟩, ⟨.pair, 2⟩, (atomSlot t), ⟨.unused, 0⟩⟩
  | .atoms _ t _ _ _ => some ⟨0x601, 1, false, ⟨.dst, t.regs⟩, ⟨.s32, 1⟩, (atomSlot t), ⟨.unused, 0⟩⟩
  | .redg _ t _ _ _ => some ⟨0x602, 1, false, ⟨.unused, 0⟩, ⟨.pair, 2⟩, (atomSlot t), ⟨.unused, 0⟩⟩
  | .casg t _ _ _ => some ⟨0x603, 1, false, ⟨.dst, t.regs⟩, ⟨.pair, 2⟩, (atomSlot t), (atomSlot t)⟩
  | .cass t _ _ _ => some ⟨0x604, 1, false, ⟨.dst, t.regs⟩, ⟨.s32, 1⟩, (atomSlot t), (atomSlot t)⟩
  | .fence _ _ => some ⟨0x605, 1, false, ⟨.unused, 0⟩, ⟨.unused, 0⟩, ⟨.unused, 0⟩, ⟨.unused, 0⟩⟩
  | .qfence _ => some ⟨0x606, 1, false, ⟨.unused, 0⟩, ⟨.immOnly, 1⟩, ⟨.unused, 0⟩, ⟨.unused, 0⟩⟩
  | .cbar op _ _ => some ⟨0x607, 1, false, (if op == .none then ⟨.unused, 0⟩ else ⟨.dst, 1⟩), (if op == .none then ⟨.unused, 0⟩ else ⟨.src, 1⟩), ⟨.immZ, 1⟩, ⟨.unused, 0⟩⟩
  | .expect _ => some ⟨0x608, 1, false, ⟨.unused, 0⟩, ⟨.s32, 1⟩, ⟨.src, 1⟩, ⟨.unused, 0⟩⟩
  | .arrive _ => some ⟨0x609, 1, false, ⟨.unused, 0⟩, ⟨.s32, 1⟩, ⟨.src, 1⟩, ⟨.unused, 0⟩⟩
  | .waitr _ => some ⟨0x60A, 1, false, ⟨.unused, 0⟩, ⟨.s32, 1⟩, ⟨.src, 1⟩, ⟨.unused, 0⟩⟩
  | .ballot _ => some ⟨0x700, 1, false, ⟨.dst, 1⟩, ⟨.src, 1⟩, ⟨.unused, 0⟩, ⟨.unused, 0⟩⟩
  | .vote _ _ => some ⟨0x701, 1, false, ⟨.predDst, 0⟩, ⟨.src, 1⟩, ⟨.unused, 0⟩, ⟨.unused, 0⟩⟩
  | .shfl _ t _ => some ⟨0x702, 1, false, ⟨.dst, t.regs⟩, ⟨.src, t.regs⟩, ⟨.src, 1⟩, ⟨.unused, 0⟩⟩
  | .bcast t _ => some ⟨0x703, 1, false, ⟨.dst, t.regs⟩, ⟨.src, t.regs⟩, ⟨.src, 1⟩, ⟨.unused, 0⟩⟩
  | .redb _ _ _ => some ⟨0x704, 1, false, ⟨.dst, 1⟩, ⟨.src, 1⟩, ⟨.unused, 0⟩, ⟨.unused, 0⟩⟩
  | .scanb _ _ _ _ => some ⟨0x705, 1, false, ⟨.dst, 1⟩, ⟨.src, 1⟩, ⟨.unused, 0⟩, ⟨.unused, 0⟩⟩
  | .matchL t _ => some ⟨0x706, 1, false, ⟨.dst, 1⟩, ⟨.src, t.regs⟩, ⟨.unused, 0⟩, ⟨.unused, 0⟩⟩
  | .actmask _ => some ⟨0x707, 1, false, ⟨.dst, 1⟩, ⟨.unused, 0⟩, ⟨.unused, 0⟩, ⟨.unused, 0⟩⟩
  | .pbind g _ => some ⟨0x800, 3, false, ⟨.predDst, 0⟩, ⟨.port, 0⟩, (if g then ⟨.pair, 2⟩ else ⟨.s32, 1⟩), ⟨.unused, 0⟩⟩
  | .punbind _ => some ⟨0x801, 3, false, ⟨.unused, 0⟩, ⟨.port, 0⟩, ⟨.unused, 0⟩, ⟨.unused, 0⟩⟩
  | .pstat _ => some ⟨0x802, 3, false, ⟨.dst, 2⟩, ⟨.port, 0⟩, ⟨.src, 1⟩, ⟨.unused, 0⟩⟩
  | .pskip _ => some ⟨0x803, 3, false, ⟨.unused, 0⟩, ⟨.port, 0⟩, ⟨.src, 2⟩, ⟨.unused, 0⟩⟩
  | .pflush _ => some ⟨0x804, 3, false, ⟨.unused, 0⟩, ⟨.src, 1⟩, ⟨.unused, 0⟩, ⟨.unused, 0⟩⟩
  | .bpend _ _ => some ⟨0x805, 3, false, ⟨.unused, 0⟩, ⟨.port, 0⟩, ⟨.unused, 0⟩, ⟨.unused, 0⟩⟩
  | .prewind _ => some ⟨0x806, 3, false, ⟨.unused, 0⟩, ⟨.port, 0⟩, ⟨.src, 2⟩, ⟨.unused, 0⟩⟩
  | .tld _ => some ⟨0x900, 1, false, ⟨.tileDst, 0⟩, ⟨.s32, 1⟩, ⟨.unused, 0⟩, ⟨.unused, 0⟩⟩
  | .tst _ => some ⟨0x901, 1, false, ⟨.unused, 0⟩, ⟨.s32, 1⟩, ⟨.tile, 0⟩, ⟨.unused, 0⟩⟩
  | .tzero _ => some ⟨0x902, 1, false, ⟨.tileDst, 0⟩, ⟨.unused, 0⟩, ⟨.unused, 0⟩, ⟨.unused, 0⟩⟩
  | .mloop _ => some ⟨0x903, 1, false, ⟨.unused, 0⟩, ⟨.src, 1⟩, ⟨.src, 1⟩, ⟨.groupV, 4⟩⟩
  | .gmloop _ => some ⟨0x904, 1, false, ⟨.unused, 0⟩, ⟨.src, 1⟩, ⟨.src, 1⟩, ⟨.groupV, 4⟩⟩
  | .accalloc _ => some ⟨0x905, 1, false, ⟨.predDst, 0⟩, ⟨.vDst, 1⟩, ⟨.src, 1⟩, ⟨.unused, 0⟩⟩
  | .accfree _ => some ⟨0x906, 1, false, ⟨.unused, 0⟩, ⟨.src, 1⟩, ⟨.unused, 0⟩, ⟨.unused, 0⟩⟩
  | .accrd _ => some ⟨0x907, 1, false, ⟨.dst, 1⟩, ⟨.src, 1⟩, ⟨.src, 1⟩, ⟨.unused, 0⟩⟩
  | .accwr _ => some ⟨0x908, 1, false, ⟨.unused, 0⟩, ⟨.src, 1⟩, ⟨.src, 1⟩, ⟨.src, 1⟩⟩
  | .accst _ _ => some ⟨0x909, 1, false, ⟨.unused, 0⟩, ⟨.pair, 2⟩, ⟨.src, 1⟩, ⟨.src, 1⟩⟩
  | .mwait _ => some ⟨0x90A, 1, false, ⟨.unused, 0⟩, ⟨.unused, 0⟩, ⟨.unused, 0⟩, ⟨.unused, 0⟩⟩
  | .segnew _ => some ⟨0xA00, 2, false, ⟨.result, 1⟩, ⟨.s32, 1⟩, ⟨.unused, 0⟩, ⟨.unused, 0⟩⟩
  | .segseal _ => some ⟨0xA01, 2, false, ⟨.result, 1⟩, ⟨.src, 1⟩, ⟨.unused, 0⟩, ⟨.unused, 0⟩⟩
  | .segretire _ => some ⟨0xA02, 2, true, ⟨.result, 1⟩, ⟨.src, 1⟩, ⟨.unused, 0⟩, ⟨.unused, 0⟩⟩
  | .ctxnew _ => some ⟨0xA03, 2, false, ⟨.result, 1⟩, ⟨.s32, 1⟩, ⟨.unused, 0⟩, ⟨.unused, 0⟩⟩
  | .ctxfree _ => some ⟨0xA04, 2, false, ⟨.result, 1⟩, ⟨.src, 1⟩, ⟨.unused, 0⟩, ⟨.unused, 0⟩⟩
  | .link _ => some ⟨0xA05, 2, false, ⟨.result, 1⟩, ⟨.src, 1⟩, ⟨.src, 1⟩, ⟨.src, 1⟩⟩
  | .unlink _ => some ⟨0xA06, 2, false, ⟨.result, 1⟩, ⟨.src, 1⟩, ⟨.src, 1⟩, ⟨.unused, 0⟩⟩
  | .fork _ => some ⟨0xA07, 2, false, ⟨.result, 1⟩, ⟨.src, 1⟩, ⟨.unused, 0⟩, ⟨.unused, 0⟩⟩
  | .ctxflat _ => some ⟨0xA08, 2, false, ⟨.result, 1⟩, ⟨.src, 1⟩, ⟨.unused, 0⟩, ⟨.unused, 0⟩⟩
  | .append _ => some ⟨0xA09, 2, false, ⟨.result, 1⟩, ⟨.src, 1⟩, ⟨.s32, 1⟩, ⟨.src, 1⟩⟩
  | .patch _ => some ⟨0xA0A, 2, false, ⟨.result, 1⟩, ⟨.src, 1⟩, ⟨.s32, 1⟩, ⟨.pair, 2⟩⟩
  | .attn _ _ _ => some ⟨0xA0B, 2, false, ⟨.attnDst, 1⟩, ⟨.s32, 1⟩, ⟨.groupV, 4⟩, ⟨.unused, 0⟩⟩
  | .specb _ => some ⟨0xA0C, 2, false, ⟨.result, 1⟩, ⟨.src, 1⟩, ⟨.unused, 0⟩, ⟨.unused, 0⟩⟩
  | .speca _ => some ⟨0xA0D, 2, false, ⟨.result, 1⟩, ⟨.src, 1⟩, ⟨.unused, 0⟩, ⟨.unused, 0⟩⟩
  | .specr _ => some ⟨0xA0E, 2, false, ⟨.result, 1⟩, ⟨.src, 1⟩, ⟨.src, 1⟩, ⟨.unused, 0⟩⟩
  | .ctxq _ => some ⟨0xA0F, 2, false, ⟨.dst, 2⟩, ⟨.src, 1⟩, ⟨.src, 1⟩, ⟨.unused, 0⟩⟩
  | .palloc _ => some ⟨0xA10, 2, false, ⟨.result, 1⟩, ⟨.pair, 2⟩, ⟨.s32, 1⟩, ⟨.pzDst, 0⟩⟩
  | .pfree _ => some ⟨0xA11, 2, false, ⟨.result, 1⟩, ⟨.src, 1⟩, ⟨.unused, 0⟩, ⟨.unused, 0⟩⟩
  | .promote _ => some ⟨0xA12, 2, false, ⟨.result, 1⟩, ⟨.src, 1⟩, ⟨.unused, 0⟩, ⟨.unused, 0⟩⟩
  | .demote _ => some ⟨0xA13, 2, false, ⟨.result, 1⟩, ⟨.src, 1⟩, ⟨.unused, 0⟩, ⟨.unused, 0⟩⟩
  | .cpy m _ _ _ => some ⟨0xB00, 1, false, (if m.weight then ⟨.s32, 1⟩ else ⟨.unused, 0⟩), (baseSlot m.dir.dstGlobal), (baseSlot m.dir.srcGlobal), ⟨.s32, 1⟩⟩
  | .tcpy m _ => some ⟨0xB01, 1, false, (if m.weight then ⟨.s32, 1⟩ else ⟨.unused, 0⟩), (baseSlot m.dir.dstGlobal), (baseSlot m.dir.srcGlobal), ⟨.s32, 1⟩⟩
  | .cpyfill m _ _ _ => some ⟨0xB02, 1, false, (if m.weight then ⟨.s32, 1⟩ else ⟨.unused, 0⟩), (baseSlot (m.dir == .gs)), (fillSlot m.width), ⟨.s32, 1⟩⟩
  | .spawn _ => some ⟨0xC00, 1, false, ⟨.dst, 1⟩, ⟨.group, 8⟩, ⟨.pair, 2⟩, ⟨.src, 1⟩⟩
  | .splitw _ => some ⟨0xC01, 1, false, ⟨.dst, 1⟩, ⟨.src, 1⟩, ⟨.src, 1⟩, ⟨.unused, 0⟩⟩
  | .retw _ => some ⟨0xC02, 1, false, ⟨.dst, 1⟩, ⟨.src, 1⟩, ⟨.unused, 0⟩, ⟨.unused, 0⟩⟩
  | .retwSv _ => some ⟨0xC02, 1, true, ⟨.unused, 0⟩, ⟨.src, 1⟩, ⟨.pair, 2⟩, ⟨.unused, 0⟩⟩
  | .waitq _ => some ⟨0xC03, 1, false, ⟨.predDst, 0⟩, ⟨.src, 1⟩, ⟨.unused, 0⟩, ⟨.unused, 0⟩⟩
  | .qopen _ => some ⟨0xC04, 1, false, ⟨.dst, 1⟩, ⟨.src, 1⟩, ⟨.unused, 0⟩, ⟨.unused, 0⟩⟩
  | .qclose _ => some ⟨0xC05, 1, false, ⟨.dst, 1⟩, ⟨.src, 1⟩, ⟨.unused, 0⟩, ⟨.unused, 0⟩⟩
  | .qread _ => some ⟨0xC06, 1, false, ⟨.groupDst, 4⟩, ⟨.src, 1⟩, ⟨.unused, 0⟩, ⟨.unused, 0⟩⟩
  | .postres _ => some ⟨0xC07, 1, false, ⟨.unused, 0⟩, ⟨.pair, 2⟩, ⟨.unused, 0⟩, ⟨.unused, 0⟩⟩
  | .msend _ => some ⟨0xC08, 1, false, ⟨.unused, 0⟩, ⟨.pair, 2⟩, ⟨.group, 8⟩, ⟨.src, 1⟩⟩
  | .gbar _ => some ⟨0xD00, 1, false, ⟨.unused, 0⟩, ⟨.unused, 0⟩, ⟨.immZ, 1⟩, ⟨.unused, 0⟩⟩
  | .rsend _ => some ⟨0xD01, 1, false, ⟨.unused, 0⟩, ⟨.src, 1⟩, ⟨.src, 1⟩, ⟨.unused, 0⟩⟩
  | .rrecv _ => some ⟨0xD02, 1, false, ⟨.dst, 2⟩, ⟨.src, 1⟩, ⟨.src, 1⟩, ⟨.unused, 0⟩⟩
  | .mcast _ => some ⟨0xD03, 1, false, ⟨.unused, 0⟩, ⟨.s32, 1⟩, ⟨.s32, 1⟩, ⟨.pair, 2⟩⟩
  | .movk k _ => some ⟨0xE00, 1, false, ⟨.unused, 0⟩, ⟨.s32, (ctlRegs k)⟩, ⟨.unused, 0⟩, ⟨.unused, 0⟩⟩
  | .movr k _ => some ⟨0xE01, 1, false, ⟨.dst, (ctlRegs k)⟩, ⟨.unused, 0⟩, ⟨.unused, 0⟩, ⟨.unused, 0⟩⟩
  | .trap _ _ => some ⟨0xE02, 1, false, ⟨.unused, 0⟩, ⟨.unused, 0⟩, ⟨.unused, 0⟩, ⟨.unused, 0⟩⟩
  | .svc _ _ => some ⟨0xE03, 1, false, ⟨.unused, 0⟩, ⟨.unused, 0⟩, ⟨.unused, 0⟩, ⟨.unused, 0⟩⟩
  | .eret _ => some ⟨0xE04, 1, true, ⟨.unused, 0⟩, ⟨.unused, 0⟩, ⟨.unused, 0⟩, ⟨.unused, 0⟩⟩
  | .slotq _ => some ⟨0xE05, 1, false, ⟨.groupVDst, 4⟩, ⟨.unused, 0⟩, ⟨.unused, 0⟩, ⟨.unused, 0⟩⟩
  | .csave _ => some ⟨0xE06, 1, true, ⟨.dst, 1⟩, ⟨.src, 1⟩, ⟨.pair, 2⟩, ⟨.unused, 0⟩⟩
  | .crestore _ => some ⟨0xE07, 1, true, ⟨.dst, 1⟩, ⟨.src, 1⟩, ⟨.pair, 2⟩, ⟨.unused, 0⟩⟩

  | _ => none

/-- The operands of an instruction row. -/
def Instr.args : Instr → Option Args
  | .nop x => some x
  | .mov _ x => some x
  | .iadd _ x => some x
  | .isub _ x => some x
  | .iaddc _ x => some x
  | .imul _ x => some x
  | .imulh _ x => some x
  | .imad _ x => some x
  | .imadw _ x => some x
  | .idiv _ x => some x
  | .irem _ x => some x
  | .iabs _ x => some x
  | .ineg _ x => some x
  | .imin _ x => some x
  | .imax _ x => some x
  | .icmp _ _ x => some x
  | .isel _ x => some x
  | .andL _ x => some x
  | .orL _ x => some x
  | .xorL _ x => some x
  | .andn _ x => some x
  | .notL _ x => some x
  | .shl _ x => some x
  | .shr _ x => some x
  | .shra _ x => some x
  | .rotl _ x => some x
  | .funnel x => some x
  | .popc _ x => some x
  | .clz _ x => some x
  | .ctz _ x => some x
  | .brev _ x => some x
  | .bfx _ x => some x
  | .bfi x => some x
  | .lea _ _ x => some x
  | .plop _ x => some x
  | .pmovPack x => some x
  | .pmovUnpack x => some x
  | .gettag x => some x
  | .taggen x => some x
  | .fadd _ _ x => some x
  | .fsub _ _ x => some x
  | .fmul _ _ x => some x
  | .ffma _ _ x => some x
  | .fmin _ x => some x
  | .fmax _ x => some x
  | .fabs _ x => some x
  | .fneg _ x => some x
  | .fcmp _ _ x => some x
  | .fclass x => some x
  | .frnd _ x => some x
  | .fscale _ x => some x
  | .hadd2 _ _ x => some x
  | .hmul2 _ _ x => some x
  | .hfma2 _ _ x => some x
  | .fdot2 _ _ x => some x
  | .cvt _ _ _ x => some x
  | .pack2 _ _ x => some x
  | .unpack2 _ x => some x
  | .had16 x => some x
  | .qblk _ x => some x
  | .dqblk _ x => some x
  | .seedflip x => some x
  | .rcp x => some x
  | .rsq x => some x
  | .sqrt x => some x
  | .ex2 x => some x
  | .lg2 x => some x
  | .sin x => some x
  | .cos x => some x
  | .tanh x => some x
  | .bra _ x => some x
  | .brx _ x => some x
  | .call _ x => some x
  | .callx _ x => some x
  | .ret x => some x
  | .join x => some x
  | .exitL x => some x
  | .sleep _ x => some x
  | .ldg _ _ _ x => some x
  | .stg _ _ _ x => some x
  | .lds _ _ _ x => some x
  | .sts _ _ _ x => some x
  | .ldgv _ _ _ x => some x
  | .stgv _ _ _ x => some x
  | .ldsv _ _ _ x => some x
  | .stsv _ _ _ x => some x
  | .lineset _ _ x => some x
  | .lineq _ x => some x
  | .pref _ x => some x
  | .cctl _ _ x => some x
  | .ldgw _ _ x => some x
  | .stgw _ _ x => some x
  | .atomg _ _ _ _ x => some x
  | .atoms _ _ _ _ x => some x
  | .redg _ _ _ _ x => some x
  | .casg _ _ _ x => some x
  | .cass _ _ _ x => some x
  | .fence _ x => some x
  | .qfence x => some x
  | .cbar _ _ x => some x
  | .expect x => some x
  | .arrive x => some x
  | .waitr x => some x
  | .ballot x => some x
  | .vote _ x => some x
  | .shfl _ _ x => some x
  | .bcast _ x => some x
  | .redb _ _ x => some x
  | .scanb _ _ _ x => some x
  | .matchL _ x => some x
  | .actmask x => some x
  | .pbind _ x => some x
  | .punbind x => some x
  | .pstat x => some x
  | .pskip x => some x
  | .pflush x => some x
  | .bpend _ x => some x
  | .prewind x => some x
  | .tld x => some x
  | .tst x => some x
  | .tzero x => some x
  | .mloop x => some x
  | .gmloop x => some x
  | .accalloc x => some x
  | .accfree x => some x
  | .accrd x => some x
  | .accwr x => some x
  | .accst _ x => some x
  | .mwait x => some x
  | .segnew x => some x
  | .segseal x => some x
  | .segretire x => some x
  | .ctxnew x => some x
  | .ctxfree x => some x
  | .link x => some x
  | .unlink x => some x
  | .fork x => some x
  | .ctxflat x => some x
  | .append x => some x
  | .patch x => some x
  | .attn _ _ x => some x
  | .specb x => some x
  | .speca x => some x
  | .specr x => some x
  | .ctxq x => some x
  | .palloc x => some x
  | .pfree x => some x
  | .promote x => some x
  | .demote x => some x
  | .cpy _ _ _ x => some x
  | .tcpy _ x => some x
  | .cpyfill _ _ _ x => some x
  | .spawn x => some x
  | .splitw x => some x
  | .retw x => some x
  | .retwSv x => some x
  | .waitq x => some x
  | .qopen x => some x
  | .qclose x => some x
  | .qread x => some x
  | .postres x => some x
  | .msend x => some x
  | .gbar x => some x
  | .rsend x => some x
  | .rrecv x => some x
  | .mcast x => some x
  | .movk _ x => some x
  | .movr _ x => some x
  | .trap _ x => some x
  | .svc _ x => some x
  | .eret x => some x
  | .slotq x => some x
  | .csave x => some x
  | .crestore x => some x

  | _ => none

/-- The modifier and literal values a form assigns (R191); any other value traps RSVD. -/
def Instr.modsOk : Instr → Bool
  | .mov t _ => t.isBits
  | .iadd t _ => t.isInt
  | .isub t _ => t.isInt
  | .iaddc t _ => t.isInt
  | .imul t _ => t.isInt
  | .imulh t _ => t.isSN32
  | .imad t _ => t.isInt
  | .imadw t _ => t.isSN32
  | .idiv t _ => t.isSN
  | .irem t _ => t.isSN
  | .iabs t _ => t.isS
  | .ineg t _ => t.isS
  | .imin t _ => t.isSN
  | .imax t _ => t.isSN
  | .icmp k t _ => (t.isSN || (t.isBits && k.isEqNe))
  | .isel t _ => t.isBits
  | .andL t _ => t.isBits
  | .orL t _ => t.isBits
  | .xorL t _ => t.isBits
  | .andn t _ => t.isBits
  | .notL t _ => t.isBits
  | .shl t _ => t.isBits
  | .shr t _ => t.isBits
  | .shra t _ => t.isS
  | .rotl t _ => t.isBits
  | .popc t _ => t.isBits
  | .clz t _ => t.isBits
  | .ctz t _ => t.isBits
  | .brev t _ => t.isBits
  | .bfx t _ => t.isSN32
  | .lea _ t _ => t.isSN32
  | .fadd _ t x => (t.isFlt && floatLitOk t x)
  | .fsub _ t x => (t.isFlt && floatLitOk t x)
  | .fmul _ t x => (t.isFlt && floatLitOk t x)
  | .ffma _ t x => (t.isFlt && floatLitOk t x)
  | .fmin t x => (t.isFlt && floatLitOk t x)
  | .fmax t x => (t.isFlt && floatLitOk t x)
  | .fabs t x => (t.isFlt && floatLitOk t x)
  | .fneg t x => (t.isFlt && floatLitOk t x)
  | .fcmp _ t x => (t.isFlt && floatLitOk t x)
  | .hadd2 _ t _ => t.isPkd
  | .hmul2 _ t _ => t.isPkd
  | .hfma2 _ t _ => t.isPkd
  | .fdot2 _ t _ => t.isPkd
  | .cvt _ dt st _ => (dt.isCvt && st.isCvt)
  | .pack2 _ t _ => t.isPkd
  | .unpack2 t _ => t.isPkd
  | .bra disp _ => decide (disp.toNat % 16 = 0)
  | .call disp _ => decide (disp.toNat % 16 = 0)
  | .ldg _ o _ _ => o.isLoad
  | .stg _ o _ _ => o.isStore
  | .lds _ o _ _ => o.isLoad
  | .sts _ o _ x => o.isStore && decide (x.lit.toNat < 4096)
  | .ldgv _ o _ _ => o.isLoad
  | .stgv _ o _ _ => o.isStore
  | .ldsv _ o _ _ => o.isLoad
  | .stsv _ o _ _ => o.isStore
  | .lineset _ _ x => decide (x.lit.toNat < 4096)
  | .ldgw o _ _ => o.isLoad
  | .stgw o _ _ => o.isStore
  | .atomg op t o _ _ => atomOk op t && o.isAtomic
  | .atoms op t o _ _ => atomOk op t && o.isAtomic
  | .redg op t o _ _ => atomOk op t && o.isStore
  | .casg t o _ _ => t.isCas && o.isAtomic
  | .cass t o _ _ => t.isCas && o.isAtomic
  | .fence o _ => o.isFence
  | .qfence x => decide (x.lit.toNat < 32768)
  | .cbar op t x => (cbarOk op t && (x.b != .imm || decide (x.lit.toNat < 8)))
  | .shfl _ t _ => t.isBits
  | .bcast t _ => t.isBits
  | .redb op t _ => redOk op t
  | .scanb op t _ _ => redOk op t
  | .matchL t _ => t.isBits
  | .bpend disp _ => decide (disp.toNat % 16 = 0)
  | .tcpy m _ => decide (m.width = .b32)
  | .cpyfill m _ _ _ => (m.dir == .gs || m.dir == .ss)
  | .gbar x => decide (x.lit.toNat < 8)
  | .csave x | .crestore x => x.lit == 0
  | .movk k _ => movkOk k
  | .movr k _ => movrOk k

  | _ => true

/-- Whether a field of the kind takes an operand of that sort (R188). -/
def Kind.takes : Kind → Opnd → Bool
  | .unused, .none => true
  | .src, .v _ | .src, .q _ | .src, .peek _ | .src, .c _ | .src, .p _ | .src, .special _ | .src, .imm
  | .src, .zero => true
  | .s32, .v _ | .s32, .q _ | .s32, .peek _ | .s32, .c _ | .s32, .p _ | .s32, .special _ | .s32, .zero => true
  | .pair, .v _ | .pair, .c _ | .pair, .zero => true
  | .pairVC, .v _ | .pairVC, .c _ => true
  | .dst, .v _ | .dst, .q _ | .dst, .c _ | .dst, .zero => true
  | .predDst, .p _ => true
  | .pz, .p _ | .pz, .zero | .pzCarry, .p _ | .pzCarry, .zero | .pzDst, .p _ | .pzDst, .zero => true
  | .vSrc, .v _ | .vDst, .v _ => true
  | .group, .v _ | .group, .q _ | .group, .peek _ | .groupDst, .v _ | .groupDst, .q _ => true
  | .groupV, .v _ | .groupVDst, .v _ => true
  | .immOnly, .imm | .immZ, .imm | .immZ, .zero => true
  | .port, .q _ => true
  | .tile, .t _ | .tileDst, .t _ => true
  | .result, .v _ | .result, .c _ | .result, .zero => true
  | .attnDst, .v _ | .attnDst, .q _ | .attnDst, .zero => true
  | _, _ => false

/-- Kinds whose field is a source that may hold a port code to pop. -/
def Kind.pops : Kind → Bool
  | .src | .s32 | .group => true
  | _ => false

def Opnd.isPop : Opnd → Bool
  | .q _ => true
  | _ => false

def Opnd.isPeek : Opnd → Bool
  | .peek _ => true
  | _ => false

/-- A pop code and a peek code may not stand together in one instruction (R188). A port code in a destination is a push
and no pop (Table 11-2; DEDUCED, assumption 46). -/
def popPeekOk (sh : Shape) (x : Args) : Bool :=
  let pops := (sh.d.kind.pops && x.d.isPop) || (sh.a.kind.pops && x.a.isPop) || (sh.b.kind.pops && x.b.isPop) || (sh.c.kind.pops && x.c.isPop)
  let peeks := x.d.isPeek || x.a.isPeek || x.b.isPeek || x.c.isPeek
  !(pops && peeks)

/-- The forms whose 12-bit literal is a sub-field of IMM that they name, so that any value of it is assigned whether
or not a field selects it (Table 14-2, R192; DEDUCED, assumption 46). -/
def Instr.shortLit : Instr → Bool
  | .sts _ _ _ _ | .lineset _ _ _ => true
  | _ => false

/-- IMM holds zero when no field selects it (R212). -/
def litOk (x : Args) : Bool :=
  x.a == .imm || x.b == .imm || x.c == .imm || x.lit == 0

/-- The instruction is one the encoding can express: every field holds a kind its form takes, every modifier
value is assigned, and an unused literal is zero. -/
def Instr.wf (i : Instr) : Bool :=
  match i.shape, i.args with
  | some sh, some x =>
    sh.d.kind.takes x.d && sh.a.kind.takes x.a && sh.b.kind.takes x.b && sh.c.kind.takes x.c &&
      popPeekOk sh x && (i.shortLit || litOk x) && i.modsOk
  | _, _ => false

/-- What a word's checks depend on besides the word: the declared version, register count and tile count of the
kernel (R192), and whether the core runs at supervisor level (R18, R339). -/
structure Env where
  ver : Nat
  regs : Nat
  tiles : Nat
  sup : Bool
deriving DecidableEq, Repr, Inhabited

/-- The limits of R12, R13, R16, R189 and R198 on one operand. -/
def Opnd.inLimits (e : Env) (s : Slot) : Opnd → Bool
  | .v n =>
    match s.kind with
    | .group | .groupDst | .groupV | .groupVDst => decide (n.val + s.regs ≤ e.regs)
    | _ => if s.regs = 2 then decide (n.val % 2 = 0) && decide (n.val + 2 ≤ e.regs) else decide (n.val < e.regs)
  | .c n => if s.regs = 2 then decide (n.val % 2 = 0) else true
  | .q _ | .peek _ => decide (3 ≤ e.ver)
  | .t n => decide (n.val < e.tiles)
  | _ => true

/-- Version 1 has no SB3 (Table 11-7). -/
def Instr.sb3Ok (e : Env) : Instr → Bool
  | .qblk f _ | .dqblk f _ => decide (2 ≤ e.ver) || f != .sb3
  | .accst t _ => decide (2 ≤ e.ver) || t != .blk .sb3
  | _ => true

/-- Control registers on a house core: unlisted numbers and writes to read registers trap RSVD (R18, R367). -/
def Instr.supOk (e : Env) : Instr → Bool
  | .movk k _ => !e.sup || (decide (k.toNat ≤ 0x12C) && !([0x10C, 0x11B, 0x120].contains k.toNat))
  | .movr k _ => !e.sup || decide (k.toNat ≤ 0x12C)
  | _ => true

/-- The limits that depend on the kernel and the core; a word that breaks one traps RSVD. -/
def Instr.inLimits (e : Env) (i : Instr) : Bool :=
  match i.shape, i.args with
  | some sh, some x =>
    x.d.inLimits e sh.d && x.a.inLimits e sh.a && x.b.inLimits e sh.b && x.c.inLimits e sh.c && i.sb3Ok e &&
      i.supOk e
  | _, _ => false

/-- Privileged forms, and `MOVK` and `MOVR` of a supervisor register (R18, R192, R199). -/
def Instr.privileged (i : Instr) : Bool :=
  match i with
  | .movk k _ | .movr k _ => decide (0x100 ≤ k.toNat)
  | _ => (i.shape.map (·.priv)).getD false

/-- Table 23-1: the forms a house core does not have, which trap ILLOP there. -/
def Instr.houseIllop (i : Instr) : Bool :=
  match i with
  | .exitL _ | .cbar _ _ _ | .attn _ _ _ | .patch _ => true
  | .retwSv _ | .waitq _ | .qopen _ | .qclose _ | .qread _ => false
  | _ =>
    match i.shape with
    | some sh => sh.opc / 256 == 8 || sh.opc / 256 == 9 || sh.opc / 256 == 0xC || sh.opc / 256 == 0xD
    | none => false

end Sys2Proof
end

