-- ==== Sys2Proof/Machine/Ops.lean ====
section
/-!
DEFINITION. The named operations over the state: reading and writing cores, crews, bundles and lanes; completion flags;
finishing, parking and trapping a course (R44, R47-R52, R193, R194, R368); lines and receipt words (R86-R90); the
rings (R372, R374).
-/

namespace Sys2Proof.Machine

/-- What a step of the machine answers. -/
abbrev Out := Host.Outcome State Fault Refusal

/-! ### Reading and writing parts of the state -/

def State.core (s : State) (c : Nat) : Core := findD s.cores c default
def State.setCore (s : State) (c : Nat) (x : Core) : State := { s with cores := put s.cores c x }
def State.crew (s : State) (c k : Nat) : Crew := findD (s.core c).crews k default
def State.setCrew (s : State) (c k : Nat) (x : Crew) : State :=
  s.setCore c { s.core c with crews := put (s.core c).crews k x }
def State.bundle (s : State) (b : BRef) : Bundle := findD (s.crew b.core b.slot).bundles b.bundle default
def State.setBundle (s : State) (b : BRef) (x : Bundle) : State :=
  s.setCrew b.core b.slot { s.crew b.core b.slot with bundles := put (s.crew b.core b.slot).bundles b.bundle x }
def State.lane (s : State) (b : BRef) (l : Nat) : Lane := findD (s.bundle b).lanes l default
def Bundle.lane (x : Bundle) (l : Nat) : Lane := findD x.lanes l default
def Bundle.setLane (x : Bundle) (l : Nat) (y : Lane) : Bundle := { x with lanes := put x.lanes l y }
def State.setLane (s : State) (b : BRef) (l : Nat) (y : Lane) : State := s.setBundle b ((s.bundle b).setLane l y)
/-- A change of some lanes of a bundle, each by itself. -/
def Bundle.mapLanes (x : Bundle) (ls : List Nat) (f : Nat → Lane → Lane) : Bundle :=
  ls.foldl (fun x l => x.setLane l (f l (x.lane l))) x
def State.mapLanes (s : State) (b : BRef) (ls : List Nat) (f : Nat → Lane → Lane) : State :=
  s.setBundle b ((s.bundle b).mapLanes ls f)

/-- Whether a bundle stands on a core. -/
def State.hasBundle (s : State) (b : BRef) : Bool :=
  match find (s.core b.core).crews b.slot with
  | some k => (find k.bundles b.bundle).isSome
  | none => false

/-- The bundle of the course being executed. -/
def State.ref (s : State) : BRef := ⟨s.cur.core, s.cur.slot, s.cur.bundle⟩
def State.curCrew (s : State) : Crew := s.crew s.cur.core s.cur.slot
/-- The lanes of the course. -/
def State.lanes (s : State) : List Nat := lanesOf s.cur.mask

/-- Lanes, each with the number below which a `FENCE` of scope .sys has ordered its UN accesses (R104). -/
def State.unsOf (s : State) (b : BRef) (ls : List Nat) : List (Nat × Nat) := ls.map fun l => (l, (s.lane b l).mind.un)

/-- Of the writes of a crew register in one cycle, that of the highest-numbered bundle remains (R112). -/
def Crew.putC (k : Crew) (cyc bundle n : Nat) (w : Word) : Crew :=
  let k1 := { k with c := put k.c n w, cBy := put k.cBy n (cyc, bundle) }
  match find k.cBy n with
  | some (t, b) => if t = cyc ∧ bundle < b then k else k1
  | none => k1
/-- Consecutive crew registers written by a bundle. -/
def State.writeC (s : State) (b : BRef) (n : Nat) (ws : List Word) : State :=
  s.setCrew b.core b.slot (ws.zipIdx.foldl (fun k e => k.putC (s.core b.core).cyc b.bundle (n + e.2) e.1) (s.crew b.core b.slot))

/-- The bundles of a core in ascending crew slot and bundle number. -/
def State.bundlesOf (s : State) (core : Nat) : List BRef :=
  (s.core core).crews.flatMap fun k => k.2.bundles.map fun e => ⟨core, k.1, e.1⟩

/-- A change of every bundle of the module. -/
def State.mapBundles (s : State) (f : BRef → Bundle → Bundle) : State :=
  { s with cores := s.cores.map fun ⟨c, x⟩ =>
      (c, { x with crews := x.crews.map fun ⟨k, y⟩ =>
        (k, { y with bundles := y.bundles.map fun ⟨b, z⟩ => (b, f ⟨c, k, b⟩ z) }) }) }

/-- House cores are numbered from 768 (DESIGN CHOICE, assumption 12). -/
def isHouse (core : Nat) : Bool := decide (768 ≤ core)
/-- The compute die of a core (R20); the hub die counts as die 4. -/
def dieOf (core : Nat) : Nat :=
  if 768 ≤ core then 4 else 2 * (if 12 ≤ core / 32 then 1 else 0) + (if 16 ≤ core % 32 then 1 else 0)

def State.houseOf (s : State) (core : Nat) : House := findD s.house (core - 768) default
def State.setHouse (s : State) (core : Nat) (h : House) : State := { s with house := put s.house (core - 768) h }

/-- The reset value of a module supervisor register (Table 24-1); CAPBASE's is the model's (DESIGN CHOICE, assumption 15). -/
def supReset (n : Nat) : DWord :=
  if n = 0x121 then 10000 else if n = 0x10C then 0x000FFFFFFFFF0000 else 0
/-- A module supervisor register, by number (Table 24-1). -/
def State.supReg (s : State) (n : Nat) : DWord := findD s.sup n (supReset n)
def State.setSup (s : State) (n : Nat) (x : DWord) : State := { s with sup := setD s.sup n x (supReset n) }

/-- The account whose space a bundle's accesses use: the crew's, or the house core's ASID (R369, Table 24-1). -/
def State.asidOf (s : State) (b : BRef) : Nat :=
  if isHouse b.core then (s.houseOf b.core).asid.toNat else (s.crew b.core b.slot).acct

/-! ### Predicates and guards -/

/-- A predicate of a lane; p7 reads true (R14). -/
def Lane.pred (l : Lane) (n : Fin 8) : Bool := n == 7 || l.p.getLsbD n.val
/-- A predicate written; a write to p7 is discarded (R14). -/
def Lane.setPred (l : Lane) (n : Fin 8) (v : Bool) : Lane :=
  if n = 7 then l else { l with p := (l.p &&& ~~~(1#8 <<< n.val)) ||| (if v then 1#8 <<< n.val else 0) }
def Lane.on (l : Lane) (g : Guard) : Bool := l.pred g.pred != g.neg
/-- The lanes of the course that are predicated on (R187). -/
def State.act (s : State) (x : Args) : List Nat := s.lanes.filter fun l => (s.lane s.ref l).on x.guard

/-! ### Completion flags (R194) -/

/-- Codes 12 to 15 name no flag. -/
def Bundle.flagInc (x : Bundle) (n : Fin 16) : Bundle :=
  if n.val < 12 then { x with flags := setD x.flags n.val (findD x.flags n.val 0 + 1) 0 } else x
def Bundle.flagDec (x : Bundle) (n : Fin 16) : Bundle :=
  if n.val < 12 then { x with flags := setD x.flags n.val (findD x.flags n.val 0 - 1) 0 } else x
def Bundle.flag (x : Bundle) (n : Nat) : Nat := findD x.flags n 0
def State.flagDec (s : State) (b : BRef) (n : Fin 16) : State :=
  if s.hasBundle b then s.setBundle b ((s.bundle b).flagDec n) else s

/-! ### Finishing a course -/

/-- The core cycle from which the course's lanes may issue again (R193). -/
def State.stallEnd (s : State) (x : Args) : Nat := (s.core s.cur.core).cyc + max x.sched.stall.val 1

/-- The marks of an instruction that has executed (R194). One that waited has marked both flags already; the SETW
mark stays when its results are still to come. -/
def Bundle.marks (y : Bundle) (again : Bool) (x : Args) (done : Bool) : Bundle :=
  if again then (if done then (y.flagDec x.sched.setr).flagDec x.sched.setw else y.flagDec x.sched.setr)
  else if done then y else y.flagInc x.sched.setw

/-- The end of an instruction: every lane of the course takes its next PC and its STALL, and the marks are made.
`done` says that the results are complete. -/
def State.finishTo (s : State) (x : Args) (done : Bool) (next : Nat → DWord) : State :=
  let y := (s.bundle s.ref).mapLanes s.lanes fun l z =>
    { z with pc := next l, hold := if s.cur.again then z.hold else .stall (s.stallEnd x) }
  s.setBundle s.ref (y.marks s.cur.again x done)

/-- The end of an instruction that goes on at the next word. -/
def State.finish (s : State) (x : Args) (done : Bool) : State := s.finishTo x done fun _ => s.cur.pc + 16

/-! ### Waiting (R44) -/

/-- The course waits as a whole, having committed nothing; `ws` gives the lanes that wait for something. -/
def State.parkAgain (s : State) (x : Args) (ws : List (Nat × Why)) : State :=
  let y := s.bundle s.ref
  let all := s.lanes.map fun l => (l, ((ws.find? fun w => w.1 = l).map (·.2)).getD .course)
  let y := y.mapLanes s.lanes fun _ z => { z with hold := if s.cur.again then z.hold else .stall (s.stallEnd x) }
  let y := if s.cur.again then y else (y.flagInc x.sched.setr).flagInc x.sched.setw
  s.setBundle s.ref { y with parked := y.parked ++ [⟨s.cur.pc, all, x.sched.setr, x.sched.setw, true, false, false⟩] }

/-- The lanes of `ws` wait, each to go on at the next word when its wait ends; the course's other lanes go on at
once. The SETW flag stays marked until the last of them has woken. -/
def State.parkDone (s : State) (x : Args) (ws : List (Nat × Why)) : State :=
  if ws.isEmpty then s.finish x true
  else
    let s1 := s.finish x false
    let y := s1.bundle s.ref
    let y := y.mapLanes (ws.map (·.1)) fun _ z => { z with pc := s.cur.pc }
    s1.setBundle s.ref { y with parked := y.parked ++ [⟨s.cur.pc, ws, 15, x.sched.setw, false, false, false⟩] }

/-- The lanes of `ws` wait as for `parkDone`. Where their results go to a port, its entry takes the SETW mark, which clears when
the entry is performed (R194). -/
def State.parkOwed (s : State) (x : Args) (ws : List (Nat × Why)) (toPort : Bool) : State :=
  if toPort then
    let s1 := s.parkDone { x with sched := { x.sched with setw := 15 } } ws
    if s.cur.again then s1 else s1.setBundle s.ref ((s1.bundle s.ref).flagInc x.sched.setw)
  else s.parkDone x ws

/-- Whether a lane stands in a waiting state. -/
def Bundle.waiting (y : Bundle) (l : Nat) : Bool := y.parked.any fun k => k.waits.any fun w => w.1 == l

/-- The lanes of one park that `sel` chooses go on at the next word, changed by `upd`; when none is left the park
ends and its SETW mark clears. -/
def Bundle.releaseOne (y : Bundle) (k : Park) (sel : Nat → Why → Bool) (upd : Why → Lane → Lane) : Bundle × List Park :=
  let out := k.waits.filter fun w => sel w.1 w.2
  let left := k.waits.filter fun w => !sel w.1 w.2
  if k.again || out.isEmpty then (y, [k])
  else
    let y := out.foldl (fun y w => y.setLane w.1 { upd w.2 (y.lane w.1) with pc := k.pc + 16 }) y
    if left.isEmpty then (y.flagDec k.setw, []) else (y, [{ k with waits := left }])

/-- Whether the end of a wait is an ordering point at which POISON is delivered (R182, R311, R318). -/
def Why.orders (w : Why) : Bool :=
  match w with
  | .receipt _ _ _ _ | .quiet _ _ | .engine _ => true
  | _ => false

/-- Every lane of the bundle whose completing wait `sel` chooses goes on. -/
def Bundle.release (y : Bundle) (sel : Nat → Why → Bool) (upd : Why → Lane → Lane) : Bundle :=
  let y := { y with orderPt := y.orderPt || y.parked.any fun k => !k.again && k.waits.any fun w => w.2.orders && sel w.1 w.2 }
  let r := y.parked.foldl (fun (acc : Bundle × List Park) k =>
    let r := acc.1.releaseOne k sel upd
    (r.1, acc.2 ++ r.2)) (y, [])
  { r.1 with parked := r.2 }

/-- The lanes of a park. -/
def Park.mask (k : Park) : Word := maskOf (k.waits.map (·.1))

/-- The parks of a bundle whose every wait `ok` accepts leave, and their courses execute again from the start;
lanes that wait for their instruction become ready. A course that issued before its bundle was stopped by a trap completes
(R47); a crew that is stopped for a save does not issue (R377). -/
def State.resume (s : State) (b : BRef) (ok : Why → Bool) : State :=
  if s.hasBundle b then
    let y := s.bundle b
    let runs := (s.crew b.core b.slot).run == .running
    let covers (k : Park) : Bool := runs && k.again && k.waits.all fun w => w.2 == .course || ok w.2
    let s := s.setBundle b { y with parked := y.parked.filter fun k => !covers k }
    let go := y.parked.filter fun k => covers k && !k.fetch
    { s with issue := s.issue ++ go.map fun k => ⟨b.core, b.slot, b.bundle, k.mask, k.pc, 0, true⟩ }
  else s

/-! ### Physical memory and poison (R182, R252) -/

/-- The 64 B line of a physical address. -/
def lineOf (a : Nat) : Nat := a / 64

/-- Bytes written to physical addresses: a write of all 64 bytes of a poisoned line clears its poison (R252), and ends
a refetch that the firmware makes (R379). `before` are bytes that the same instruction or command has written already. -/
def State.storeOver (s : State) (before : List Nat) (w : List (Nat × Byte)) : State :=
  let whole (p : Nat) : Bool := (List.range 64).all fun i => before.contains (64 * p + i) || w.any fun e => e.1 == 64 * p + i
  let covers (p : Nat) : Bool := w.any (fun e => lineOf e.1 == p) && whole p
  { s with mem := s.mem.scatter w,
           poison := s.poison.filter fun p => !covers p,
           refetch := s.refetch.filter fun p => !covers p }
def State.storeBytes (s : State) (w : List (Nat × Byte)) : State := s.storeOver [] w

/-- Locations of which no earlier value can be read any more. -/
def State.forget (s : State) (cs : List Nat) : State := { s with vers := cs.foldl cut s.vers }

/-- Bytes written at once for every agent: by the device, the boot ROM and the host (DESIGN CHOICE, assumption 49). -/
def State.storePhys (s : State) (w : List (Nat × Byte)) : State := (s.storeBytes w).forget (w.map (·.1))

/-- Consecutive bytes written at a physical address. -/
def State.storePhysL (s : State) (a : Nat) (bs : List Byte) : State :=
  s.storePhys (bs.zipIdx.map fun e => (a + e.2, e.1))

/-! ### Scratchpad lines and receipt words (R86-R90) -/

def Crew.line (k : Crew) (n : Nat) : LineSt := findD k.lineSt n .full
/-- Whether a crew stands in a slot of a core. -/
def State.hasCrew (s : State) (c k : Nat) : Bool := (find (s.core c).crews k).isSome
/-- The state of a line; lines outside every allocation are empty (R53, R86). -/
def State.line (s : State) (c k n : Nat) : LineSt := if s.hasCrew c k then (s.crew c k).line n else .empty
def State.setLine (s : State) (c k n : Nat) (st : LineSt) : State :=
  if s.hasCrew c k then s.setCrew c k { s.crew c k with lineSt := setD (s.crew c k).lineSt n st .full } else s

/-- The lines that `n` bytes from `off` touch. -/
def linesTouched (off n : Nat) : List Nat :=
  if n = 0 then [] else (List.range ((off + n - 1) / 128 - off / 128 + 1)).map (· + off / 128)

/-- Whether a wait for lines has ended: every line full, or one poisoned (R86). -/
def State.linesReady (s : State) (w : Why) : Bool :=
  match w with
  | .line ls => ls.any (fun t => s.line t.1 t.2.1 t.2.2 == .poisoned) ||
      ls.all (fun t => s.line t.1 t.2.1 t.2.2 == .full)
  | _ => false

/-- Fields of a receipt word (Table 04-5). -/
def rwArrived (w : Nat) : Nat := bits w 63 40
def rwExpected (w : Nat) : Nat := bits w 39 16
def rwGen (w : Nat) : Nat := bits w 15 0
def rwMake (a e g : Nat) : Nat := a * 2 ^ 40 + e * 2 ^ 16 + g

/-- The match check after an update (R88). -/
def rwMatch (w : Nat) : Nat :=
  if rwExpected w ≠ 0 ∧ rwArrived w = rwExpected w then rwMake 0 0 ((rwGen w + 1) % 2 ^ 16) else w

def State.scr (s : State) (c k : Nat) : Mem := (s.crew c k).scratch
def State.setScr (s : State) (c k : Nat) (m : Mem) : State :=
  if s.hasCrew c k then s.setCrew c k { s.crew c k with scratch := m } else s
def State.rw (s : State) (c k off : Nat) : Nat := (s.scr c k).readNat off 8

/-- What the updates of a receipt word have ordered is what a `WAITR` acquires from now on (R90). -/
def Crew.rwMatched (k : Crew) (off : Nat) : Crew :=
  match find k.rwView off with
  | some (p, v) => { k with rwView := put k.rwView off ([], v.join p) }
  | none => k

/-- Something that updates of a receipt word order (R90), kept until the word matches. -/
def State.rwAdd (s : State) (c k off : Nat) (v : View) : State :=
  if v.isEmpty || !s.hasCrew c k then s
  else
    let y := s.crew c k
    let e := findD y.rwView off ([], [])
    s.setCrew c k { y with rwView := put y.rwView off (e.1.join v, e.2) }

/-- A receipt word takes a new value; when its GEN has changed, the lanes waiting for that go on, and acquire what its updates
have ordered (R90). -/
def State.rwSet (s : State) (c k off w : Nat) : State :=
  let s1 := s.setScr c k ((s.scr c k).writeNat off 8 w)
  if rwGen w = rwGen (s.rw c k off) then s1
  else
    let s2 := if s1.hasCrew c k then s1.setCrew c k ((s1.crew c k).rwMatched off) else s1
    let v := (findD (s2.crew c k).rwView off ([], [])).2
    s2.mapBundles fun _ y => y.release
      (fun _ why => match why with
        | .receipt c' k' o g => c' == c && k' == k && o == off && g.toNat != rwGen w
        | _ => false)
      (fun _ z => { z with mind := z.mind.learn s2.opSeq v })

/-- An asynchronous condition reaches a crew, behind those that are already pending (R51). -/
def State.async (s : State) (c k : Nat) (i : TrapInfo) : State :=
  if s.hasCrew c k then
    s.setCrew c k { s.crew c k with async := (s.crew c k).async ++ [{ i with i1 := i.i1 ||| 0x80000000 }] }
  else s

/-- The largest count of a receipt word. -/
def rwMax : Nat := 2 ^ 24 - 1

/-- An arrival of `n` (R88): past the limit it is discarded and the owning crew has an asynchronous ARRIVOVF. -/
def State.arrive (s : State) (c k off n : Nat) : State :=
  let w := s.rw c k off
  if n = 0 then s
  else if rwMax < rwArrived w + n then s.async c k ⟨0x0A, BitVec.ofNat 32 off, 0, 0, 0⟩
  else s.rwSet c k off (rwMatch (rwMake (rwArrived w + n) (rwExpected w) (rwGen w)))

/-- `n` bytes are written into scratchpad from `off`; each receipt word they touch takes one update (R88). -/
def State.storeScr (s : State) (c k off : Nat) (bs : List Byte) : State :=
  if bs.isEmpty then s
  else
    let words := (List.range ((off + bs.length - 1) / 8 - off / 8 + 1)).map fun i => (off / 8 + i) * 8
    let old := words.map fun a => (a, s.rw c k a)
    let s1 := s.setScr c k ((s.scr c k).writeL off bs)
    old.foldl (fun s e =>
      let now := s.rw c k e.1
      let s2 := s.setScr c k ((s.scr c k).writeNat e.1 8 e.2)
      s2.rwSet c k e.1 (rwMatch now)) s1

/-! ### Telemetry (R389) -/

/-- A counter of Table 25-1, by its place in the table, rises; it saturates. -/
def State.count (s : State) (i n : Nat) : State :=
  { s with telemetry := setD s.telemetry i (min (findD s.telemetry i 0 + n) (2 ^ 64 - 1)) 0 }

/-! ### Rings (R372, R374, R380) -/

/-- The poster's arrival at a notification word (R372): EN, house core and offset of FQNOTE, TQNOTE or RQNOTE. -/
def State.notify (s : State) (reg : Nat) : State :=
  let n := (s.supReg reg).toNat
  if n.testBit 31 then s.arrive (768 + bits n 21 18) 0 (bits n 17 0) 1 else s

/-- The number that a trap record spells (Table 24-5). -/
def TrapMsg.number (m : TrapMsg) (seq : Nat) : Nat :=
  m.pc.toNat * 2 ^ 448 + m.info.i3.toNat * 2 ^ 416 + m.info.i2.toNat * 2 ^ 384 + m.info.i1.toNat * 2 ^ 352 +
    m.info.i0.toNat * 2 ^ 320 + m.lanes.toNat * 2 ^ 288 + m.asid % 2 ^ 16 * 2 ^ 272 + m.core % 1024 * 2 ^ 262 +
    m.slot % 64 * 2 ^ 256 + m.bundle % 32 * 2 ^ 251 + m.info.cause % 256 * 2 ^ 240 + m.lseq % 2 ^ 64 * 2 ^ 64 +
    seq % 2 ^ 64

/-- Whether a ring of 4,096 entries has room: entries posted, and the register that counts those consumed. -/
def State.ringRoom (s : State) (posted consReg : Nat) : Bool :=
  decide ((posted + 2 ^ 32 - (s.supReg consReg).toNat % 2 ^ 32) % 2 ^ 32 < 4096)

/-- A trap record is posted while the ring has room, and waits for it otherwise (R374). -/
def State.postTrap (s : State) (m : TrapMsg) : State :=
  if s.trapWait.isEmpty && s.ringRoom s.tqSeq 0x116 then
    let s1 := s.storePhysL ((s.supReg 0x115).toNat + 64 * (s.tqSeq % 4096)) (leBytes (m.number (s.tqSeq + 1)) 64)
    { s1 with tqSeq := s.tqSeq + 1 }.notify 0x117
  else { s with trapWait := s.trapWait ++ [m] }

/-- Records that waited are posted as far as the ring has room. -/
def State.drainTraps (s : State) : Nat → State
  | 0 => s
  | n + 1 =>
    match s.trapWait with
    | [] => s
    | m :: r =>
      if s.ringRoom s.tqSeq 0x116 then State.drainTraps { { s with trapWait := [] }.postTrap m with trapWait := r } n
      else s

/-- A record of an event with no core (R374). -/
def coreless (i : TrapInfo) : TrapMsg := ⟨0, i, 0, 0, 1023, 0, 0, 0⟩

/-! ### Traps -/

def trapOf (cause : Nat) (i0 : Word) : TrapInfo := ⟨cause, i0, 0, 0, 0⟩

/-- R368: a trap on a house core. -/
def State.houseTrap (s : State) (pc : DWord) (i : TrapInfo) : State :=
  let h := s.houseOf s.cur.core
  if h.inh then
    { s.setHouse s.cur.core { h with halted := true } with
      bootHalt := s.bootHalt ||| (1#16 <<< (s.cur.core - 768)) }
  else
    let s1 := s.setHouse s.cur.core
      { h with tcause := BitVec.ofNat 32 i.cause, tpc := pc, tinfo0 := i.i0, tinfo1 := i.i1, tinfo2 := i.i2,
               tinfo3 := i.i3, inh := true }
    s1.mapLanes s.ref s.lanes fun _ z => { z with pc := h.tvec }

/-- Taking a trap (R47, R52, R368): nothing of the instruction is committed and its marks are withdrawn. A bundle of
a compute core stops, and its record goes to the trap ring; a house core goes on at its handler or halts. In a bundle that is
stopped already, a course that issued earlier takes its trap once that stop is over. -/
def State.takeTrap (s : State) (x : Args) (lanes : Word) (i : TrapInfo) : State :=
  if (s.bundle s.ref).stopped.isSome then s.parkAgain x [] else
  let s := if s.cur.again then s.setBundle s.ref (((s.bundle s.ref).flagDec x.sched.setr).flagDec x.sched.setw) else s
  if isHouse s.cur.core then s.houseTrap s.cur.pc i
  else
    let y := s.bundle s.ref
    let s1 := s.setBundle s.ref { y with stopped := some ⟨s.cur.pc, lanes, s.cur.mask, i⟩ }
    s1.postTrap ⟨s.cur.pc, i, lanes, s.curCrew.acct, s.cur.core, s.cur.slot, s.cur.bundle, s.curCrew.lseq⟩

/-- Why an instruction does not execute now: a trap, with the lanes that raise it; or a wait of the whole course; or a
translation fault, with the lanes whose accesses it keeps from being made. -/
inductive Stop
  | trap (lanes : Word) (i : TrapInfo)
  | wait (ws : List (Nat × Why))
  | fault (f : FaultEnt) (ls : List Nat)
  /-- an element of a port that can never be reached (R147) -/
  | portFault (port lane elem : Nat) (write : Bool) (ls : List Nat)
deriving DecidableEq, Repr

/-- The stop of something that a course does as a whole: every lane of it raises it. -/
def Stop.whole (ls : List Nat) (e : Stop) : Stop :=
  match e with
  | .trap _ i => .trap (maskOf ls) i
  | .wait ws => .wait ws
  | .fault f _ => .fault f ls
  | .portFault n l i w _ => .portFault n l i w ls

/-- The rank of a trap's cause (Table 02-5). -/
def trapRank (cause : Nat) : Nat :=
  if cause = 1 then 1 else if cause = 2 then 2 else if cause = 3 then 3 else if cause = 7 ∨ cause = 0x0E then 4
  else if cause = 4 then 5 else if cause = 5 ∨ cause = 8 ∨ cause = 9 then 6 else if cause = 6 then 7
  else if cause = 0x0F ∨ cause = 0x10 ∨ cause = 0x11 then 9 else 8

/-- Traps of two lanes or groups of lanes, the lower first: the cause of highest priority, with the first report of it and
the lanes that raise it (R49). -/
def joinTraps (m : Word) (i : TrapInfo) (n : Word) (j : TrapInfo) : Stop :=
  if trapRank j.cause < trapRank i.cause then .trap n j
  else if i.cause = j.cause then .trap (m ||| n) i else .trap m i

/-- What stops an instruction when two of its lanes cannot do their part: a fault before what its translation shows, then a
trap, then a wait (R49, R95). -/
def Stop.join (a b : Stop) : Stop :=
  match a, b with
  | .fault f ls, .fault _ ms => .fault f (ls ++ ms)
  | .fault f ls, _ | _, .fault f ls => .fault f ls
  | .trap m i, .trap n j => joinTraps m i n j
  | .trap m i, _ | _, .trap m i => .trap m i
  | .portFault n l i w ls, .portFault _ _ _ _ ms => .portFault n l i w (ls ++ ms)
  | .portFault n l i w ls, _ | _, .portFault n l i w ls => .portFault n l i w ls
  | .wait ws, .wait vs => .wait (ws ++ vs)

/-- A check or a computation that may stop the instruction. -/
abbrev Res (α : Type) := Except Stop α

/-- What every lane computes, or what stops the instruction. -/
def gather : List (Res α) → Res (List α)
  | [] => .ok []
  | r :: rs =>
    match r, gather rs with
    | .ok a, .ok l => .ok (a :: l)
    | .ok _, .error e | .error e, .ok _ => .error e
    | .error e, .error g => .error (e.join g)

/-- Checks made in order, the first that fails stopping the instruction. -/
def firstOf : List (Res Unit) → Res Unit
  | [] => .ok ()
  | .error e :: _ => .error e
  | .ok _ :: r => firstOf r

/-- A check that a course makes once for all its lanes. -/
def forAll (ls : List Nat) (r : Res α) : Res α := r.mapError (·.whole ls)

/-- The trap of a lane (R49: the lanes that raise it, lowest first). -/
def trapLanes (ls : List Nat) (cause : Nat) (i0 : Word) : Stop := .trap (maskOf ls) (trapOf cause i0)

/-- The lowest free entry of a fault buffer of 64. -/
def freeEntry (m : SMap FaultEnt) : Option Nat := (List.range 64).find? fun i => (find m i).isNone

/-- R370: a translation fault drops the page's translation from the core's L1 TLB and from its die's L2 TLB. -/
def tlbHits (asid va : Nat) (e : Tlb) : Bool :=
  e.asid == asid && decide (e.va ≤ va) && decide (va < e.va + (if e.large then 2 ^ 26 else 2 ^ 16))
def State.dropPage (s : State) (core asid va : Nat) : State :=
  let k := s.core core
  let s1 := s.setCore core { k with tlb := k.tlb.filter fun e => !tlbHits asid va e }
  { s1 with l2 := put s1.l2 (dieOf core) ((findD s1.l2 (dieOf core) []).filter fun e => !tlbHits asid va e) }

/-- R95: the faulting course parks, with a fault buffer entry while one is free; `ls` are the lanes that fault. -/
def State.parkFault (s : State) (x : Args) (f : FaultEnt) (ls : List Nat) : State :=
  let s := s.dropPage s.cur.core f.asid f.va.toNat
  let k := s.core s.cur.core
  match freeEntry k.fbuf with
  | some i => (s.setCore s.cur.core { k with fbuf := put k.fbuf i f }).parkAgain x ((f.lane :: ls).map fun l => (l, .fault (some i)))
  | none => s.parkAgain x ((f.lane :: ls).map fun l => (l, .fault none))

end Sys2Proof.Machine
end

