-- ==== Sys2Proof/Machine/Flags.lean ====
section
/-!
DEFINITION. The floating-point flags in FSTAT and the rounding mode in force (R58, R59, R64).
-/

namespace Sys2Proof.Machine

/-- FMODE's code (Table 01-3). -/
def modeOfCode (c : BitVec 2) : RMode :=
  if c = 0 then .rn else if c = 1 then .rz else if c = 2 then .rd else .ru

/-- R58: the rounding suffix, or FMODE without one. -/
def rmodeOf (y : Bundle) (r : Rm) : RMode :=
  match r with
  | .fmode => modeOfCode y.fmode
  | .rn => .rn
  | .rz => .rz
  | .rd => .rd
  | .ru => .ru

def State.rmode (s : State) (r : Rm) : RMode := rmodeOf (s.bundle s.ref) r

/-- R64: the flags a course raised are ORed into FSTAT. -/
def State.raise (s : State) (f : FFlags) : State :=
  let y := s.bundle s.ref
  let now := (s.core s.cur.core).cyc
  s.setBundle s.ref { y with
    fstat := y.fstat ||| f, raised := (now, if y.raised.1 = now then y.raised.2 ||| f else f) }

end Sys2Proof.Machine
end

