-- ==== Sys2Proof/Machine/Trans.lean ====
section
/-!
DEFINITION. Addresses: page tables and TLBs (R369, R370, R372), the bytes of near, far and compressed pages (R94, R181),
and scratchpad-space addresses (R83, R84).
-/

namespace Sys2Proof.Machine

/-- A bit of FUNCMODE: 1 selects host-assisted mode (Table 23-13). -/
def State.funcBit (s : State) (n : Nat) : Bool := (s.supReg 0x10B).getLsbD n

/-! ### Compressed far pages (R181) -/

/-- Byte offset of the frame of a 16 KiB page, the `u`-th of its leaf (DESIGN CHOICE, assumption 15). -/
def frameBytes : Nat := 16768

/-- CRC-16 with polynomial 0x1021, one byte at a time from the high bit. -/
def crcBit (c : BitVec 16) : BitVec 16 := if c.getLsbD 15 then (c <<< 1) ^^^ 0x1021#16 else c <<< 1
def crcByte (c : BitVec 16) (b : Byte) : BitVec 16 :=
  crcBit (crcBit (crcBit (crcBit (crcBit (crcBit (crcBit (crcBit (c ^^^ (b.setWidth 16 <<< 8)))))))))
def crc16 (bs : List Byte) : BitVec 16 := bs.foldl crcByte 0xFFFF

/-- The stored bytes of a shingle after its header, by KIND and LEN. -/
def shingleBody (m : Mem) (at_ : Nat) : List Byte := m.readN (at_ + 4) (bits (m.readNat at_ 4) 29 16 - 4)

/-- Byte `k` of the 256 that an exponent-delta shingle stands for; the mantissa width tells FP16 from BF16. -/
def deltaByte (body : List Byte) (mb eb : Nat) (k : Nat) : Byte :=
  let x := leNat body
  let e := k / 2
  let d := sext 4 (bits x (8 + 4 * e + 3) (8 + 4 * e))
  let rest := x / 2 ^ (8 + 512) / 2 ^ ((mb + 1) * e) % 2 ^ (mb + 1)
  let ex := (((x % 256 : Nat) : Int) + d) % (2 ^ eb : Nat)
  let v := rest / 2 ^ mb * 2 ^ (eb + mb) + ex.toNat * 2 ^ mb + rest % 2 ^ mb
  BitVec.ofNat 8 (v / 2 ^ (8 * (k % 2)))

/-- The 256 bytes that the `i`-th shingle of a compressed frame stands for; `none` where it fails its check (R181). -/
def shingleBytes (m : Mem) (frame i : Nat) : Option (Nat → Byte) :=
  let at_ := frame + m.readNat (frame + 2 * i) 2
  let h := m.readNat at_ 4
  let body := shingleBody m at_
  if (crc16 body).toNat ≠ bits h 15 0 then none
  else if bits h 31 30 = 0 then some fun k => body.getD k 0
  else if bits h 31 30 = 1 then some (if bits h 29 16 = 245 then deltaByte body 10 5 else deltaByte body 7 8)
  else none

/-- Byte `off` of a page held in a compressed frame. -/
def farByte (m : Mem) (frame off : Nat) : Option Byte := (shingleBytes m frame (off / 256)).map fun f => f (off % 256)

/-- Byte cells: a number below 2^53 is a physical address; above, it is 2^53 plus the place of a byte in a
compressed leaf: 2^16 times the physical leaf address, plus the byte's offset in the leaf. -/
def packedCell (leaf off : Nat) : Nat := 2 ^ 53 + leaf * 2 ^ 26 + off
def cellFrame (c : Nat) : Nat := (c - 2 ^ 53) / 2 ^ 26 + (c - 2 ^ 53) % 2 ^ 26 / 16384 * frameBytes
def cellOff (c : Nat) : Nat := (c - 2 ^ 53) % 2 ^ 26 % 16384

/-! ### The status page (R345-R351, R389) -/

/-- FREE of a window, and its GO bit (Table 23-6). -/
def Window.free (w : Window) : Nat := 16 - w.queue.length
def Window.statusWord (w : Window) : Nat :=
  w.lastSeq % 2 ^ 32 * 2 ^ 32 + w.verdict % 256 * 2 ^ 24 + w.drops % 256 * 2 ^ 16 + w.free * 2 ^ 8 +
    (if w.isOpen && decide (0 < w.free) then 1 else 0)

/-- The boot status word (Table 23-15). -/
def State.bootStatus (s : State) : Nat :=
  s.bootHalt.toNat * 2 ^ 48 + s.boot.phase * 2 ^ 40 + min s.boot.rounds 255 * 2 ^ 32 + s.boot.failPort * 2 ^ 16 +
    s.boot.failStep * 2 ^ 8

/-- The capability records (Table 23-5): identifier and DATA; the host port is present, and each far port that was
trained has 1 TiB behind it (DESIGN CHOICE, assumption 15). -/
def State.caps (s : State) : List (Nat × Nat) :=
  [(1, 7), (2, 0), (3, 0x100000 * 2 ^ 32 + 0x100000), (4, (8 - s.untrained.length) * 1024 * 2 ^ 8 + (8 - s.untrained.length)), (5, 4096),
   (6, 65536 * 2 ^ 32 + 4096 * 2 ^ 16 + 1024), (7, 0x7F), (8, 1), (9, 64 * 2 ^ 32 + 1024000)]
def capBytes (c : Nat × Nat) (next : Nat) : List Byte :=
  leBytes (c.2 * 2 ^ 64 + next * 2 ^ 32 + 1 * 2 ^ 16 + c.1) 16

/-- A byte of the status page (R349). -/
def State.statusByte (s : State) (off : Nat) : Byte :=
  if off < 0x800 then (leBytes (findD s.windows (off / 8) default).statusWord 8).getD (off % 8) 0
  else if off < 0x808 then (leBytes s.bootStatus 8).getD (off - 0x800) 0
  else if off < 0x1000 then 0
  else if off < 0x2000 then
    (((s.caps.zipIdx).flatMap fun e => capBytes e.1 (if e.2 = 8 then 0 else 0x1010 + 16 * e.2)).getD (off - 0x1000) 0)
  else if off < 0x2008 then (leBytes s.mcmd.toNat 8).getD (off - 0x2000) 0
  else if off < 0x2010 then (leBytes s.mstatus.toNat 8).getD (off - 0x2008) 0
  else if off < 0x2018 then (leBytes s.respAddr.toNat 8).getD (off - 0x2010) 0
  else if off < 0x2040 then 0
  else if off < 0x20C0 then s.mdata.read (off - 0x2040)
  else if off < 0x3000 then 0
  else if off < 0x3058 then (leBytes (findD s.telemetry ((off - 0x3000) / 8) 0) 8).getD (off % 8) 0
  else 0

/-- A byte of physical memory; the status page stands at CAPBASE (R345, Table 24-1). -/
def State.physByte (s : State) (a : Nat) : Byte :=
  let base := (s.supReg 0x10C).toNat
  if base ≤ a ∧ a < base + 0x10000 then s.statusByte (a - base) else s.mem.read a

/-- The byte a cell holds; a byte carried as poison reads as zero (R252). -/
def State.cell (s : State) (c : Nat) : Byte :=
  if c < 2 ^ 53 then s.physByte c else (farByte s.mem (cellFrame c) (cellOff c)).getD 0

/-- The 64 B lines that `n` bytes from a physical address touch. -/
def linesOf (a n : Nat) : List Nat := (List.range ((a + max n 1 - 1) / 64 - a / 64 + 1)).map (· + a / 64)
/-- The lines of the shingle that holds a byte of a frame, and the line of its entry in the directory (R181). -/
def shingleLines (m : Mem) (frame off : Nat) : List Nat :=
  let at_ := frame + m.readNat (frame + 2 * (off / 256)) 2
  linesOf at_ (min (bits (m.readNat at_ 4) 29 16) 260) ++ [lineOf (frame + 2 * (off / 256))]

/-- The 64 B lines of physical memory that a cell is read from: of a compressed page, those of its shingle (R181). -/
def State.cellLines (s : State) (c : Nat) : List Nat :=
  if c < 2 ^ 53 then [lineOf c] else shingleLines s.mem (cellFrame c) (cellOff c)

/-- Whether a cell's 64 B line is carried as poison (R181, R182). -/
def State.cellPoison (s : State) (c : Nat) : Bool :=
  if c < 2 ^ 53 then s.poison.contains (lineOf c)
  else (farByte s.mem (cellFrame c) (cellOff c)).isNone || (s.cellLines c).any s.poison.contains

/-- The line of a cell whose page is being refetched (R379), or whose shingle fails its check in an error that the device has
still to handle (R181; DEDUCED, assumption 66). -/
def State.refetching (s : State) (c : Nat) : Option Nat :=
  match if s.refetch.isEmpty then none else (s.cellLines c).find? s.refetch.contains with
  | some l => some l
  | none =>
    if c < 2 ^ 53 then none
    else if (farByte s.mem (cellFrame c) (cellOff c)).isNone && !(s.cellLines c).any s.poison.contains then (s.cellLines c).head?
    else none

/-- Bytes read, with zero for those of poisoned lines. -/
def State.cells (s : State) (cs : List Nat) : List Byte := cs.map fun c => if s.cellPoison c then 0 else s.cell c

/-! ### Page tables (R369) -/

/-- A leaf entry's translation. -/
def leafOf (asid va level e : Nat) : Tlb :=
  { asid := asid, va := if level = 1 then va / 2 ^ 26 * 2 ^ 26 else va / 2 ^ 16 * 2 ^ 16, large := level == 1,
    pa := bits e 51 14 * 2 ^ 14,
    ord := if bits e 5 4 = 0 then .so else if bits e 5 4 = 1 then .rc else .un,
    user := e.testBit 3, writable := e.testBit 2, far := e.testBit 6, cmp := e.testBit 7, acct := bits e 127 96,
    origin := if e.testBit 55 then some (bits e 95 56 * 2 ^ 12) else none }

/-- Whether an entry of a level is malformed (R369). -/
def entryBad (level e : Nat) : Bool :=
  bits e 54 52 != 0 || bits e 13 8 != 0 || bits e 1 0 == 3 || bits e 5 4 == 3 ||
    (bits e 1 0 == 2 && decide (2 ≤ level)) || (bits e 1 0 == 1 && level == 0) ||
    (bits e 1 0 == 2 && level == 0 && bits e 15 14 != 0) ||
    (bits e 1 0 == 2 && level == 1 && bits e 25 14 != 0)

/-- What a walk finds: a leaf, or the REASON of Table 24-4. -/
inductive Walk
  | leaf (t : Tlb)
  | fault (reason : Nat)
deriving DecidableEq, Repr

/-- The walk from a node of a level down (R369, R370). -/
def walkFrom (m : Mem) (asid va : Nat) (node : Nat) : Nat → Walk
  | 0 =>
    let e := m.readNat (node + 16 * bits va 25 16) 16
    if bits e 1 0 = 0 then .fault 0
    else if entryBad 0 e then .fault 2 else .leaf (leafOf asid va 0 e)
  | n + 1 =>
    let e := m.readNat (node + 16 * bits va (26 + 10 * n + 9) (26 + 10 * n)) 16
    if bits e 1 0 = 0 then .fault 0
    else if entryBad (n + 1) e then .fault 2
    else if bits e 1 0 = 2 then .leaf (leafOf asid va (n + 1) e)
    else walkFrom m asid va (bits e 51 14 * 2 ^ 14) n

/-- An account's level-3 node (Table 24-3). -/
def State.acctRoot (s : State) (acct : Nat) : Nat := s.mem.readNat ((s.supReg 0x10A).toNat + 64 * acct + 56) 8

/-- Whether an address of a far page lies behind a port that has failed (R366). -/
def State.portDown (s : State) (t : Tlb) (va : Nat) : Bool :=
  t.far && s.cxlDown.contains (Config.farPort ((t.pa + (va - t.va)) / 2 ^ 14)).val

/-- A walk from a root; pages behind a failed port are not present (R366). -/
def State.walkRoot (s : State) (asid va root : Nat) : Walk :=
  if root = 0 then .fault 0
  else
    match walkFrom s.mem asid va root 3 with
    | .leaf t => if s.portDown t va then .fault 0 else .leaf t
    | w => w

/-- The walk for a core: a house core's own root is PTBASE (Table 24-1). -/
def State.walk (s : State) (core asid va : Nat) : Walk :=
  s.walkRoot asid va (if isHouse core then (s.houseOf core).ptbase.toNat else s.acctRoot asid)

/-- The cached translation of an address: the core's L1 TLB, then its die's L2 TLB (R370). -/
def State.tlbFind (s : State) (core asid va : Nat) : Option Tlb :=
  ((s.core core).tlb ++ findD s.l2 (dieOf core) []).find? fun t => tlbHits asid va t && !s.portDown t va

/-- A translation enters the core's L1 TLB of 128 entries. -/
def State.fillL1 (s : State) (core : Nat) (t : Tlb) : State :=
  let k := s.core core
  if k.tlb.contains t then s else s.setCore core { k with tlb := (t :: k.tlb).take 128 }
/-- A translation enters a die's L2 TLB of 2,048 sets of 8 ways, and the oldest of a full set leaves it (R370; DESIGN CHOICE,
assumption 15). -/
def State.fillL2 (s : State) (die : Nat) (t : Tlb) : State :=
  let l := findD s.l2 die []
  let set_ (e : Tlb) : Fin 2048 := Config.l2Set e.asid e.va e.large
  let mine := l.filter fun e => set_ e == set_ t
  if l.contains t then s
  else { s with l2 := put s.l2 die (t :: if mine.length < 8 then l else l.erase (mine.getLastD t)) }

/-- Whether a translation allows an access (R95). -/
def Tlb.allows (t : Tlb) (sup : Bool) (acc : Acc) : Bool :=
  (sup || t.user) && (acc == .read || acc == .fetch || t.writable)

/-- Physical addressing (PTBASE 0): one translation for everything, strongly ordered (DESIGN CHOICE, assumption 15). -/
def physTlb (asid : Nat) : Tlb :=
  { asid := asid, va := 0, large := true, pa := 0, ord := .so, user := false, writable := true, far := false,
    cmp := false, acct := 0, origin := none }

/-- Whether the core's accesses are physical. -/
def State.physical (s : State) (core : Nat) : Bool := isHouse core && (s.houseOf core).ptbase == 0

/-- The cell of an address under a translation. -/
def Tlb.cellOf (t : Tlb) (va : Nat) : Nat := if t.cmp && t.far then packedCell t.pa (va - t.va) else t.pa + (va - t.va)

/-- Translated bytes, with the translations used and the first byte's address. -/
structure Xl where
  cells : List Nat
  es : List Tlb
  va : Nat
deriving DecidableEq, Repr

/-- The physical ranges of the UN pages among some translations (R104). -/
def unRanges (es : List Tlb) : List (Nat × Nat) :=
  (es.filter fun t => t.ord == .un).map fun t => (t.pa, if t.large then 2 ^ 26 else 2 ^ 16)
/-- Translated bytes as a place that can be written. -/
def Xl.place (x : Xl) : Place := .phys x.cells x.va (unRanges x.es) (x.es.any Tlb.far)

/-- A translation fault of one lane, before it has a fault buffer entry. -/
def State.faultOf (s : State) (b : BRef) (lane : Nat) (va : Nat) (acc : Acc) : FaultEnt :=
  let asid := s.asidOf b
  let miss := (s.tlbFind b.core asid va).isNone
  { ref := b, lane := lane, va := BitVec.ofNat 64 va, acc := acc, src := 0,
    reason := if miss then (if s.funcBit 0 then 3 else 0) else 1, pv := false, port := 0, elem := 0, asid := asid,
    walking := miss && !s.funcBit 0, posted := false }

/-! ### The cache page window (R153, R154, Table 09-4) -/

/-- The live cache page whose window address this is. -/
def State.pageAt (s : State) (va : Nat) : Option (Nat × Page) :=
  let w := (s.supReg 0x10D).toNat
  if va < w then none else (find s.pages ((va - w) / 0x4000)).map fun p => ((va - w) / 0x4000, p)

/-- Whether an address has been made read-only by `SEGSEAL` (R154). -/
def State.readOnly (s : State) (acct va : Nat) : Bool :=
  s.roVa.contains (acct, va / 2 ^ 16) || (match s.pageAt va with
    | some p => p.2.ro
    | none => false)

/-- The charge counts of an account (Table 24-3): NEARC at bit 352, FARC at bit 320. -/
def acctField (s : State) (acct bit : Nat) : Nat := s.mem.readNat ((s.supReg 0x10A).toNat + 64 * acct + bit / 8) 4
def setAcctField (s : State) (acct bit v : Nat) : State :=
  { s with mem := s.mem.writeNat ((s.supReg 0x10A).toNat + 64 * acct + bit / 8) 4 v }
/-- A charge of one tier falls by `n`. -/
def State.credit (s : State) (acct : Nat) (near : Bool) (n : Nat) : State :=
  let bit := if near then 352 else 320
  setAcctField s acct bit (acctField s acct bit - n)
/-- A charge of `n` pages; none when it would pass the quota (R176, R387). -/
def State.charge (s : State) (acct : Nat) (near : Bool) (n : Nat) : Option State :=
  let bit := if near then 352 else 320
  let quota := acctField s acct (if near then 416 else 384)
  if quota < acctField s acct bit + n then none else some (setAcctField s acct bit (acctField s acct bit + n))

/-- Table 09-4 on a write: a page in BOTH or DEMOTING becomes NEAR and its far copy is freed and credited. -/
def State.wrotePage (s : State) (va : Nat) : State :=
  match s.pageAt va with
  | some (n, p) =>
    if p.tier = .both ∨ p.tier = .demoting then
      { s with pages := put s.pages n { p with tier := .near, farF := none } }.credit p.acct false 1
    else s
  | none => s
/-- Whether a write must wait for a promotion to complete. -/
def State.promoting (s : State) (va : Nat) : Bool :=
  match s.pageAt va with
  | some p => p.2.tier == .promoting
  | none => false

/-- One address in each cache page that `n` bytes touch. -/
def spanPages (a n : Nat) : List Nat := (List.range (n / 0x4000 + 2)).map fun i => min (a + 0x4000 * i) (a + max n 1 - 1)

/-- The translation of one address for a bundle. -/
def State.xlate1 (s : State) (b : BRef) (lane va : Nat) (acc : Acc) : Except FaultEnt Tlb :=
  if s.physical b.core then .ok (physTlb (s.asidOf b))
  else
    match s.tlbFind b.core (s.asidOf b) va with
    | some t =>
      if t.allows (s.crew b.core b.slot).sup acc && !((acc == .write || acc == .atomic) && s.readOnly t.asid va) then .ok t
      else .error (s.faultOf b lane va acc)
    | none => .error (s.faultOf b lane va acc)

/-- The translation of `n` bytes from an address, at most 64: one part per page (R105). The address of a fault is that of the
first byte, or of the last byte where only the second page faults (DESIGN CHOICE, assumption 50). Both are looked at for
pages that `SEGSEAL` has made read-only, which are smaller than the pages of a translation (R154). -/
def State.xlate (s : State) (b : BRef) (lane va n : Nat) (acc : Acc) : Except FaultEnt Xl :=
  match s.xlate1 b lane va acc with
  | .error f => .error f
  | .ok t =>
    if n ≤ 1 ∨ s.physical b.core then .ok ⟨(List.range n).map fun i => t.cellOf (va + i), [t], va⟩
    else if tlbHits t.asid (va + n - 1) t then
      if (acc == .write || acc == .atomic) && s.readOnly t.asid (va + n - 1) then .error (s.faultOf b lane (va + n - 1) acc)
      else .ok ⟨(List.range n).map fun i => t.cellOf (va + i), [t], va⟩
    else
      match s.xlate1 b lane (va + n - 1) acc with
      | .error f => .error f
      | .ok u => .ok ⟨(List.range n).map fun i => if tlbHits t.asid (va + i) t then t.cellOf (va + i) else u.cellOf (va + i), [t, u], va⟩

/-- R83, R95: the information words of a SEGV on a global address. -/
def accCode (acc : Acc) : Nat :=
  match acc with
  | .read => 0 | .write => 1 | .atomic => 2 | .fetch => 3
def segvInfo (va t3 : Nat) : TrapInfo := ⟨5, BitVec.ofNat 32 va, 0, BitVec.ofNat 32 (bits va 55 32), BitVec.ofNat 32 t3⟩

/-- Whether an access would touch an address outside the 56-bit space (R83). -/
def outside (va n : Nat) : Bool := decide (2 ^ 56 < va + max n 1)

/-- Whether a far page refuses the access: an atomic on any, a store on a compressed one (R94). -/
def Tlb.farRefuses (t : Tlb) (acc : Acc) : Bool := t.far && (acc == .atomic || (acc == .write && t.cmp))

/-- Whether the hardware cannot translate an address for an access: its page is not present or does not allow the access,
or software walks for the page that faults first (R95, R370). -/
def State.dead (s : State) (b : BRef) (acc : Acc) (first va : Nat) : Bool :=
  match s.xlate1 b 0 va acc with
  | .ok _ => false
  | .error f =>
    if f.walking then
      match s.walk b.core f.asid va with
      | .leaf t => !t.allows (s.crew b.core b.slot).sup acc || ((acc == .write || acc == .atomic) && s.readOnly f.asid va)
      | .fault _ => true
    else f.reason == 1 || va / 65536 == first / 65536

/-- The lanes of some accesses that the hardware cannot translate. -/
def State.deadLanes (s : State) (b : BRef) (acc : Acc) (first : Nat) (as : List (Nat × Nat × Nat)) : List Nat :=
  (as.filter fun a => s.dead b acc first a.2.1 || s.dead b acc first (a.2.1 + max a.2.2 1 - 1)).map (·.1)

/-- R251, steps 1 and 2, for the global accesses of one instruction: `as` gives each lane's address and size. A far page's
refusal is an unresolvable translation (R94, R252; for atomics DEDUCED, assumption 48). -/
def State.xlateAll (s : State) (b : BRef) (acc : Acc) (as : List (Nat × Nat × Nat)) : Res (List (Nat × Xl)) :=
  let bad := as.filter fun a => outside a.2.1 a.2.2
  match bad with
  | a :: _ => .error (.trap (maskOf (bad.map (·.1))) (segvInfo a.2.1 0))
  | [] =>
    match as.mapM fun a => (s.xlate b a.1 a.2.1 a.2.2 acc).map fun x => (a.1, a.2.1, x) with
    | .error f => .error (.fault f (s.deadLanes b acc f.va.toNat as))
    | .ok xs =>
      let far := xs.filter fun x => x.2.2.es.any fun t => t.farRefuses acc
      match far with
      | x :: _ => .error (.trap (maskOf (far.map (·.1))) (segvInfo x.2.1 (accCode acc)))
      | [] =>
        let held := as.filter fun a => (acc == .write || acc == .atomic) && !s.physical b.core &&
          (s.promoting a.2.1 || s.promoting (a.2.1 + max a.2.2 1 - 1))
        if held.isEmpty then .ok (xs.map fun x => (x.1, x.2.2))
        else .error (.wait (held.map fun a => (a.1, .fault none)))

/-- The translations an instruction used enter the core's L1 TLB. -/
def State.fillUsed (s : State) (core : Nat) (es : List Tlb) : State :=
  if s.physical core then s else es.foldl (fun s t => s.fillL1 core t) s

/-! ### Scratchpad-space addresses (R84) -/

/-- The allocation and offset that an address names, when `n` bytes from it lie inside. -/
def State.scrAddr (s : State) (b : BRef) (a : Word) (n : Nat) : Option (Nat × Nat × Nat) :=
  let off := bits a.toNat 19 0
  let own := s.crew b.core b.slot
  if bits a.toNat 31 25 ≠ 0 then none
  else if !a.getLsbD 24 then
    if bits a.toNat 23 20 ≠ 0 then none
    else if off + n ≤ own.slines * 128 ∧ off < own.slines * 128 then some (b.core, b.slot, off) else none
  else
    match own.gang with
    | none => none
    | some g =>
      match find (findD s.gangs g default).members (bits a.toNat 23 20) with
      | none => none
      | some (c, k) =>
        if off + n ≤ (s.crew c k).slines * 128 ∧ off < (s.crew c k).slines * 128 then some (c, k, off) else none

/-- A SEGV on a scratchpad address. -/
def scrSegv (a : Word) : TrapInfo := ⟨5, a, 0, 0, 0⟩

/-- The lines of an access by allocation. -/
def linesAt (t : Nat × Nat × Nat) (n : Nat) : List (Nat × Nat × Nat) :=
  (linesTouched t.2.2 n).map fun l => (t.1, t.2.1, l)

/-- The first byte of an access that lies in a poisoned line (Table 02-7). -/
def State.firstPoison (s : State) (a : Word) (t : Nat × Nat × Nat) (n : Nat) : Word :=
  let i := (List.range n).find? fun i => s.line t.1 t.2.1 ((t.2.2 + i) / 128) == .poisoned
  a + BitVec.ofNat 32 (i.getD 0)

/-- R251, steps 1 and 3, for the scratchpad accesses of one instruction: `as` gives each lane's address and size, and
`reads` says whether the access waits for an empty line (R86); the wait is for every line that the course touches. A plain
store to a poisoned line traps POISON, as R86 and R252 say of every access, where Table 04-4 lets it write (DESIGN CHOICE,
assumption 52). -/
def State.scrAll (s : State) (b : BRef) (reads : Bool) (as : List (Nat × Word × Nat)) :
    Res (List (Nat × Nat × Nat × Nat)) :=
  let bad := as.filter fun a => (s.scrAddr b a.2.1 a.2.2).isNone
  match bad with
  | a :: _ => .error (.trap (maskOf (bad.map (·.1))) (scrSegv a.2.1))
  | [] =>
    let ts := as.map fun a => (a, (s.scrAddr b a.2.1 a.2.2).getD (0, 0, 0))
    let pois := ts.filter fun e => (linesAt e.2 e.1.2.2).any fun t => s.line t.1 t.2.1 t.2.2 == .poisoned
    match pois with
    | e :: _ => .error (.trap (maskOf (pois.map (·.1.1))) (trapOf 6 (s.firstPoison e.1.2.1 e.2 e.1.2.2)))
    | [] =>
      let all := (ts.flatMap fun e => linesAt e.2 e.1.2.2).eraseDups
      let empties := ts.filter fun e => (linesAt e.2 e.1.2.2).any fun t => s.line t.1 t.2.1 t.2.2 == .empty
      if reads && !empties.isEmpty then .error (.wait (empties.map fun e => (e.1.1, .line all)))
      else .ok (ts.map fun e => (e.1.1, e.2.1, e.2.2.1, e.2.2.2))

end Sys2Proof.Machine
end

