-- ==== Sys2Proof/Machine/Ports.lean ====
section
/-!
DEFINITION. Ports: the descriptor and its pattern (R138, R140), what a pop and a push check and take (R141-R147), and
the write queue.
-/

namespace Sys2Proof.Machine

/-! ### The descriptor (Table 07-2) -/

def Port.d (q : Port) : Nat := q.desc.toNat
def descExt (d k : Nat) : Nat := bits d (32 * k + 63) (32 * k + 32)
def descStride (d k : Nat) : Int := sext 48 (bits d (48 * k + 303) (48 * k + 256))
def descBase (d : Nat) : Nat := bits d 255 192
def descTarget (d : Nat) : Nat := bits d 5 4
def descWrite (d : Nat) : Bool := d.testBit 3
def descLaned (d : Nat) : Bool := d.testBit 6
def descEsize (d : Nat) : Nat := 2 ^ bits d 9 7
def descChan (d : Nat) : Nat := bits d 11 10
/-- N, the stream length (R137). -/
def descLen (d : Nat) : Nat := descExt d 0 * descExt d 1 * descExt d 2 * descExt d 3 * descExt d 4

/-- coords(i) of R140. -/
def coords (d i : Nat) : List Nat :=
  let e0 := descExt d 0; let e1 := descExt d 1; let e2 := descExt d 2; let e3 := descExt d 3; let e4 := descExt d 4
  [i % e0, i / e0 % e1, i / e0 / e1 % e2, i / e0 / e1 / e2 % e3, i / e0 / e1 / e2 / e3 % e4]

/-- address(i) of R140. -/
def elemAddr (d i : Nat) : Nat :=
  let a : Int := (coords d i).zipIdx.foldl (fun (a : Int) c => a + (c.1 : Int) * descStride d c.2) (descBase d)
  (a % ((if descTarget d = 1 then 2 ^ 32 else 2 ^ 64) : Nat)).toNat

def Port.len (q : Port) : Nat := descLen q.d
/-- END: POS = N (Table 07-1). -/
def Port.atEnd (q : Port) : Bool := q.bound && q.pos == q.len

def Bundle.port (y : Bundle) (n : Nat) : Port := findD y.ports n default
def State.port (s : State) (b : BRef) (n : Nat) : Port := (s.bundle b).port n
def State.setPort (s : State) (b : BRef) (n : Nat) (q : Port) : State :=
  s.setBundle b { s.bundle b with ports := put (s.bundle b).ports n q }

/-- Entries of the write queue not yet performed (Table 07-7, WQ); fence markers are not entries. -/
def Port.pending (q : Port) : Nat :=
  (q.wq.filter fun e => match e with | .push _ => true | .fence _ => false).length

/-! ### Indices of one pop or push (R142) -/

/-- The element index of each lane of `act`. -/
def Port.idx (q : Port) (act : List Nat) : List (Nat × Nat) :=
  if descLaned q.d then act.map fun l => (l, q.pos + l) else act.zipIdx.map fun e => (e.1, q.pos + e.2)

/-- How far the position advances. -/
def Port.adv (q : Port) (act : List Nat) : Nat := if descLaned q.d then 32 else act.length

/-- The port after an advance of `n` elements: prefetched elements and delivered words below POS are gone. -/
def Port.advance (q : Port) (n : Nat) : Port :=
  let p := min (q.pos + n) q.len
  { q with pos := p, buf := q.buf.filter fun e => decide (p ≤ e.1), words := q.words.filter fun e => decide (p ≤ e.1) }

/-- PORTEND, with its reason (R142). -/
def portEnd (act : List Nat) (n reason : Nat) : Stop := trapLanes act 8 (BitVec.ofNat 32 (reason * 256 + n))

/-- The information words of PORTFAULT (R147). -/
def portFaultInfo (n : Nat) (write : Bool) (lane elem : Nat) : TrapInfo :=
  ⟨9, BitVec.ofNat 32 (n + (if write then 8 else 0) + lane * 16), 0, BitVec.ofNat 32 elem,
    BitVec.ofNat 32 (bits elem 47 32)⟩

/-- Whether an element's address can never be reached (R140). -/
def State.elemOutside (s : State) (b : BRef) (d i : Nat) : Bool :=
  let a := elemAddr d i
  if descTarget d = 1 then (s.scrAddr b (BitVec.ofNat 32 a) (descEsize d)).isNone else outside a (descEsize d)

/-- Whether an element's page is mapped now. -/
def State.elemMapped (s : State) (b : BRef) (lane d i : Nat) : Bool :=
  match s.xlate b lane (elemAddr d i) (descEsize d) .read with
  | .ok _ => true
  | .error _ => false

/-- What keeps the lanes of a pop or push from their elements, in lane order: the lowest lane's report, for that lane and the
others that cannot reach theirs either (R147). -/
def portStop : List (Nat × Stop) → Res Unit
  | [] => .ok ()
  | e :: r =>
    let lost := r.filterMap fun g => match g.2 with
      | .portFault _ _ _ _ _ => some g.1
      | _ => none
    match e.2 with
    | .portFault n l i w _ => .error (.portFault n l i w (l :: lost))
    | .fault f ls => .error (.fault f ((ls ++ lost).eraseDups))
    | g => .error g

/-- A pop or a peek of one port: the element each lane of `act` takes, as a number (R142, R143). -/
def State.popPort (s : State) (b : BRef) (n : Nat) (peek : Bool) (act : List Nat) :
    Res (List (Nat × Nat)) :=
  let q := s.port b n
  if act.isEmpty then .ok []
  else if !q.bound then .error (portEnd act n 1)
  else if descWrite q.d then .error (portEnd act n 2)
  else if q.atEnd then (if peek then .ok (act.map fun l => (l, 0)) else .error (portEnd act n 0))
  else
    let need := (q.idx act).filter fun e => decide (e.2 < q.len)
    if descTarget q.d = 2 then
      if need.all fun e => (find q.words e.2).isSome then
        .ok ((q.idx act).map fun e => (e.1, if e.2 < q.len then (findD q.words e.2 0).toNat else 0))
      else .error (.wait ((need.filter fun e => (find q.words e.2).isNone).map fun e => (e.1, .port)))
    else
      let far := need.filter fun e => find q.buf e.2 == some .fault && !s.elemMapped b e.1 q.d e.2
      match portStop (need.filterMap fun e =>
          if s.elemOutside b q.d e.2 then some (e.1, Stop.portFault n e.1 e.2 false [e.1])
          else if far.contains e then
            let f := s.faultOf b e.1 (elemAddr q.d e.2) .read
            some (e.1, .fault { f with src := 1, pv := true, port := n, elem := e.2 }
              (s.deadLanes b .read f.va.toNat (far.map fun e => (e.1, elemAddr q.d e.2, descEsize q.d))))
          else none) with
      | .error e => .error e
      | .ok _ =>
        let pois := need.filter fun e => find q.buf e.2 == some .poison
        if !pois.isEmpty then .error (trapLanes (pois.map (·.1)) 6 (BitVec.ofNat 32 n))
        else
          let miss := need.filter fun e => (find q.buf e.2).isNone || find q.buf e.2 == some .fault
          if !miss.isEmpty then .error (.wait (miss.map fun e => (e.1, .port)))
          else .ok ((q.idx act).map fun e =>
            (e.1, if e.2 < q.len then (match find q.buf e.2 with
              | some (.data bs) => leNat bs
              | _ => 0) else 0))

/-- Where a pushed element goes, or why it has nowhere to go (R144, R145). -/
def State.pushPlace (s : State) (b : BRef) (q : Port) (n lane i : Nat) : Res (Place × List Tlb) :=
  if descTarget q.d = 2 then .ok (.matrix, [])
  else if s.elemOutside b q.d i then .error (.portFault n lane i true [lane])
  else if descTarget q.d = 1 then
    match s.scrAddr b (BitVec.ofNat 32 (elemAddr q.d i)) (descEsize q.d) with
    | some t => .ok (.scr t.1 t.2.1 t.2.2, [])
    | none => .error (.portFault n lane i true [lane])
  else
    match s.xlate b lane (elemAddr q.d i) (descEsize q.d) .write with
    | .error f => .error (.fault { f with src := 1, pv := true, port := n, elem := i } [])
    | .ok x => if x.es.any fun t => t.farRefuses .write then .error (.portFault n lane i true [lane])
      else if !s.physical b.core && s.promoting (elemAddr q.d i) then .error (.wait [(lane, .fault none)])
      else .ok (x.place, x.es)

/-- What a push will do, found before it commits: each pushing lane, its element's place (R144, R145). -/
structure PushPlan where
  places : List (Nat × Place)
  es : List Tlb
deriving DecidableEq, Repr

def State.pushPort (s : State) (b : BRef) (n : Nat) (act : List Nat) : Res PushPlan :=
  let q := s.port b n
  if act.isEmpty then .ok ⟨[], []⟩
  else if !q.bound then .error (portEnd act n 1)
  else if !descWrite q.d then .error (portEnd act n 2)
  else if q.atEnd then .error (portEnd act n 0)
  else if 64 ≤ q.pending then .error (.wait (act.map fun l => (l, .port)))
  else
    let rs := ((q.idx act).filter fun e => decide (e.2 < q.len)).map fun e => (e.1, s.pushPlace b q n e.1 e.2)
    let far := (((q.idx act).filter fun e => decide (e.2 < q.len)).zip rs).filterMap fun e => match e.2.2 with
      | .error (.fault _ _) => some (e.1.1, elemAddr q.d e.1.2, descEsize q.d)
      | _ => none
    match portStop (rs.filterMap fun r => match r.2 with
        | .error (.wait _) | .ok _ => none
        | .error (.fault f _) => some (r.1, .fault f (s.deadLanes b .write f.va.toNat far))
        | .error e => some (r.1, e)) with
    | .error x => .error x
    | .ok _ =>
      match gather (rs.map fun r => r.2.map fun p => (r.1, p)) with
      | .error x => .error x
      | .ok ps => .ok ⟨ps.map fun p => (p.1, p.2.1), ps.flatMap fun p => p.2.2⟩

/-- An element's bytes from a result of `w` bytes (R141): the low bytes, with zero above. -/
def sizeElem (e w x : Nat) : List Byte := leBytes (x % 2 ^ (8 * w)) e

/-- The commit of a push: one entry of the instruction's elements enters the write queue, and POS advances. The elements
are those of `on`, and `owed` names the lanes whose data are still to come. -/
def State.commitPushOf (s : State) (b : BRef) (n w : Nat) (act on : List Nat) (plan : PushPlan) (setw : Fin 16)
    (owed : List Nat) (val : Nat → Nat) : State :=
  if act.isEmpty then s
  else
    let q := s.port b n
    let els := (plan.places.filter fun p => on.contains p.1).map fun p => (p.1, p.2, sizeElem (descEsize q.d) w (val p.1))
    let e : PushEnt := ⟨els, setw, plan.es.map fun t => (t.asid, t.va), s.opSeq, s.unsOf b act, owed⟩
    let s1 := (s.setPort b n { q.advance (q.adv act) with wq := q.wq ++ [.push e] }).fillUsed b.core plan.es
    { s1 with opSeq := s1.opSeq + max els.length 1 }
def State.commitPush (s : State) (b : BRef) (n w : Nat) (act : List Nat) (plan : PushPlan) (setw : Fin 16)
    (val : Nat → Nat) : State := s.commitPushOf b n w act act plan setw [] val

/-- The commit of a pop; a peek leaves the port as it is (R143). -/
def State.commitPop (s : State) (b : BRef) (n : Nat) (act : List Nat) : State :=
  if act.isEmpty then s else let q := s.port b n; s.setPort b n (q.advance (q.adv act))

/-- R147: PORTFAULT, with the port's FIDX and FADDR set; POS keeps its value. -/
def State.portFault (s : State) (x : Args) (n lane elem : Nat) (write : Bool) (ls : List Nat) : State :=
  let q := s.port s.ref n
  let s1 := s.setPort s.ref n
    { q with fidx := elem, faddr := BitVec.ofNat 64 (elemAddr q.d elem), fcoord := coords q.d elem }
  s1.takeTrap x (maskOf ls) (portFaultInfo n write lane elem)

/-- The end of an instruction that may have been stopped. -/
def State.settle (s : State) (x : Args) (r : Res State) : Out :=
  match r with
  | .ok t => .next t
  | .error (.trap ls i) => .next (s.takeTrap x ls i)
  | .error (.wait ws) => .next (s.parkAgain x ws)
  | .error (.fault f ls) => .next (s.parkFault x f ls)
  | .error (.portFault n lane elem write ls) => .next (s.portFault x n lane elem write ls)

end Sys2Proof.Machine
end

