-- ==== Sys2Proof/Machine/SaveArea.lean ====
section
/-!
DEFINITION. The save area (R327-R330, Tables 17-2 to 17-7): a crew as bytes, and a crew read back from them.
-/

namespace Sys2Proof.Machine

/-- A list of (bit, value) fields as a record of `n` bytes. -/
def packBytes (n : Nat) (fs : List (Nat × Nat)) : List Byte := leBytes (fs.foldl (fun a f => a + f.2 * 2 ^ f.1) 0) n
def padTo (k : Nat) (l : List Byte) : List Byte := l ++ List.replicate ((k - l.length % k) % k) 0
def wordB (w : Word) : List Byte := leBytes w.toNat 4

/-! ### Registers and tags -/

def Tag.saved (t : Tag) : Nat :=
  match t with
  | .uniform => 0 | .affine => 1 | .general => 2
def Tag.ofCode (n : Nat) : Tag := if n = 0 then .uniform else if n = 1 then .affine else .general
/-- Bytes that a register of a slice takes (R21). -/
def Tag.bytes (t : Tag) : Nat :=
  match t with
  | .uniform => 4 | .affine => 8 | .general => 16

def Bundle.tagOf (y : Bundle) (reg slice : Nat) : Tag := findD y.tags (8 * reg + slice) .uniform
def Bundle.vAt (y : Bundle) (l reg : Nat) : Word := findD (y.lane l).v reg 0

/-- The bytes of a register in a slice (R328). -/
def Bundle.regBytes (y : Bundle) (reg slice : Nat) : List Byte :=
  let v (i : Nat) : Word := y.vAt (4 * slice + i) reg
  match y.tagOf reg slice with
  | .uniform => wordB (v 0)
  | .affine => wordB (v 0) ++ wordB (v 1 - v 0)
  | .general => wordB (v 0) ++ wordB (v 1) ++ wordB (v 2) ++ wordB (v 3)

/-- Storage that a bundle's registers take at their tags (R26). -/
def Bundle.footprint (y : Bundle) (nreg : Nat) : Nat :=
  (List.range nreg).foldl (fun a r => (List.range 8).foldl (fun a k => a + (y.tagOf r k).bytes) a) 0

/-! ### Lanes -/

/-- How a lane is saved: running, at a JOIN, or arrived at a crew or gang barrier, with its id (R46, R328). -/
def Bundle.laneState (y : Bundle) (l : Nat) : Nat × Nat :=
  (y.parked.flatMap fun k => k.waits.filter fun w => w.1 == l).foldl (fun a w =>
    match w.2 with
    | .join => (1, 0)
    | .barrier id => (2, id)
    | .gbar id => (3, id)
    | _ => a) (0, 0)

def cbarCode (op : CbarOp) : Nat :=
  match op with
  | .none => 0 | .add => 1 | .min => 2 | .max => 3 | .and => 4 | .or => 5

def laneRecord (k : Crew) (b l : Nat) (y : Bundle) : List Byte :=
  if !y.live.getLsbD l then List.replicate 32 0
  else
    let z := y.lane l
    let st := y.laneState l
    let arr := if st.1 = 2 then (findD k.barriers st.2 []).find? (fun a => a.bundle == b && a.lane == l) else none
    let pc := ((y.parked.find? fun p => p.waits.any fun w => w.1 == l).map Park.pc).getD z.pc
    packBytes 32 [(192, pc.toNat), (160, z.wt.toNat),
      (128, ((arr.map fun a => if a.op == .none then 0 else a.a.toNat).getD 0)), (116, z.wd.toNat),
      (108, (z.p ||| 0x80#8).toNat), (101, z.cd), (93, min z.age 255), (90, st.1), (87, st.2),
      (84, (arr.map fun a => cbarCode a.op).getD 0), (83, (arr.map fun a => if a.ty == .f32 then 1 else 0).getD 0)]

/-! ### Ports and bundles -/

def portRecord (q : Port) : List Byte :=
  packBytes 128 [(640, q.faddr.toNat), (576, q.fidx), (562, q.err), (561, if q.bound then 1 else 0),
    (560, if q.atEnd then 1 else 0), (512, q.pos), (0, if q.bound then q.desc.toNat else 0)]

/-- Waits that a save keeps as they stand: arrivals recorded before the wait, and waits of instructions that have done their
part already (R45; DESIGN CHOICE, assumption 20). -/
def Park.kept (k : Park) : Bool :=
  !k.again && k.waits.all fun w => match w.2 with
    | .join | .barrier _ | .gbar _ | .engine (.spill _ _) => true
    | .receipt _ _ _ _ | .quiet _ _ | .sleep _ | .engine (.rrecv _ _ _ _) | .engine (.pflush _) => k.taken
    | _ => false

/-- Marks of courses that have not executed, which a save withdraws: they execute again (R45). -/
def Bundle.withdrawn (y : Bundle) : Bundle :=
  y.parked.foldl (fun y k =>
    if k.again then (y.flagDec k.setr).flagDec k.setw else if k.kept then y else y.flagDec k.setw) y

def bundleRecord (k : Crew) (b : Nat) (y0 : Bundle) : List Byte :=
  let y := y0.withdrawn
  let regs := padTo 16 ((List.range k.nreg).flatMap fun r => (List.range 8).flatMap fun sl => y.regBytes r sl)
  let tags := (List.range k.nreg).flatMap fun r =>
    leBytes ((List.range 8).foldl (fun a sl => a + (y.tagOf r sl).saved * 4 ^ sl) 0) 2
  let sums := y.rsums.filter fun e => e.2 != 0
  let tail := (List.range 32).flatMap (fun l => laneRecord k b l y) ++ tags ++ regs ++
    (List.range 8).flatMap (fun n => portRecord (y.port n)) ++
    sums.flatMap fun e => packBytes 16 [(0, e.2), (64, e.1)]
  let t := k.async.headD ⟨0, 0, 0, 0, 0⟩
  let head := packBytes 64 ([(480, t.i3.toNat), (448, t.i2.toNat), (416, t.i1.toNat), (384, t.i0.toNat),
    (376, t.cause), (368, min y.age 255), (264, y.hintMiss.toNat), (256, if y.htrap then 1 else 0),
    (251, y.fstat.toNat), (249, y.fmode.toNat), (192, y.live.toNat), (160, 64 + tail.length),
    (133, sums.length), (128, b)] ++ (List.range 12).map fun n => (296 + 6 * n, y.flag n))
  head ++ tail

/-! ### Engine part (R329) -/

def matBytes (c : MatCmd) (step : Nat) : List Byte :=
  packBytes 16 [(114, c.s % 2 ^ 14), (105, c.n), (96, c.m), (64, c.bsrc), (32, c.asrc), (20, c.fmt % 128),
    (0, c.handle.toNat % 2 ^ 20)] ++ leBytes c.fmt 4 ++ leBytes step 4 ++ c.tsh.flatMap wordB

/-- The bytes of a lane's piece that have landed. -/
def Copy.landedOf (c : Copy) (e : CPiece) : Nat :=
  e.n - (c.units.filter fun u => u.lane == e.lane).foldl (fun a u => a + u.n) 0
def copyBytes (c : Copy) : List Byte :=
  [BitVec.ofNat 8 c.modB] ++ (match c.record with
    | some r => leBytes r.toNat 64
    | none => []) ++
  c.srcs.flatMap fun e =>
    leBytes e.src 8 ++ leBytes e.dst 8 ++ leBytes e.rcpt 4 ++
      leBytes (((c.lanes.find? fun q => q.lane == e.lane).map CLane.share).getD 0) 4 ++ leBytes (c.landedOf e) 8

/-- A command that has started is suspended while it is saved (Table 08-4). -/
def attnBytes (a : AttnCmd) : List Byte :=
  packBytes 16 [(96, a.hi), (64, a.lo), (40, a.head), (32, a.layer), (0, a.ctx)] ++
    packBytes 16 [(64, a.out.2.2), (32, a.sigma), (0, a.pq)] ++ a.q.flatMap (fun x => leBytes x 4) ++
    leBytes ((a.started.map (·.1)).getD 0) 4 ++
    packBytes 16 [(96, a.sm), (64, a.mx), (32, a.words), (31, if a.started.isSome then 1 else 0), (30, if a.o then 1 else 0),
      (0, a.next)] ++
    (List.range a.q.length).flatMap fun i => leBytes (a.vec.getD i 0) 4

/-- One engine record: header of Table 17-7 and body. -/
def engineRecord (queue order : Nat) (c : Cmd) : List Byte :=
  let kb : Option (Nat × List Byte) := match c.body with
    | .mat (.mloop m) => some (1, matBytes m c.step)
    | .mat (.gpart m i j _ _ _) => some (2, matBytes m c.step ++ leBytes i 4 ++ leBytes j 4)
    | .copy y => some (3, copyBytes y)
    | .attn a => some (4, attnBytes a)
    | _ => none
  match kb with
  | none => []
  | some (kind, b) =>
    let body := padTo 16 b
    packBytes 16 [(96, 16 + body.length), (88, kind), (80, queue), (72, c.ref.bundle), (0, order)] ++ body

/-- The commands of a list of queue entries. -/
def cmdsIn (l : List QEnt) : List Cmd := l.filterMap fun e => match e with
  | .cmd c => some c
  | .fence _ => none
def enginePart (qs : SMap (List QEnt)) : List Byte :=
  qs.flatMap (fun q => (cmdsIn q.2).zipIdx.flatMap fun e => engineRecord q.1 e.2 e.1) ++ packBytes 16 [(96, 16)]

/-! ### The whole area -/

/-- Handles a crew holds, ascending. -/
def Core.handlesOf (x : Core) (slot : Nat) : List Nat :=
  let hs := ((x.accHeld.filter fun e => e.2.1 == slot).map fun e => e.2.2.toNat).eraseDups
  hs.foldl (fun a h => (a.filter fun y => decide (y < h)) ++ [h] ++ a.filter fun y => decide (h < y)) []

def crewPart (x : Core) (slot : Nat) (k : Crew) : List Byte :=
  let hs := x.handlesOf slot
  let mine := (x.accHeld.filter fun e => e.2.1 == slot).map (·.1)
  (List.range 16).flatMap (fun n => wordB (findD k.c n 0)) ++ (List.range 16).flatMap (fun n => wordB (findD k.tsh n 0x00020402)) ++
    (List.range 16).flatMap (fun n => leBytes (hs.getD n 0) 4) ++
    leBytes (mine.foldl (fun a b => if x.accPoison.getLsbD b then a + 2 ^ b else a) 0) 2 ++
    leBytes ((List.range 16).foldl (fun a n => if (findD k.tiles n ⟨[], false⟩).poison then a + 2 ^ n else a) 0) 2 ++
    List.replicate 28 0

/-- The code of a line state (R86). -/
def lineBits (st : LineSt) : Nat :=
  match st with
  | .empty => 0 | .full => 1 | .poisoned => 2

def scratchPart (x : Core) (slot : Nat) (k : Crew) : List Byte :=
  padTo 16 (leBytes ((List.range k.slines).foldl (fun a n => a + lineBits (findD k.lineSt n .full) * 4 ^ n) 0) ((k.slines + 3) / 4)) ++
    k.scratch.readN 0 (k.slines * 128) ++
    (List.range k.ntiles).flatMap (fun n => (findD k.tiles n ⟨[], false⟩).bytes.readN 0 4608) ++
    (x.accHeld.filter fun e => e.2.1 == slot).flatMap fun e =>
      (List.range 4096).flatMap fun i => wordB (findD (findD x.acc e.1 []) i 0)

/-- The save area of a crew as bytes. -/
def saveArea (x : Core) (slot : Nat) (k : Crew) (qs : SMap (List QEnt)) : List Byte :=
  let bundles := k.bundles.flatMap fun e => padTo 16 (bundleRecord k e.1 e.2)
  let eng := padTo 16 (enginePart qs)
  let scr := padTo 16 (scratchPart x slot k)
  let oeng := 64 + 224 + bundles.length
  let head := packBytes 64 [(448, oeng + eng.length + scr.length), (384, k.lseq), (352, k.acct), (320, k.kid), (288, oeng),
    (256, oeng + eng.length), (224, k.bundles.foldl (fun a e => a + 2 ^ e.1) 0), (8, 1), (0, 0xC5)]
  head ++ crewPart x slot k ++ bundles ++ eng ++ scr

/-! ### Reading an area back -/

/-- Register data read from its place on: values by lane and the rest of the place. -/
def readRegs (rd : Nat → Nat → Nat) (tag : Nat → Nat → Tag) : List (Nat × Nat) → Nat → List (Nat × Nat × Word)
  | [], _ => []
  | (r, sl) :: rest, at_ =>
    let t := tag r sl
    let vals : List (Nat × Nat × Word) := (List.range 4).map fun i =>
      (4 * sl + i, r,
        match t with
        | .uniform => BitVec.ofNat 32 (rd at_ 4)
        | .affine => BitVec.ofNat 32 (rd at_ 4) + BitVec.ofNat 32 i * BitVec.ofNat 32 (rd (at_ + 4) 4)
        | .general => BitVec.ofNat 32 (rd (at_ + 4 * i) 4))
    vals ++ readRegs rd tag rest (at_ + t.bytes)

/-- A lane of a record: `z` is what the device keeps of it beside the area, and `was` whether it is live in the record; a
lane outside LIVE is saved as zero. -/
def readLane (rd : Nat → Nat → Nat) (at_ : Nat) (z : Lane) : Lane :=
  let x := rd at_ 32
  { (default : Lane) with
    pc := BitVec.ofNat 64 (bits x 255 192), wt := BitVec.ofNat 32 (bits x 191 160), wd := BitVec.ofNat 12 (bits x 127 116),
    p := BitVec.ofNat 8 (bits x 115 108), cd := bits x 107 101, age := bits x 100 93,
    pendV := z.pendV, pendP := z.pendP, mind := z.mind }

/-- What a lane record says the lane is parked at (STATE and BID). -/
def readWait (rd : Nat → Nat → Nat) (at_ : Nat) : Option Why :=
  let x := rd at_ 32
  if bits x 92 90 = 1 then some .join
  else if bits x 92 90 = 2 then some (.barrier (bits x 89 87))
  else if bits x 92 90 = 3 then some (.gbar (bits x 89 87)) else none

/-- The parks of a bundle whose lane records stand at a place. Which course a lane parked with, the marks of that course, and
the waits other than joins and barriers, are what the device keeps (DESIGN CHOICE, assumption 20). -/
def readParks (rd : Nat → Nat → Nat) (at_ : Nat) (live : Word) (kept : List Park) : List Park :=
  let now (l : Nat) : Option Why := if live.getLsbD l then readWait rd (at_ + 32 * l) else none
  let pc (l : Nat) : DWord := BitVec.ofNat 64 (bits (rd (at_ + 32 * l) 32) 255 192)
  let same (p : Park) (w : Nat × Why) : Bool :=
    live.getLsbD w.1 && pc w.1 == p.pc && (match w.2 with
      | .join | .barrier _ | .gbar _ => now w.1 == some w.2
      | _ => (now w.1).isNone)
  let old := (kept.map fun p => { p with waits := p.waits.filter (same p) }).filter fun p => !p.waits.isEmpty
  let new := (List.range 32).filterMap fun l =>
    (now l).bind fun w =>
      if old.any (fun p => p.waits.any fun v => v.1 == l) then none else some (⟨pc l, [(l, w)], 15, 15, false, false, false⟩ : Park)
  old ++ new

def cbarOf (n : Nat) : CbarOp :=
  if n = 1 then .add else if n = 2 then .min else if n = 3 then .max else if n = 4 then .and else if n = 5 then .or else .none

/-- The arrivals of a bundle's lane records at barriers, by barrier; the register a payload goes to is what the device
keeps. -/
def readArrivals (rd : Nat → Nat → Nat) (at_ b : Nat) (live : Word) (kept : SMap (List Arrival)) : List (Nat × Arrival) :=
  (List.range 32).filterMap fun l =>
    let x := rd (at_ + 32 * l) 32
    match if live.getLsbD l then readWait rd (at_ + 32 * l) else none with
    | some (.barrier id) =>
      let old := (findD kept id []).find? fun a => a.bundle == b && a.lane == l
      some (id, ⟨(old.map Arrival.id).getD 0, b, l, cbarOf (bits x 86 84), if x.testBit 83 then .f32 else (old.map Arrival.ty).getD .b32,
        BitVec.ofNat 32 (bits x 159 128), (old.map Arrival.dst).getD .zero⟩)
    | _ => none

/-- A port of a record: `q` is what the device keeps of it beside the area. -/
def readPort (rd : Nat → Nat → Nat) (at_ : Nat) (q : Port) : Port :=
  let x := rd at_ 128
  { q with
    faddr := BitVec.ofNat 64 (bits x 703 640), fidx := bits x 623 576, err := bits x 565 562, bound := x.testBit 561,
    pos := bits x 559 512, desc := BitVec.ofNat 512 (bits x 511 0) }

/-- A bundle record at a place; `y` is what the device keeps beside the area. -/
def readBundle (rd : Nat → Nat → Nat) (nreg at_ : Nat) (y : Bundle) : Bundle × Option TrapInfo :=
  let x := rd at_ 64
  let tagAt := at_ + 64 + 1024
  let tag (r sl : Nat) : Tag := Tag.ofCode (bits (rd (tagAt + 2 * r) 2) (2 * sl + 1) (2 * sl))
  let pairs := (List.range nreg).flatMap fun r => (List.range 8).map fun sl => (r, sl)
  let regAt := tagAt + 2 * nreg
  let size := pairs.foldl (fun a e => a + (tag e.1 e.2).bytes) 0
  let vals := readRegs rd tag pairs regAt
  let portAt := regAt + (size + 15) / 16 * 16
  let live := BitVec.ofNat 32 (bits x 223 192)
  let lanes : SMap Lane := (List.range 32).map fun l =>
    (l, { readLane rd (at_ + 64 + 32 * l) (y.lane l) with
          v := (vals.filter fun e => e.1 == l).foldl (fun m e => put m e.2.1 e.2.2) [] })
  let cause := bits x 383 376
  ({ y with
     live := live, lanes := lanes, age := bits x 375 368, hintMiss := BitVec.ofNat 32 (bits x 295 264), htrap := x.testBit 256,
     fstat := BitVec.ofNat 5 (bits x 255 251), fmode := BitVec.ofNat 2 (bits x 250 249),
     flags := (List.range 12).foldl (fun m n => setD m n (bits x (301 + 6 * n) (296 + 6 * n)) 0) [],
     tags := pairs.foldl (fun m e => setD m (8 * e.1 + e.2) (tag e.1 e.2) .uniform) [],
     ports := (List.range 8).map fun n => (n, readPort rd (portAt + 128 * n) (y.port n)),
     rsums := (List.range (bits x 138 133)).foldl (fun m j =>
       let e := rd (portAt + 1024 + 16 * j) 16
       put m (bits e 75 64) (bits e 63 0)) [],
     parked := readParks rd (at_ + 64) live y.parked },
   if cause = 0 then none
   else some ⟨cause, BitVec.ofNat 32 (bits x 415 384), BitVec.ofNat 32 (bits x 447 416), BitVec.ofNat 32 (bits x 479 448),
     BitVec.ofNat 32 (bits x 511 480)⟩)

/-- The bundle records of an area, one after another, with the arrivals of their lanes. -/
def readBundles (rd : Nat → Nat → Nat) (keep : Crew) : List Nat → Nat → List (Nat × Bundle × Option TrapInfo × List (Nat × Arrival))
  | [], _ => []
  | b :: rest, at_ =>
    let size := bits (rd at_ 64) 191 160
    let r := readBundle rd keep.nreg at_ (findD keep.bundles b default)
    (b, r.1, r.2, readArrivals rd (at_ + 64) b r.1.live keep.barriers) :: readBundles rd keep rest (at_ + (size + 15) / 16 * 16)

/-- A crew from its area: `keep` is what the device kept of it, or what its kernel says. The area holds one pending
asynchronous trap, the oldest; the others are what the device keeps. -/
def readCrew (rd : Nat → Nat → Nat) (keep : Crew) : Crew :=
  let h := rd 0 64
  let bs := readBundles rd keep ((List.range 32).filter fun b => (bits h 255 224).testBit b) 288
  let oscr := bits h 287 256
  let lineBytes := (keep.slines + 3) / 4
  let scrAt := oscr + (lineBytes + 15) / 16 * 16
  let states := rd oscr lineBytes
  { keep with
    lseq := bits h 447 384, acct := bits h 383 352, kid := bits h 351 320,
    bundles := bs.map fun e => (e.1, e.2.1),
    async := ((bs.findSome? fun e => e.2.2.1).toList) ++ keep.async,
    barriers := (bs.flatMap fun e => e.2.2.2).foldl (fun m e => put m e.1 (findD m e.1 [] ++ [e.2])) [],
    c := (List.range 16).map fun n => (n, BitVec.ofNat 32 (rd (64 + 4 * n) 4)),
    tsh := (List.range 16).map fun n => (n, BitVec.ofNat 32 (rd (128 + 4 * n) 4)),
    lineSt := (List.range keep.slines).foldl (fun m n =>
      let c := bits states (2 * n + 1) (2 * n)
      if c = 0 then put m n .empty else if c = 2 then put m n .poisoned else m) [],
    scratch := (List.range (keep.slines * 128)).foldl (fun m i => m.write i (BitVec.ofNat 8 (rd (scrAt + i) 1))) ([] : Mem),
    tiles := (List.range keep.ntiles).map fun n =>
      (n, ⟨(List.range 4608).foldl (fun m i => m.write i (BitVec.ofNat 8 (rd (scrAt + keep.slines * 128 + 4608 * n + i) 1))) ([] : Mem),
        (rd (64 + 194) 2).testBit n⟩) }

/-! ### Engine records read back (R329) -/

/-- The engine records of an area: queue, order and bundle of each, its KIND and where its body stands. -/
def readEngine (rd : Nat → Nat → Nat) : Nat → Nat → List (Nat × Nat × Nat × Nat × Nat)
  | 0, _ => []
  | n + 1, at_ =>
    let h := rd at_ 16
    if bits h 95 88 = 0 ∨ bits h 127 96 < 16 then []
    else (bits h 87 80, bits h 63 0, bits h 79 72, bits h 95 88, at_ + 16) :: readEngine rd n (at_ + bits h 127 96)

/-- A matrix command of a record, and its next K-step. -/
def readMat (rd : Nat → Nat → Nat) (at_ : Nat) : MatCmd × Nat :=
  let x := rd at_ 16
  (⟨rd (at_ + 16) 4, BitVec.ofNat 32 (bits x 19 0), bits x 63 32, bits x 95 64, bits x 104 96, bits x 113 105, bits x 127 114,
    (List.range 16).map fun i => BitVec.ofNat 32 (rd (at_ + 24 + 4 * i) 4)⟩, rd (at_ + 20) 4)

/-- An attention command of a record; `a` is what the device keeps of it. -/
def readAttn (rd : Nat → Nat → Nat) (at_ : Nat) (a : AttnCmd) (hdim : Nat) (chain : List Nat) : AttnCmd :=
  let ob := rd at_ 16
  let qb := rd (at_ + 16) 16
  let e := at_ + 32 + 4 * hdim
  let r := rd (e + 4) 16
  { a with
    ctx := bits ob 19 0, layer := bits ob 39 32, head := bits ob 47 40, lo := bits ob 87 64, hi := bits ob 120 96,
    pq := bits qb 23 0, sigma := bits qb 63 32, q := (List.range hdim).map fun i => rd (at_ + 32 + 4 * i) 4,
    out := (a.out.1, a.out.2.1, bits qb 95 64),
    started := if r.testBit 31 then some (rd e 4, (a.started.map (·.2)).getD chain) else none,
    sm := bits r 127 96, mx := bits r 95 64, words := bits r 63 32, o := r.testBit 30, next := bits r 23 0,
    vec := if r.testBit 30 then (List.range hdim).map fun i => rd (e + 20 + 4 * i) 4 else [] }

/-- Where the accumulator blocks of an area stand, and their words. -/
def readBlock (rd : Nat → Nat → Nat) (keep : Crew) (j : Nat) : SMap Word :=
  let oscr := bits (rd 0 64) 287 256
  let at_ := oscr + ((keep.slines + 3) / 4 + 15) / 16 * 16 + keep.slines * 128 + 4608 * keep.ntiles + 16384 * j
  (List.range 4096).foldl (fun m i => setD m i (BitVec.ofNat 32 (rd (at_ + 4 * i) 4)) 0) []

end Sys2Proof.Machine
end

