-- ==== Sys2Proof/Machine/Storage.lean ====
section
/-!
DEFINITION. Register-file storage (R21, R25, R26): what is in use, and displacement.
-/

namespace Sys2Proof.Machine

/-- What asking for storage answers. -/
inductive Room
  | ok | wait
deriving DecidableEq, Repr, Inhabited

/-- The register file of a core (Table 01-6). -/
def rfBytes : Nat := 524288

/-- Whether the storage of a crew follows its tags, so that it can be displaced: a graph node is of the queued class for progress
alone, since its holds became reservations (R26, R30, R355). -/
def Crew.byTags (k : Crew) : Bool := k.queued && k.gang.isNone

/-- The storage a crew takes: one placed as a gang its full footprints, another what its tags need (R25, R26). -/
def Crew.rfUse (k : Crew) : Nat :=
  if k.byTags then k.bundles.foldl (fun a e => a + e.2.footprint k.nreg) 0 else 128 * k.nreg * k.nbundles
def Core.rfUse (x : Core) : Nat :=
  x.crews.foldl (fun a e => a + e.2.rfUse) 0 + x.holds.foldl (fun a h => a + 128 * h.nregs * h.nbundles) 0

/-! ### Work in flight -/

def QEnt.ofBundle (b : BRef) (e : QEnt) : Bool :=
  match e with
  | .cmd c => c.ref == b
  | .fence _ => false
def Core.cmdsOf (x : Core) (p : BRef → Bool) : List (Nat × Cmd) :=
  x.queues.flatMap fun q => q.2.filterMap fun e =>
    match e with
    | .cmd c => if p c.ref then some (q.1, c) else none
    | .fence _ => none

/-- Whether commands, accesses or pushes of a bundle are still to be performed (R53). -/
def State.busyBundle (s : State) (b : BRef) : Bool :=
  let x := s.core b.core
  x.pend.any (fun p => p.ref == b) || !(x.cmdsOf fun r => r == b).isEmpty ||
    (s.bundle b).ports.any fun q => !q.2.wq.isEmpty

/-- Waits that hold an answer still on its way to the lane. -/
def Why.owed (w : Why) : Bool :=
  match w with
  | .grant _ | .engine (.spill _ _) | .engine .query | .engine (.root _ _ _) | .refetch _ => true
  | _ => false

/-! ### Draining before a save (R150, R327, R377) -/

/-- Commands that a save waits for. -/
def Body.drains (b : Body) : Bool :=
  match b with
  | .patch _ _ _ _ _ _ _ _ _ _ | .rsend _ _ _ | .mcast _ => true
  | _ => false

/-- Whether an entry of a write queue is still to be performed. A push whose data are still to come is kept: the lanes that
await them at a barrier or for spill room are saved as they stand (R45, R264). -/
def WqEnt.drains (e : WqEnt) : Bool :=
  match e with
  | .push e => e.owed.isEmpty
  | .fence _ => false

/-- Whether a crew has nothing outstanding that its save waits for: accesses, pushes, commands that cannot be saved, and
answers of the firmware. -/
def State.drained (s : State) (core slot : Nat) : Bool :=
  let x := s.core core
  let mine (b : BRef) : Bool := b.core == core && b.slot == slot
  !x.pend.any (fun p => mine p.ref) && !(x.cmdsOf mine).any (fun c => c.2.body.drains) &&
    (s.crew core slot).bundles.all (fun y => y.2.ports.all fun q => !q.2.wq.any WqEnt.drains) &&
    !s.qmsgs.any (fun m => (m.posted || m.kind == .opening || m.kind == .closing) && mine m.ref) &&
    !s.dies.any fun d => d.2.arriving.any fun a => a.answer && mine a.ref

/-- Saves whose crew has drained execute again. -/
def State.wakeSave (s : State) : State :=
  s.house.foldl (fun s h =>
    s.resume ⟨768 + h.1, 0, 0⟩ fun w => match w with
      | .engine (.csave c k) => s.drained c k
      | _ => false) (s.resume ⟨768, 0, 0⟩ fun w => match w with
      | .engine (.csave c k) => s.drained c k
      | _ => false)

/-! ### Displacement (R26, R376) -/

/-- The lowest offset of a displacement area where `n` bytes are free. -/
def dispFit (used : List (Nat × Nat)) (size n : Nat) : Option Nat :=
  let at_ := 0 :: used.map fun u => u.1 + u.2
  let ok := at_.filter fun a => decide (a + n ≤ size) && used.all fun u => decide (a + n ≤ u.1) || decide (u.1 + u.2 ≤ a)
  ok.foldl (fun m a => match m with
    | none => some a
    | some b => some (min a b)) none

/-- The most recently admitted bundle of the queued class on a core. -/
def State.lastQueued (s : State) (core : Nat) : Option BRef :=
  (s.core core).crews.foldl (fun m e =>
    if e.2.byTags && e.2.run == .running then
      e.2.bundles.foldl (fun (m : Option BRef) y =>
        match m with
        | none => some ⟨core, e.1, y.1⟩
        | some b => if (s.bundle b).adm < y.2.adm then some ⟨core, e.1, y.1⟩ else m) m
    else m) none

/-! ### What the device keeps of a crew beside its save area (DESIGN CHOICE, assumption 20) -/

/-- A port: all but the elements fetched ahead, which are fetched anew; of its write queue what is left once it has drained. -/
def Port.keep (q : Port) : Port := { q with buf := [] }
/-- A lane: the results that engines still owe it, and what its acquires have given it. -/
def Lane.keep (z : Lane) : Lane := { (default : Lane) with pendV := z.pendV, pendP := z.pendP, mind := z.mind }
/-- A bundle: also which lanes parked together at joins and barriers (R46), and other waits that are kept. -/
def Bundle.keep (y : Bundle) : Bundle :=
  { (default : Bundle) with
    lanes := y.lanes.map fun e => (e.1, e.2.keep), ports := y.ports.map fun e => (e.1, e.2.keep),
    orderPt := y.orderPt, flagView := y.flagView,
    parked := y.parked.filter Park.kept }
/-- A crew: without what the area holds, of which the oldest asynchronous trap is one. -/
def Crew.keep (k : Crew) : Crew :=
  { k with run := .running, scratch := [], tiles := [], c := [], cBy := [], tsh := [], lineSt := [], async := k.async.drop 1,
           bundles := k.bundles.map fun e => (e.1, e.2.keep) }

/-- The waits a bundle has armed at roots are dropped: they are armed anew when it goes on (R45). -/
def State.disarm (s : State) (p : BRef → Bool) : State :=
  { s with doms := s.doms.map fun d => (d.1, { d.2 with waiters := d.2.waiters.filter fun w => !p w.1 }),
           qmsgs := s.qmsgs.filter fun m => !(m.kind == .arm && p m.ref) }

/-- A crew leaves its core: its resources are free (R53). -/
def State.dropCrew (s : State) (core slot : Nat) : State :=
  let x := s.core core
  let mine := (x.accHeld.filter fun e => e.2.1 == slot).map (·.1) ++ (x.accRes.filter fun e => e.2 == slot).map (·.1)
  s.setCore core { x with
    crews := del x.crews slot,
    accHeld := x.accHeld.filter fun e => e.2.1 != slot,
    accRes := x.accRes.filter fun e => e.2 != slot,
    accGone := x.accGone.filter fun e => e.1 != slot,
    pins := x.pins.filter fun e => e.2.1 != slot,
    accPoison := mine.foldl (fun a b => a &&& ~~~(1#16 <<< b)) x.accPoison,
    fbuf := x.fbuf.filter fun e => e.2.ref.slot != slot,
    popHeld := false }

/-! ### Freeing and asking for storage (R26, R37) -/

/-- Storage has been freed on a core, or may be found now: instructions that wait for it execute again, and the core may pop
again (R37). -/
def State.storageFreed (s : State) (core : Nat) : State :=
  let s1 := s.setCore core { s.core core with popHeld := false }
  (s1.core core).crews.foldl (fun s k => k.2.bundles.foldl (fun s e => s.resume ⟨core, k.1, e.1⟩ fun w => w == .storage) s) s1

def Bundle.setTags (y : Bundle) (ts : List (Nat × Tag)) : Bundle :=
  { y with tags := ts.foldl (fun m t => setD m t.1 t.2 .uniform) y.tags }
/-- Registers of a bundle take new tags; where that narrows storage that follows them, storage has been freed (R22, R26). -/
def State.giveTags (s : State) (b : BRef) (ts : List (Nat × Tag)) : State :=
  let y := s.bundle b
  let s1 := s.setBundle b (y.setTags ts)
  if (s.crew b.core b.slot).byTags && ts.any (fun t => decide (t.2.bytes < (findD y.tags t.1 .uniform).bytes)) then
    s1.storageFreed b.core
  else s1

/-- Whether the newest bundle of the queued class can be displaced: the displacement area and the ready queue have room
(R26). One that awaits TRESUME stays, as a save would leave it (R377; DEDUCED, assumption 44). -/
def State.displaceable (s : State) (b : BRef) : Bool :=
  let x := s.core b.core
  let area := saveArea x b.slot (s.crew b.core b.slot) []
  (s.bundle b).stopped.isNone && decide ((findD s.dies (dieOf b.core) default).ready.length < 4096) &&
    (dispFit x.disp x.cfg.dispSize.toNat area.length).isSome

/-- A core whose storage is short begins to displace its newest bundle of the queued class, one at a time (R26). -/
def State.displaceNext (s : State) (core : Nat) : State :=
  if (s.core core).crews.any fun k => k.2.run == .displacing then s
  else
    match s.lastQueued core with
    | none => s
    | some v => if s.displaceable v then s.setCrew core v.slot { s.crew core v.slot with run := .displacing } else s

/-- The storage for new tags of a bundle's registers; where it is short the newest bundle of the queued class is displaced
(R26). A gang crew's storage is reserved for it whatever its tags (R25). -/
def State.reserve (s : State) (b : BRef) (ts : List (Nat × Tag)) : State × Room :=
  if !(s.crew b.core b.slot).byTags then (s, .ok)
  else
    let y := s.bundle b
    let grow := ts.foldl (fun a t => a + (t.2.bytes - (findD y.tags t.1 .uniform).bytes)) 0
    if grow = 0 ∨ (s.core b.core).rfUse + grow ≤ rfBytes then (s, .ok) else (s.displaceNext b.core, .wait)

/-- An instruction goes on with its storage reserved, or waits for it as a whole. -/
def State.withRoom (s : State) (x : Args) (act : List Nat) (tags : List (Nat × Tag)) (k : State → Out) : Out :=
  match s.reserve s.ref tags with
  | (s1, .ok) => k s1
  | (s1, .wait) => .next (s1.parkAgain x (act.map fun l => (l, .storage)))

end Sys2Proof.Machine
end

