-- ==== Sys2Proof/Machine/MatCheck.lean ====
section
/-!
DEFINITION. What a matrix command is checked for at issue (R80, R91, R277, R278, R281, R282).
-/

namespace Sys2Proof.Machine

/-! ### Handles (R91, Table 04-3) -/

def hCB (h : Word) : Nat := bits h.toNat 19 18
def hRB (h : Word) : Nat := bits h.toNat 17 16
/-- The blocks of a handle, ascending. -/
def hBlocks (h : Word) : List Nat := (List.range 16).filter fun b => h.getLsbD b
/-- The block that holds an element of the handle's tile, and the element in it. -/
def hElem (h : Word) (r c : Nat) : Nat × Nat :=
  ((hBlocks h).getD (r / 64 * (hCB h + 1) + c / 64) 0, 64 * (r % 64) + c % 64)

/-- Whether a crew holds a handle: its fields agree, and every block is the crew's under it. -/
def Core.holdsHandle (x : Core) (slot : Nat) (h : Word) : Bool :=
  bits h.toNat 31 20 == 0 && (hBlocks h).length == (hRB h + 1) * (hCB h + 1) && !x.accGone.contains (slot, h) &&
    (hBlocks h).all fun b => find x.accHeld b == some (slot, h)

/-- SEGV with the handle. -/
def handleTrap (h : Word) : TrapInfo := ⟨5, h, 0, 0, 0⟩

/-! ### Format words (R80, Table 03-7) -/

def fmtA (f : Nat) : Nat := bits f 2 0
def fmtB (f : Nat) : Nat := bits f 5 3
def isBlk (c : Nat) : Bool := decide (c ≤ 2)
/-- Version 1 has no SB3 (Table 11-7). -/
def fmtOk (ver f : Nat) : Bool :=
  let a := fmtA f; let b := fmtB f
  decide (f < 128) && decide (a ≤ 4) && decide (b ≤ 4) && ((isBlk a && isBlk b) || a == b) && (isBlk a || !f.testBit 6) &&
    (decide (2 ≤ ver) || (a != 0 && b != 0))

/-- FMTDIV with a code of Table 15-5. -/
def fmtdiv (code : Nat) : TrapInfo := ⟨7, BitVec.ofNat 32 code, 0, 0, 0⟩

/-! ### Operand sources (R277, Table 15-4) -/

/-- Bytes of 64 consecutive K-elements. -/
def kb64 (c : Nat) : Nat := if c = 0 then 32 else if c = 1 then 48 else if c = 2 then 72 else 128
def srcRing (w : Nat) : Bool := w.testBit 31
def srcBase (w : Nat) : Nat := bits w 30 18
def srcInc (w : Nat) : Nat := bits w 17 8
def srcDepth (w : Nat) : Nat := bits w 7 0
/-- The tiles that K-step `j` of a tile sequence uses. -/
def srcTiles (w code j : Nat) : List Nat :=
  if isBlk code then [bits w 3 0 + j] else [bits w 3 0 + 2 * j, bits w 3 0 + 2 * j + 1]
def tshElem (t : Word) : Nat := bits t.toNat 2 0
def tshRows (t : Word) : Nat := bits t.toNat 10 4
def tshCols (t : Word) : Nat := bits t.toNat 17 11

/-- The first three conditions of R278 on one operand. -/
def srcFits (k : Crew) (w rows code s : Nat) : Bool :=
  if srcRing w then
    decide ((rows * kb64 code + 127) / 128 ≤ srcInc w) && decide (1 ≤ srcDepth w) && decide (1 ≤ srcInc w) &&
      decide (srcBase w + srcInc w * srcDepth w ≤ k.slines)
  else
    bits w 30 18 == 0 && bits w 17 8 == 0 && bits w 7 4 == 0 &&
      (s == 0 || (srcTiles w code (s - 1)).all fun t => decide (t < k.ntiles))

/-- The fourth: shapes and element codes of the tiles. -/
def srcShapes (tsh : List Word) (w rows code s : Nat) : Bool :=
  srcRing w || (List.range s).all fun j => (srcTiles w code j).all fun t =>
    let x := tsh.getD t 0
    tshElem x == code && tshCols x == (if isBlk code then 64 else 32) && decide (rows ≤ tshRows x)

/-- The sixteen TSH words of a crew. -/
def Crew.tshAll (k : Crew) : List Word := (List.range 16).map fun n => findD k.tsh n 0x00020402

/-- R278 after the format word: the handle, then the block; `sa` and `sb` say which operands the crew supplies. -/
def matCheck (x : Core) (slot : Nat) (k : Crew) (c : MatCmd) (sa sb : Bool) : Option TrapInfo :=
  if !x.holdsHandle slot c.handle then some (handleTrap c.handle)
  else if decide (64 * (hRB c.handle + 1) < c.m) || decide (64 * (hCB c.handle + 1) < c.n) then some (fmtdiv 4)
  else if (sa && !srcFits k c.asrc c.m (fmtA c.fmt) c.s) || (sb && !srcFits k c.bsrc c.n (fmtB c.fmt) c.s) then some (fmtdiv 4)
  else if (sa && !srcShapes c.tsh c.asrc c.m (fmtA c.fmt) c.s) || (sb && !srcShapes c.tsh c.bsrc c.n (fmtB c.fmt) c.s) then
    some (fmtdiv 5)
  else none

/-- The operand block of `MLOOP` and `GMLOOP` (Table 15-3); none where a zero field is not zero or M or N is out of the
range up to `top`. -/
def obCmd (f : Nat) (h : Word) (ob top : Nat) (tsh : List Word) : Option MatCmd :=
  let c : MatCmd := ⟨f, h, bits ob 31 0, bits ob 63 32, bits ob 73 64, bits ob 89 80, bits ob 119 96, tsh⟩
  if bits ob 127 120 == 0 && bits ob 95 90 == 0 && bits ob 79 74 == 0 && decide (1 ≤ c.m) && decide (c.m ≤ top) &&
      decide (1 ≤ c.n) && decide (c.n ≤ top) then some c else none

/-- A matrix command record (Table 15-6). -/
def recCmd (r : Nat) (tsh : List Word) : MatCmd :=
  ⟨bits r 26 20, BitVec.ofNat 32 (bits r 19 0), bits r 63 32, bits r 95 64, bits r 104 96, bits r 113 105, bits r 127 114, tsh⟩

/-- The trap that a record pushed to the matrix channel makes (R281). -/
def recTrap (x : Core) (slot : Nat) (k : Crew) (r : Nat) : Option TrapInfo :=
  let c := recCmd r k.tshAll
  if !fmtOk k.ver c.fmt then some (fmtdiv 1)
  else if !x.holdsHandle slot c.handle then some (handleTrap c.handle)
  else if bits r 31 27 != 0 || c.m == 0 || c.n == 0 || decide (256 < c.m) || decide (256 < c.n) then some (fmtdiv 4)
  else matCheck x slot k c true true

/-- The check of a push to the matrix channel: a record that fails traps the whole push (R281), with the cause of
highest priority, which is FMTDIV before SEGV, and the lanes that raise it (R49). -/
def State.chanTrap (s : State) (b : BRef) (n w : Nat) (act : List Nat) (val : Nat → Nat) : Option Stop :=
  let q := s.port b n
  if act.isEmpty || !q.bound || !descWrite q.d || descTarget q.d != 2 then none
  else
    let x := s.core b.core
    let k := s.crew b.core b.slot
    let lanes := (q.idx act).filter fun e => decide (e.2 < q.len)
    let bad := lanes.filterMap fun e => (recTrap x b.slot k (val e.1 % 2 ^ (8 * w))).map fun t => (e.1, t)
    let div := bad.filter fun e => e.2.cause == 7
    let top := if div.isEmpty then bad else div
    top.head?.map fun e => Stop.trap (maskOf (top.map (·.1))) { e.2 with i1 := BitVec.ofNat 32 e.1 }

end Sys2Proof.Machine
end

