-- ==== Sys2Proof/Machine/Operands.lean ====
section
/-!
DEFINITION. Reading the operand fields of an instruction (R187-R190, R211-R213, Table 11-2), writing its destination
(R22, R189), and the shared shape of every instruction that computes lane results from lane sources.
-/

namespace Sys2Proof.Machine

/-! ### Pops and pushes of one instruction -/

/-- The ports an instruction's sources name, each with whether it is peeked; one entry a port (R142). -/
def portSources (sh : Shape) (x : Args) : List (Nat × Bool) :=
  let f (t : Slot) (o : Opnd) : List (Nat × Bool) :=
    match o with
    | .q n => if t.kind.pops then [(n.val, false)] else []
    | .peek n => [(n.val, true)]
    | _ => []
  (f sh.a x.a ++ f sh.b x.b ++ f sh.c x.c).eraseDups

/-- The port an instruction's destination pushes, with the bytes it writes. The port of an `ATTN` takes words as they are
delivered, and is not pushed (R148). -/
def portDest (sh : Shape) (x : Args) : Option (Nat × Nat) :=
  match x.d with
  | .q n => if sh.d.kind == .attnDst then none else some (n.val, 4 * sh.d.regs)
  | _ => none

/-- Elements taken by port and lane, and the plan of the push. -/
structure Taken where
  pops : List (Nat × Bool × List (Nat × Nat))
  push : Option PushPlan
deriving DecidableEq, Repr

/-- Every check of the ports an instruction names, before anything commits (R142-R147). -/
def State.take (s : State) (b : BRef) (sh : Shape) (x : Args) (act : List Nat) : Res Taken :=
  match (portSources sh x).mapM fun p => (s.popPort b p.1 p.2 act).map fun e => (p.1, p.2, e) with
  | .error e => .error e
  | .ok pops =>
    match portDest sh x with
    | none => .ok ⟨pops, none⟩
    | some (n, _) =>
      match s.pushPort b n act with
      | .error e => .error e
      | .ok plan => .ok ⟨pops, some plan⟩

/-- The element a lane has taken from a port. A lane that took none reads zero; so do the lanes that vote on a value of the
whole course when none of them is predicated on and nothing is popped (R23, R142; DESIGN CHOICE: the spec gives those lanes
no value, assumption 51). -/
def Taken.elem (t : Taken) (n l : Nat) : Nat :=
  match t.pops.find? fun p => p.1 == n with
  | some p => ((p.2.2.find? fun e => e.1 == l).map (·.2)).getD 0
  | none => 0

/-- The pops of an instruction commit. -/
def State.commitPops (s : State) (b : BRef) (act : List Nat) (t : Taken) : State :=
  t.pops.foldl (fun s p => if p.2.1 then s else s.commitPop b p.1 act) s

/-! ### Reading operands -/

/-- Table 01-4. -/
def State.special (s : State) (b : BRef) (l : Nat) (x : Special) : Word :=
  match x with
  | .lane => BitVec.ofNat 32 l
  | .slice => BitVec.ofNat 32 (l / 4)
  | .bundle => BitVec.ofNat 32 b.bundle
  | .crew => BitVec.ofNat 32 b.slot
  | .core => BitVec.ofNat 32 b.core
  | .grank => BitVec.ofNat 32 (s.crew b.core b.slot).grank
  | .nlive => BitVec.ofNat 32 (countOf (s.bundle b).live)
  | .launchseq => BitVec.ofNat 32 (s.crew b.core b.slot).lseq

def Lane.v1 (z : Lane) (n : Nat) : Word := findD z.v n 0
/-- A pair: the even register holds bits [31:0] (R13). -/
def Lane.v2 (z : Lane) (n : Nat) : DWord := z.v1 (n + 1) ++ z.v1 n
def Crew.c1 (k : Crew) (n : Nat) : Word := findD k.c n 0
def Crew.c2 (k : Crew) (n : Nat) : DWord := k.c1 (n + 1) ++ k.c1 n

/-- An operand read in a lane, at one or two registers; `sgn` says that a 64-bit literal is sign-extended (R190). -/
def State.rd (s : State) (b : BRef) (t : Taken) (x : Args) (sgn : Bool) (regs l : Nat) (o : Opnd) : DWord :=
  match o with
  | .v n => if regs = 2 then (s.lane b l).v2 n.val else ((s.lane b l).v1 n.val).setWidth 64
  | .q n | .peek n => BitVec.ofNat 64 (t.elem n.val l % 2 ^ (32 * regs))
  | .c n => if regs = 2 then (s.crew b.core b.slot).c2 n.val else ((s.crew b.core b.slot).c1 n.val).setWidth 64
  | .p n => if (s.lane b l).pred n then 1 else 0
  | .special k => (s.special b l k).setWidth 64
  | .imm => if regs = 2 && sgn then x.lit.signExtend 64 else x.lit.setWidth 64
  | .t _ | .zero | .none => 0

/-- A group of `n` registers read in a lane (R253): consecutive v-registers, or the words of one port element. -/
def State.rdGroup (s : State) (b : BRef) (t : Taken) (n l : Nat) (o : Opnd) : List Word :=
  match o with
  | .v k => (List.range n).map fun j => (s.lane b l).v1 (k.val + j)
  | .q k | .peek k => (List.range n).map fun j => BitVec.ofNat 32 (t.elem k.val l / 2 ^ (32 * j))
  | _ => List.replicate n 0

/-- A quotient rounded up. -/
def ceilDiv (a b : Nat) : Nat := (a + b - 1) / b

/-- The context that an `ATTN`'s operand block names (Table 16-8). -/
def opCtx (b : Nat) : Nat := bits b 19 0
/-- Words of an `ATTN`'s output: `.s` gives one a position, `.o` the vector and lse (R303, R304). -/
def attnWords (o : Bool) (hdim lo hi : Nat) : Nat := if o then hdim + 1 else hi - lo
/-- The operand block of an `ATTN`, from a lane. -/
def State.opBlock (s : State) (t : Taken) (x : Args) (l : Nat) : Nat := leNat ((s.rdGroup s.ref t 4 l x.b).flatMap fun w => leBytes w.toNat 4)
/-- The registers that an `ATTN` delivers to (R304). -/
def State.attnRegs (s : State) (i : Instr) : Nat :=
  match i with
  | .attn o _ x =>
    match s.take s.ref (i.shape.getD default) x (s.act x), (s.act x).head? with
    | .ok t, some l =>
      let ob := s.opBlock t x l
      ceilDiv (attnWords o (findD s.ctxs (opCtx ob) default).hdim (bits ob 87 64) (bits ob 120 96)) 32
    | _, _ => 0
  | _ => 0

/-- A predicate field read in a lane; the zero operand reads 0 (R217, R224). -/
def State.rdPred (s : State) (b : BRef) (l : Nat) (o : Opnd) : Bool :=
  match o with
  | .p n => (s.lane b l).pred n
  | _ => false

/-! ### Tags (R22, Table 01-5) -/

/-- The rows of Table 01-5. -/
inductive TagRule
  | mov | addSub | neg | mul | shl | allUniform | general
deriving DecidableEq, Repr

def Bundle.tag (y : Bundle) (reg slice : Nat) : Tag := findD y.tags (8 * reg + slice) .uniform

/-- How a source counts in a slice; `half` is 1 for the high register of a pair. -/
def Bundle.srcTag (y : Bundle) (o : Opnd) (half slice : Nat) : Tag :=
  match o with
  | .v n => y.tag (n.val + half) slice
  | .special .lane => if half = 0 then .affine else .uniform
  | .p _ | .q _ | .peek _ => .general
  | _ => .uniform

/-- The tag of a 32-bit result from the tags of its sources. -/
def TagRule.of1 (r : TagRule) (a b c : Tag) : Tag :=
  match r with
  | .mov => a
  | .neg => a
  | .addSub =>
    if a = .uniform ∧ b = .uniform then .uniform else if a = .general ∨ b = .general then .general else .affine
  | .mul =>
    if a = .uniform ∧ b = .uniform then .uniform
    else if (a = .affine ∧ b = .uniform) ∨ (a = .uniform ∧ b = .affine) then .affine else .general
  | .shl =>
    if a = .uniform ∧ b = .uniform then .uniform else if a = .affine ∧ b = .uniform then .affine else .general
  | .allUniform => if a = .uniform ∧ b = .uniform ∧ c = .uniform then .uniform else .general
  | .general => .general

/-- Table 01-5 for one half of a result: `wide` forms keep a tag only where it lists them. -/
def Bundle.ruleTag (y : Bundle) (r : TagRule) (wide : Bool) (x : Args) (half slice : Nat) : Tag :=
  let u (o : Opnd) : Bool := y.srcTag o 0 slice == .uniform && y.srcTag o 1 slice == .uniform
  match r, wide with
  | .mov, _ => y.srcTag x.a half slice
  | .addSub, true => if u x.a && u x.b then .uniform else .general
  | _, true => .general
  | r, false => r.of1 (y.srcTag x.a 0 slice) (y.srcTag x.b 0 slice) (y.srcTag x.c 0 slice)

/-- The slices that hold a lane of `act`, and whether all four lanes of a slice are in it. -/
def slicesOf (act : List Nat) : List Nat := (List.range 8).filter fun k => act.any fun l => l / 4 == k
def wholeSlice (act : List Nat) (k : Nat) : Bool := (List.range 4).all fun i => act.contains (4 * k + i)

/-- New tags of a written register: general in a slice that is not whole; an affine result of stride 0 is uniform. -/
def newTags (act : List Nat) (reg : Nat) (tag : Nat → Tag) (val : Nat → Word) : List (Nat × Tag) :=
  (slicesOf act).map fun k =>
    (8 * reg + k,
      if wholeSlice act k then
        (if tag k = .affine ∧ val (4 * k) = val (4 * k + 1) then .uniform else tag k)
      else .general)

/-! ### Writing destinations -/

/-- Consecutive v-registers written in each lane of `act`. -/
def State.writeV (s : State) (b : BRef) (act : List Nat) (n : Nat) (vals : Nat → List Word) : State :=
  s.mapLanes b act fun l z => { z with v := (vals l).zipIdx.foldl (fun m e => put m (n + e.2) e.1) z.v }

/-- The tags that a destination's registers take, as rule and values give them. -/
def dstTags (act : List Nat) (d : Opnd) (regs : Nat) (tag : Nat → Nat → Tag) (vals : Nat → List Word) :
    List (Nat × Tag) :=
  match d with
  | .v n => (List.range regs).flatMap fun h =>
      newTags act (n.val + h) (tag h) fun l => (vals l).getD h 0
  | _ => []

/-- The result words written to a register destination: v-registers in every lane of `act`; crew registers from the
highest-numbered lane (R189); a port takes them as one push (R144); the zero operand discards them. -/
def State.writeDst (s : State) (b : BRef) (x : Args) (t : Taken) (act : List Nat) (regs : Nat) (vals : Nat → List Word) :
    State :=
  match x.d with
  | .v n => s.writeV b act n.val vals
  | .c n =>
    match act.getLast? with
    | none => s
    | some l => s.writeC b n.val (vals l)
  | .q n =>
    s.commitPush b n.val (4 * regs) act (t.push.getD ⟨[], []⟩) x.sched.setw fun l =>
      leNat ((vals l).flatMap fun w => leBytes w.toNat 4)
  | _ => s

def State.writePred (s : State) (b : BRef) (act : List Nat) (o : Opnd) (val : Nat → Bool) : State :=
  match o with
  | .p n => s.mapLanes b act fun l z => z.setPred n (val l)
  | _ => s

/-- The words of a 64-bit value, as many as the destination has registers. -/
def wordsOf (regs : Nat) (v : DWord) : List Word :=
  if regs = 2 then [v.setWidth 32, (v >>> 32).setWidth 32] else [v.setWidth 32]

/-- The lanes of `ws` wait as for `parkDone`, of an instruction that has popped the ports of `t`, or has made
its push. -/
def State.parkTaken (s : State) (t : Taken) (x : Args) (ws : List (Nat × Why)) : State :=
  let s1 := s.parkDone x ws
  if ws.isEmpty || !(t.push.isSome || t.pops.any fun p => !p.2.1) then s1
  else
    let y := s1.bundle s.ref
    s1.setBundle s.ref { y with parked := y.parked.dropLast ++ (y.parked.getLast?.map fun k => { k with taken := true }).toList }

/-! ### Instructions that compute lane results -/

/-- What a lane brings: its sources, read as values and, where they are predicates, as predicates. -/
structure LIn where
  lane : Nat
  on : Bool
  a : DWord
  b : DWord
  c : DWord
  pa : Bool
  pb : Bool
  pc : Bool
deriving DecidableEq, Repr

/-- What a lane gets: a value, a predicate (the destination, or the carry of `IADDC`), and the flags raised. -/
structure LOut where
  val : DWord := 0
  pred : Bool := false
  fl : FFlags := 0
deriving DecidableEq, Repr

def State.laneIn (s : State) (b : BRef) (t : Taken) (sh : Shape) (x : Args) (sgn : Bool) (act : List Nat) (l : Nat) : LIn :=
  { lane := l, on := act.contains l, a := s.rd b t x sgn sh.a.regs l x.a, b := s.rd b t x sgn sh.b.regs l x.b,
    c := s.rd b t x sgn sh.c.regs l x.c, pa := s.rdPred b l x.a, pb := s.rdPred b l x.b, pc := s.rdPred b l x.c }

/-- The result of a lane among those computed. -/
def outOf (outs : List (Nat × LOut)) (l : Nat) : LOut := ((outs.find? fun e => e.1 == l).map (·.2)).getD {}

/-- Whether the instruction pushes an entry, whose performance is still to come (R194). -/
def pushes (x : Args) (act : List Nat) : Bool :=
  match x.d with
  | .q _ => !act.isEmpty
  | _ => false

/-- A push whose records the matrix channel refuses stops the instruction (R281); anything else goes on to `k`. -/
def State.pushOr (s : State) (x : Args) (act : List Nat) (regs : Nat) (vals : Nat → List Word) (k : Unit → Out) : Out :=
  match x.d with
  | .q n =>
    match s.chanTrap s.ref n.val (4 * regs) act fun l => leNat ((vals l).flatMap fun w => leBytes w.toNat 4) with
    | some e => s.settle x (.error e)
    | none => k ()
  | _ => k ()

/-- The commit of lane results: pops, destination, tags, predicates and flags, and the instruction is at its end. An
instruction that pushes completes when its entry is performed (R194). -/
def State.commit (s : State) (sh : Shape) (x : Args) (t : Taken) (act : List Nat) (tags : List (Nat × Tag))
    (outs : List (Nat × LOut)) (fl : FFlags) : State :=
  let b := s.ref
  let s1 := s.commitPops b act t
  let s2 := if sh.d.kind == .predDst then s1.writePred b act x.d fun l => (outOf outs l).pred
    else s1.writeDst b x t act sh.d.regs fun l => wordsOf sh.d.regs (outOf outs l).val
  let s3 := if sh.c.kind == .pzCarry then s2.writePred b act x.c fun l => (outOf outs l).pred else s2
  ((s3.giveTags b tags).raise fl).finish x (!pushes x act)

/-- An instruction that acts on the lanes of its course together: `f` takes what every lane of the course brings and
gives the results of the lanes that are predicated on (R211, R215, R267). -/
def State.aluG (s : State) (i : Instr) (x : Args) (sgn : Bool) (rule : TagRule) (f : List LIn → List (Nat × LOut) × FFlags) :
    Out :=
  let sh := i.shape.getD default
  let act := s.act x
  match s.take s.ref sh x act with
  | .error e => s.settle x (.error e)
  | .ok t =>
    let r := f (s.lanes.map (s.laneIn s.ref t sh x sgn act))
    let tags := dstTags act x.d sh.d.regs
      (fun h k => (s.bundle s.ref).ruleTag rule (sh.d.regs = 2) x h k) fun l => wordsOf sh.d.regs (outOf r.1 l).val
    s.pushOr x act sh.d.regs (fun l => wordsOf sh.d.regs (outOf r.1 l).val) fun _ =>
      s.withRoom x act tags fun s1 => .next (s1.commit sh x t act tags r.1 r.2)

/-- An instruction that acts on each lane by itself. -/
def State.alu (s : State) (i : Instr) (x : Args) (sgn : Bool) (rule : TagRule) (f : LIn → LOut) : Out :=
  s.aluG i x sgn rule fun ls =>
    let outs := (ls.filter LIn.on).map fun e => (e.lane, f e)
    (outs, outs.foldl (fun a e => a ||| e.2.fl) 0)

/-- Whether a 64-bit literal of a form of this type is sign-extended (R190). -/
def litSext (t : Ty) : Bool := t == .b64 || t == .s64

end Sys2Proof.Machine
end

