-- ==== Sys2Proof/Machine/Order.lean ====
section
/-!
DEFINITION. Order between agents (R97-R104): scope instances, what an agent knows of other agents' writes, and the value a
read may return.

A location keeps the latest writes to it, newest first. A read may return any of them that is no older than the newest
write that happens before it (R102); which one is a free value. What happens before an agent's accesses is known by the
author of each write and the author's clock: for a lane the number of its operation, for an engine the place of the write
in the order of all writes. Releases hand such knowledge on and acquires take it (R100, R101).
-/

namespace Sys2Proof.Machine

/-! ### Scopes (R98, Table 05-1) -/

/-- The cores of an agent's gang; its own core outside a gang. -/
def State.gangCores (s : State) (a : Who) : List Nat :=
  match a.gang with
  | none => [a.core]
  | some g => (findD s.gangs g default).members.map fun e => e.2.1

/-- Whether scope `c` of agent `a` includes agent `b` (Table 05-1). The crew of a pigeonhole's bundle is that bundle
(R11, R39), so that its crew number says both. -/
def State.includes (s : State) (c : Scope) (a b : Who) : Bool :=
  match c with
  | .lane => a == b
  | .bundle => a.crew == b.crew && a.bundle == b.bundle
  | .crew => a.crew == b.crew
  | .core => a.core == b.core
  | .gang => (s.gangCores a).contains b.core
  | .die => dieOf a.core == dieOf b.core
  | .dev | .sys => true

/-- Mutual scope (R100). -/
def State.mutual_ (s : State) (sa : Scope) (a : Who) (sb : Scope) (b : Who) : Bool := s.includes sa a b && s.includes sb b a

/-- Scopes from the narrowest to the widest. -/
def scopeRank (c : Scope) : Nat :=
  match c with
  | .lane => 0 | .bundle => 1 | .crew => 2 | .core => 3 | .gang => 4 | .die => 5 | .dev => 6 | .sys => 7
/-- The wider of two scopes an operation may have. -/
def scopeMax (a b : Option Scope) : Option Scope :=
  match a, b with
  | some c, some d => some (if scopeRank c < scopeRank d then d else c)
  | some c, none => some c
  | none, d => d

/-- The number of an agent's instance of a scope, among those of that scope. -/
def Who.inst (a : Who) (c : Scope) : Nat :=
  8 * (match c with
    | .lane => (a.crew * 32 + a.bundle) * 32 + a.lane
    | .bundle => a.crew * 32 + a.bundle
    | .crew => a.crew
    | .core => a.core
    | .gang => (match a.gang with
      | some g => 2 * g + 1
      | none => 2 * a.core)
    | .die => dieOf a.core
    | .dev | .sys => 0) + scopeRank c

/-! ### Authors and views -/

/-- The number under which a lane writes; its writes to UN pages have a number of their own, since a release does not cover
them (R104). -/
def laneAuthor (agent bundle lane : Nat) (un : Bool) : Nat := agent * 4096 + bundle * 64 + 2 * lane + (if un then 1 else 0)
/-- The number under which a port's write queue writes. -/
def portAuthor (agent bundle port : Nat) (un : Bool) : Nat := agent * 4096 + 2048 + (bundle * 8 + port) * 2 + (if un then 1 else 0)
/-- The number under which a crew's commands in a queue write. -/
def queueAuthor (agent q : Nat) (un : Bool) : Nat := agent * 4096 + 3072 + 2 * q + (if un then 1 else 0)
/-! ### What a read may return (R102) -/

/-- A reader: what happens before its read, the authors whose every write does, and the newest writes it has read. -/
structure Reader where
  view : View
  own : List Nat
  floor : SMap Nat
deriving DecidableEq, Repr

def Reader.sees (r : Reader) (e : Ver) : Bool := r.own.contains e.author || r.view.knows e
/-- The oldest write of a location that a read may return. -/
def Reader.least (r : Reader) (c : Nat) (vs : List Ver) : Nat :=
  max (findD r.floor c 0) (((vs.find? r.sees).map (·.at_)).getD 0)

/-- The value of a location after the write `t` of the order of all writes, and the write it stems from. -/
def verAt (t : Nat) (cur : Byte) : List Ver → Byte × Option Ver
  | [] => (cur, none)
  | e :: r => if e.at_ ≤ t then (cur, some e) else verAt t e.old r

/-- Locations read together, single-copy atomic (R85): their values at one free moment that is not too early for any of
them. `cur` is what each holds now. -/
def State.readUnit (s : State) (r : Reader) (cur : List (Nat × Byte)) : State × List (Nat × Byte × Option Ver) :=
  let vs := cur.map fun e => (e.1, e.2, findD s.vers e.1 [])
  let lo := vs.foldl (fun a e => max a (r.least e.1 e.2.2)) 0
  let top := vs.foldl (fun a e => max a ((e.2.2.head?.map (·.at_)).getD 0)) 0
  if top ≤ lo then (s, vs.map fun e => (e.1, e.2.1, e.2.2.head?))
  else
    let t := s.clock - Config.readAge s.draws % (s.clock - lo + 1)
    ({ s with draws := s.draws + 1 }, vs.map fun e => (e.1, verAt t e.2.1 e.2.2))

/-- Locations read in units of `n` bytes each, the order of the units being free (R102, R251). -/
def State.readUnits (s : State) (r : Reader) (n : Nat) : Nat → List (Nat × Byte) → State × List (Nat × Byte × Option Ver)
  | 0, _ => (s, [])
  | f + 1, cur =>
    if cur.isEmpty then (s, [])
    else
      let a := s.readUnit r (cur.take (max n 1))
      let b := State.readUnits a.1 r n f (cur.drop (max n 1))
      (b.1, a.2 ++ b.2)

def State.readAs (s : State) (r : Reader) (n : Nat) (cur : List (Nat × Byte)) : State × List (Nat × Byte × Option Ver) :=
  s.readUnits r n cur.length cur

/-! ### Writes (R102) -/

/-- Who writes: the author, its clock, whether an atomic, and what a release carries. -/
structure Wr where
  author : Nat
  seq : Nat
  atom : Bool
  rel : Option (Who × Scope × View)
deriving DecidableEq, Repr

/-- A write takes its place in the order of all writes: each location with the byte it is about to replace. -/
def State.note (s : State) (w : Wr) (old : List (Nat × Byte)) : State :=
  let n := s.clock + 1
  { s with
    clock := n,
    vers := old.foldl (fun m e => put m e.1 (⟨n, w.author, w.seq, w.atom, e.2⟩ :: findD m e.1 [])) s.vers,
    rels := (match w.rel with
      | none => s.rels
      | some (a, c, v) => old.foldl (fun m e => put m e.1 (⟨n, a, c, v⟩ :: findD m e.1 [])) s.rels) }

/-- The releases that a read of a write reads from: the write's own, and those that an atomic follows (R100). -/
def State.relsOf (s : State) (c : Nat) (e : Option Ver) : List Rel :=
  match e with
  | none => []
  | some e => (findD s.rels c []).filter fun r => r.at_ == e.at_ || (e.atom && decide (r.at_ < e.at_))

/-! ### Locations of scratchpad -/

/-- A byte of an allocation as a location: by the number of its crew, which it keeps wherever it is restored. -/
def State.scrCell (s : State) (c k off : Nat) : Nat := 2 ^ 64 + (s.crew c k).agent * 2 ^ 20 + off
/-- `n` bytes of an allocation with what they hold. -/
def State.scrCur (s : State) (c k off n : Nat) : List (Nat × Byte) :=
  ((s.scr c k).readN off n).zipIdx.map fun e => (s.scrCell c k (off + e.2), e.1)

/-! ### Lanes -/

def State.agentOf (s : State) (b : BRef) : Nat := (s.crew b.core b.slot).agent
def State.who (s : State) (b : BRef) (lane : Nat) : Who :=
  ⟨b.core, s.agentOf b, b.bundle, lane, (s.crew b.core b.slot).gang⟩
def State.setMind (s : State) (b : BRef) (lane : Nat) (f : Mind → Mind) : State :=
  if s.hasBundle b then s.mapLanes b [lane] fun _ z => { z with mind := f z.mind } else s

def State.learn (s : State) (b : BRef) (lane n : Nat) (v : View) : State :=
  if v.isEmpty then s else s.setMind b lane fun m => m.learn n v
/-- Lanes acquire something now. -/
def State.learnAll (s : State) (b : BRef) (ls : List Nat) (v : View) : State :=
  ls.foldl (fun s l => s.learn b l s.opSeq v) s

/-- What happens before a lane's operation `n`: what it has acquired, and its own accesses, those to UN pages as far as a
`FENCE` of scope .sys has ordered them. -/
def State.before (s : State) (b : BRef) (lane n : Nat) : View :=
  ((s.lane b lane).mind.at_ n).bump (laneAuthor (s.agentOf b) b.bundle lane false) n
/-- What lanes release to something that they issue as operation `n` (R107). -/
def State.released (s : State) (b : BRef) (ls : List Nat) (n : Nat) : View :=
  ls.foldl (fun v l => v.join (s.before b l n)) []

/-- A lane as a reader, for its operation `n`, or for one on a UN page that `FENCE`s have ordered up to `n` (R104). -/
def State.laneReader (s : State) (b : BRef) (lane n : Nat) : Reader :=
  let a := s.agentOf b
  ⟨(s.lane b lane).mind.at_ n, [laneAuthor a b.bundle lane false, laneAuthor a b.bundle lane true], (s.lane b lane).mind.floor⟩

/-- What a lane has read is the oldest that it reads of the same locations later (R102). -/
def State.raiseFloor (s : State) (b : BRef) (lane : Nat) (r : Reader) (got : List (Nat × Byte × Option Ver)) : State :=
  let new := got.filterMap fun e =>
    match e.2.2 with
    | some v => if r.sees v then none else some (e.1, v.at_)
    | none => none
  if new.isEmpty then s
  else s.setMind b lane fun m => { m with floor := new.foldl (fun f e => View.bump f e.1 e.2) m.floor }

/-- A lane's load or atomic, its operation `n`, has read some releases' values: it acquires those of mutual scope (R100). -/
def State.syncWith (s : State) (b : BRef) (lane n : Nat) (acq : Option Scope) (rs : List Rel) : State :=
  match acq with
  | none => s
  | some c => rs.foldl (fun s r => if s.mutual_ r.scope r.who c (s.who b lane) then s.learn b lane (n + 1) r.view else s) s

/-! ### Fences (R101) -/

/-- A `FENCE.ar` of a lane takes its place in the fence order: it acquires what the fences before it in its instance of the
scope have ordered, and hands on its own. -/
def State.fenceOrder (s : State) (b : BRef) (lane n : Nat) (c : Scope) : State :=
  let k := (s.who b lane).inst c
  let s1 := s.learn b lane n (findD s.fences k [])
  { s1 with fences := put s1.fences k ((findD s1.fences k []).join (s1.before b lane n)) }

end Sys2Proof.Machine
end

