-- ==== Sys2Proof/Machine/Access.lean ====
section
/-!
DEFINITION. Accesses that are outstanding, and their performance (R96, R100-R106, R180, R194, R251, R252, R258; DEDUCED,
assumption 7).
-/

namespace Sys2Proof.Machine

/-- The update of an atomic (R258); float addition rounds to nearest and raises no flag. -/
def atomNew (op : AtomOp) (t : ATy) (old b : Nat) : Nat :=
  let w := 32 * t.regs
  let signed := t == .s32 || t == .s64
  match op with
  | .add => if t == .f32 then rneAdd old b else (old + b) % 2 ^ w
  | .min => if signed then (if sext w old ≤ sext w b then old else b) else min old b
  | .max => if signed then (if sext w b ≤ sext w old then old else b) else max old b
  | .and => old &&& b
  | .or => old ||| b
  | .xor => old ^^^ b
  | .exch => b

/-! ### Parts (R85, R105) -/

/-- The bytes of an access that are single-copy atomic together (R85, R253). -/
def atomicUnit (va n : Nat) : Nat :=
  if (n == 1 || n == 2 || n == 4 || n == 8 || n == 16) && va % n == 0 then n
  else if (n == 32 || n == 64) && va % 16 == 0 then 16 else 1

/-- The ordering of a load or store as the acquire and the release that it is (R99). -/
def orderAcq (o : Order) : Option Scope := if o.kind = .acq ∨ o.kind = .ar then some o.scope else none
def orderRel (o : Order) : Option Scope := if o.kind = .rel ∨ o.kind = .ar then some o.scope else none

/-- The parts of a lane's translated access, one for each page it touches (R105); an access to an SO page acquires and
releases at .dev (R103). -/
def Xl.parts (x : Xl) (lane n : Nat) (reads writes : Bool) (o : Order) (rel : Option Scope) (un : Nat) (data : List Byte) :
    List Part :=
  let cut (t : Tlb) : Nat := ((List.range x.cells.length).filter fun i => x.es.length ≤ 1 || tlbHits t.asid (x.va + i) t).length
  let mk (t : Tlb) (at_ n' : Nat) : Part :=
    let so := t.ord == .so
    { lane := lane, off := at_, cells := (x.cells.drop at_).take n', data := (data.drop at_).take n', va := x.va + at_,
      unit := atomicUnit x.va n, ord := t.ord, far := t.far,
      acq := scopeMax (orderAcq o) (if so && reads then some .dev else none),
      rel := scopeMax (scopeMax (orderRel o) rel) (if so && writes then some .dev else none), un := un, scr := none }
  match x.es with
  | [] => []
  | [t] => [mk t 0 x.cells.length]
  | t :: u :: _ => [mk t 0 (cut t), mk u (cut t) (x.cells.length - cut t)]

/-- The parts of a lane's scratchpad access, one for each line it touches (R105). -/
def State.scrParts (s : State) (lane c k off n : Nat) (o : Order) (rel : Option Scope) (un : Nat) (data : List Byte) : List Part :=
  (linesTouched off n).map fun l =>
    let from_ := max off (l * 128)
    let len := min (off + n) ((l + 1) * 128) - from_
    { lane := lane, off := from_ - off, cells := (List.range len).map fun i => s.scrCell c k (from_ + i),
      data := (data.drop (from_ - off)).take len, va := from_, unit := atomicUnit off n, ord := .rc, far := false,
      acq := (orderAcq o), rel := scopeMax (orderRel o) rel, un := un, scr := some (c, k, from_) }

/-! ### What an access waits for (R102-R104) -/

/-- Whether a later part of a lane's accesses waits for an earlier one, of operation `n`: they meet in a location, the later
is a release, the earlier is an acquire, or one of them is on an SO page. Accesses to UN pages are ordered by their location
and by a `FENCE` of scope .sys (R104). -/
def Part.holds (n : Nat) (q p : Part) : Bool :=
  q.lane == p.lane &&
    (q.cells.any (fun c => p.cells.contains c) ||
      (p.rel.isSome && (q.ord != .un || decide (n < p.un))) ||
      (q.acq.isSome && (p.ord != .un || decide (n ≤ p.un))) ||
      ((q.ord == .so || p.ord == .so) && q.ord != .un && p.ord != .un))

/-- Whether accesses of a lane that are outstanding hold a part that is about to be performed. -/
def State.partHeld (s : State) (b : BRef) (p : Part) : Bool :=
  (s.core b.core).pend.any fun q => q.ref == b && q.parts.any fun a => Part.holds q.id a p

/-- Whether some lanes, each with its `Mind.un`, have accesses outstanding that their operation `n` is ordered after when it
is a release (R99, R104, R107). -/
def State.owes (s : State) (b : BRef) (by_ : List (Nat × Nat)) (n : Nat) : Bool :=
  (s.core b.core).pend.any fun q => q.ref == b && decide (q.id < n) && q.parts.any fun a =>
    by_.any fun e => e.1 == a.lane && (a.ord != .un || decide (q.id < e.2))

/-- A release that acts at issue waits until the lanes' earlier accesses have been performed. -/
def State.awaitOwn (s : State) (ls : List Nat) : Res Unit :=
  match ls.filter fun l => s.owes s.ref (s.unsOf s.ref [l]) (s.opSeq + 1) with
  | [] => .ok ()
  | l :: r => .error (.wait ((l :: r).map fun l => (l, .accesses)))

/-- What acts at issue on some locations waits until the lane's earlier accesses to them have been performed (R102). -/
def State.awaitCells (s : State) (as : List (Nat × List Nat)) : Res Unit :=
  let held := as.filter fun a => (s.core s.cur.core).pend.any fun q => q.ref == s.ref && q.parts.any fun p =>
    p.lane == a.1 && p.cells.any fun c => a.2.contains c
  if held.isEmpty then .ok () else .error (.wait (held.map fun a => (a.1, .accesses)))

/-! ### Results -/

/-- Registers written by results that arrive: values, tags already set at issue, pending bits cleared (R196). -/
def clearPend (m : BitVec 256) (n regs : Nat) : BitVec 256 :=
  (List.range regs).foldl (fun m j => m &&& ~~~(1#256 <<< (n + j))) m
def setPend (m : BitVec 256) (n regs : Nat) : BitVec 256 :=
  (List.range regs).foldl (fun m j => m ||| (1#256 <<< (n + j))) m

/-- Elements of a push whose data have come, a lane's from its result words. -/
def PushEnt.fill (e : PushEnt) (vals : List (Nat × List Word)) : PushEnt :=
  let now (l : Nat) : Bool := e.owed.contains l && vals.any fun v => v.1 == l
  { e with
    owed := e.owed.filter fun l => !now l,
    els := e.els.map fun t =>
      if now t.1 then
        let ws := ((vals.find? fun v => v.1 == t.1).map (·.2)).getD []
        (t.1, t.2.1, leBytes (leNat (ws.flatMap fun w => leBytes w.toNat 4)) t.2.2.length)
      else t }

/-- Result words of operation `id` arrive in the destination of an instruction that has already left its course. -/
def State.land (s : State) (b : BRef) (id : Nat) (dst : Opnd) (vals : List (Nat × List Word)) : State :=
  if s.hasBundle b then
    match dst with
    | .v n =>
      s.mapLanes b (vals.map (·.1)) fun l z =>
        let ws := ((vals.find? fun e => e.1 == l).map (·.2)).getD []
        { z with v := ws.zipIdx.foldl (fun m e => put m (n.val + e.2) e.1) z.v, pendV := clearPend z.pendV n.val ws.length }
    | .c n =>
      match vals.getLast? with
      | none => s
      | some e => s.writeC b n.val e.2
    | .q n =>
      let q := s.port b n.val
      s.setPort b n.val { q with wq := q.wq.map fun w => match w with
        | .push e => if e.id = id then .push (e.fill vals) else w
        | .fence _ => w }
    | _ => s
  else s

/-- An asynchronous POISON with the address of the line (R252). -/
def poisonInfo (va : Nat) : TrapInfo :=
  ⟨6, 0, 0, BitVec.ofNat 32 (va / 64 * 64), BitVec.ofNat 32 (bits va 55 32)⟩
/-- A bundle's crew has an asynchronous POISON for each line that an instruction of it has met (R252, R260). -/
def State.metPoison (s : State) (b : BRef) (lines : List Nat) : State :=
  lines.eraseDups.foldl (fun s l => s.async b.core b.slot (poisonInfo l)) s

/-- The addresses of the poisoned lines that a part touches. -/
def State.partPoison (s : State) (a : Part) : List Nat :=
  if a.scr.isSome then []
  else ((a.cells.zipIdx.filter fun c => s.cellPoison c.1).map fun c => (a.va + c.2) / 64 * 64).eraseDups

/-- A loaded value as register words (R250, R253). -/
def loadWords (sgn : Bool) (bs : List Byte) : List Word :=
  if bs.length < 4 then
    let n := leNat bs
    [if sgn then BitVec.ofInt 32 (sext (8 * bs.length) n) else BitVec.ofNat 32 n]
  else (List.range (bs.length / 4)).map fun j => BitVec.ofNat 32 (leNat (bs.drop (4 * j)))

/-! ### Reading and writing locations -/

/-- The locations of a part with what they hold now. -/
def State.partCur (s : State) (a : Part) : List (Nat × Byte) :=
  match a.scr with
  | some (c, k, off) => a.cells.zip ((s.scr c k).readN off a.cells.length)
  | none => a.cells.zip (s.cells a.cells)

/-- A part is written. An allocation whose crew has gone takes nothing (DESIGN CHOICE, assumption 8). -/
def State.writePart (s : State) (w : Wr) (a : Part) (bs : List Byte) : State :=
  match a.scr with
  | none => (s.note w (a.cells.map fun c => (c, s.cell c))).storeBytes (a.cells.zip bs)
  | some (c, k, off) =>
    if a.cells.head? = some (s.scrCell c k off) then
      let s1 := match w.rel with
        | some (_, _, v) => ((List.range ((off % 8 + bs.length + 7) / 8)).map fun i => (off / 8 + i) * 8).foldl
            (fun (s : State) o => s.rwAdd c k o v) s
        | none => s
      (s1.note w (s.partCur a)).storeScr c k off bs
    else s

/-- How a lane writes in its operation `n`: a release hands on what happens before it and the write itself (R100). -/
def State.laneWr (s : State) (b : BRef) (n : Nat) (a : Part) (atom : Bool) : Wr :=
  ⟨laneAuthor (s.agentOf b) b.bundle a.lane (a.ord == .un), n, atom,
    a.rel.map fun c => (s.who b a.lane, c,
      (s.before b a.lane n).bump (laneAuthor (s.agentOf b) b.bundle a.lane (a.ord == .un)) (n + 1))⟩

/-- A lane's operation `n` has read values; the releases among them, for the lane's own acquire and for a later
`FENCE.acq` (R99, R100). Observing a line full is an acquire too (R87). -/
def State.readDone (s : State) (b : BRef) (n : Nat) (a : Part) (r : Reader) (got : List (Nat × Byte × Option Ver)) : State :=
  let rs := got.flatMap fun e => s.relsOf e.1 e.2.2
  let s1 := (s.raiseFloor b a.lane r got).syncWith b a.lane n a.acq rs
  let s2 := if rs.isEmpty then s1 else s1.setMind b a.lane fun m => match m.last with
    | some (i, l) => if i = n then { m with last := some (i, l ++ rs) } else m
    | none => m
  match a.scr with
  | some (c, k, off) =>
    let y := s.crew c k
    if y.lineView.isEmpty then s2
    else (linesTouched off a.cells.length).foldl (fun s l => s.learn b a.lane (n + 1) (findD y.lineView l [])) s2
  | none => s2

/-- A part is read by a plain load (R102). -/
def State.readPart (s : State) (b : BRef) (n : Nat) (a : Part) : State × List Byte :=
  let r := s.laneReader b a.lane (if a.ord = .un then a.un else n)
  let g := s.readAs r a.unit (s.partCur a)
  (g.1.readDone b n a r g.2,
    g.2.map fun e => if a.scr.isNone && s.cellPoison e.1 then 0 else e.2.1)

/-- One indivisible read and write of a part (R106): the newest value is read, and the new one written. -/
def State.updatePart (s : State) (b : BRef) (n : Nat) (a : Part) (f : List Byte → Option (List Byte)) : State × List Byte :=
  let r := s.laneReader b a.lane n
  let cur := s.partCur a
  let old := cur.map (·.2)
  let s1 := s.readDone b n a r (cur.map fun e => (e.1, e.2, (findD s.vers e.1 []).head?))
  match f old with
  | some bs => (s1.writePart (s1.laneWr b n a true) a bs, old)
  | none => (s1, old)

/-! ### Performing -/

/-- A write of a part ends a tier state that a write ends (Table 09-4). -/
def State.wrotePart (s : State) (a : Part) : State := if a.scr.isSome then s else s.wrotePage a.va

/-- One part of an outstanding instruction is performed; what a load has read of it. -/
def State.performPart (s : State) (p : Pend) (a : Part) : State × List Byte :=
  match p.kind with
  | .load _ _ => s.readPart p.ref p.id a
  | .store | .msend _ => ((s.wrotePart a).writePart (s.laneWr p.ref p.id a false) a a.data, [])
  | .redg op t =>
    if !(s.partPoison a).isEmpty then (s, [])
    else (s.wrotePart a).updatePart p.ref p.id a fun old =>
      some (leBytes (atomNew op t (leNat old) (leNat a.data)) a.data.length)
  | .fence c => (s.fenceOrder p.ref a.lane p.id c, [])
  | .atom _ _ | .pref => (s, [])

/-- The bytes of each lane's access, from those of its parts. -/
def Pend.lanes (p : Pend) : List (Nat × List Byte) :=
  ((p.got.map (·.1)).eraseDups).map fun l =>
    (l, ((p.got.filter fun g => g.1 == l).foldl (fun (acc : List (Nat × Nat × List Byte)) g =>
      (acc.filter fun h => decide (h.2.1 < g.2.1)) ++ [g] ++ acc.filter fun h => decide (g.2.1 < h.2.1)) []).flatMap fun g => g.2.2)

/-- The poisoned lines that a part of an entry meets. -/
def State.partMet (s : State) (p : Pend) (a : Part) : List Nat :=
  match p.kind with
  | .load _ _ | .redg _ _ => s.partPoison a
  | _ => []

/-- The end of an instruction whose every part has been performed: the POISON it has met, its results, its SETW mark, and the
weight of its messages. -/
def State.pendDone (s0 : State) (p : Pend) : State :=
  let s := s0.metPoison p.ref p.bad
  match p.kind with
  | .load sgn _ => (s.land p.ref p.id p.dst (p.lanes.map fun v => (v.1, loadWords sgn v.2))).flagDec p.ref p.setw
  | .atom _ _ => (s.land p.ref p.id p.dst (p.lanes.map fun v => (v.1, loadWords false v.2))).flagDec p.ref p.setw
  | .msend ws =>
    let s1 := s.flagDec p.ref p.setw
    let v := s.released p.ref (p.got.map (·.1)) (p.id + 1)
    { s1 with qmsgs := s1.qmsgs ++ (ws.filter fun w => w.1 != 0).map fun w => ⟨.ret, w.2, w.1, ⟨0, 0, 0⟩, 0, false, v⟩ }
  | .store | .redg _ _ | .fence _ | .pref => s.flagDec p.ref p.setw

/-! ### The far-read limiter (R180) -/

/-- Accesses that read a far page through the limiter. -/
def PKind.limited (k : PKind) : Bool :=
  match k with
  | .load _ _ | .pref => true
  | _ => false

/-- Whether a request that waits at the limiter still stands. -/
def State.farStands (s : State) (core : Nat) (q : FarReq) : Bool :=
  let k := s.core core
  let head (n : Nat) : Option Cmd := match findD k.queues n [] with
    | .cmd c :: _ => some c
    | _ => none
  match q with
  | .access id => k.pend.any fun p => p.id == id
  | .copy n => (head n).any fun c => match c.body with
    | .copy y => y.far
    | _ => false
  | .attn => (head 5).any fun c => match c.body with
    | .attn a => a.started.isSome && !c.suspended && !a.poison
    | _ => false
  | .fetch b 8 => s.hasBundle b && (s.bundle b).parked.any fun p => p.waits.any fun w => w.2 == .accesses
  | .fetch b n =>
    let p := s.port b n
    s.hasBundle b && p.bound && !descWrite p.d && decide (p.pos < p.len) &&
      (List.range (min 128 (p.len - p.pos))).any fun i => (find p.buf (p.pos + i)).isNone

/-- A far request asks for a unit: it has one when the budget lasts for it and for those that waited before it; otherwise it
waits, first in first out, and has been counted (R389). -/
def State.farAsk (s : State) (core : Nat) (q : FarReq) : State × Bool :=
  let k := s.core core
  if k.cfg.farB == 0 then (s, true)
  else
    let l := k.farQ.filter (s.farStands core)
    let i := l.idxOf q
    if i < k.farLeft then (s.setCore core { k with farLeft := k.farLeft - 1, farQ := l.eraseIdx i }, true)
    else if i < l.length then (s.setCore core { k with farQ := l }, false)
    else ((s.setCore core { k with farQ := l ++ [q] }).count 8 1, false)

/-! ### Steps of an outstanding instruction -/

/-- Whether the next part of an entry may be performed now: nothing of its lane that it is ordered after is outstanding, no
course of the same cycle touched its scratchpad bytes before it (R251), none of its lines is being refetched, and a page
that it writes is not being promoted (Table 09-4). -/
def State.eligible (s : State) (core idx : Nat) : Bool :=
  let k := s.core core
  match k.pend[idx]? with
  | none => false
  | some p =>
    match p.parts with
    | [] => true
    | a :: _ =>
      (k.pend.take idx).all (fun q =>
        !(q.ref == p.ref && q.parts.any fun e => Part.holds q.id e a) &&
          !(q.cyc == p.cyc && a.scr.isSome && q.parts.any fun e => e.cells.any fun c => a.cells.contains c)) &&
        (a.scr.isSome || a.cells.all fun c => (s.refetching c).isNone) &&
        (match p.kind with
          | .store | .msend _ | .redg _ _ => a.scr.isSome || !s.promoting a.va
          | _ => true)

/-- The next parts of an entry are performed, `n` at most, as far as they may be and the far-read limiter lets them. -/
def State.performUpTo (s : State) (core idx : Nat) : Nat → State
  | 0 => s
  | n + 1 =>
    match (s.core core).pend[idx]? with
    | none => s
    | some p =>
      match p.parts with
      | [] => s
      | a :: r =>
        if !s.eligible core idx then s
        else
          let f := if a.far && p.kind.limited then s.farAsk core (.access p.id) else (s, true)
          if !f.2 then f.1
          else
            let q := f.1.performPart p a
            State.performUpTo (q.1.setCore core { q.1.core core with
              pend := (q.1.core core).pend.set idx { p with parts := r, got := p.got ++ [(a.lane, a.off, q.2)], bad := p.bad ++ f.1.partMet p a } }) core idx n

/-- An entry with no part left ends. -/
def State.closePend (s : State) (core idx : Nat) : State :=
  match (s.core core).pend[idx]? with
  | none => s
  | some p =>
    if p.parts.isEmpty then (s.setCore core { s.core core with pend := (s.core core).pend.eraseIdx idx }).pendDone p else s

/-- Courses whose own accesses may be outstanding no more execute again. -/
def State.wakeOwn (s : State) (b : BRef) : State := s.resume b fun w => w == .accesses

/-- Whether an entry is a `FENCE.ar` that takes its place in the fence order now. -/
def State.fenceReady (s : State) (core idx : Nat) : Bool :=
  s.eligible core idx && (match (s.core core).pend[idx]? with
    | some p => (match p.kind with
      | .fence _ => true
      | _ => false)
    | none => false)

/-- `FENCE.ar`s with nothing left before them take their place in the fence order. -/
def State.passOwnFences (s : State) (core : Nat) : Nat → State
  | 0 => s
  | n + 1 =>
    match (List.range (s.core core).pend.length).find? (s.fenceReady core) with
    | none => s
    | some i => State.passOwnFences ((s.performUpTo core i 32).closePend core i) core n

/-- One event of an outstanding instruction: some of its parts are performed, in ascending lane order, the rest later
(R105, R251). -/
def State.performAt (s : State) (core idx : Nat) : State :=
  match (s.core core).pend[idx]? with
  | none => s
  | some p =>
    let m := p.parts.length
    let keep := if m ≤ 1 then 0 else Config.partsLeft s.draws % m
    let s0 := if m ≤ 1 then s else { s with draws := s.draws + 1 }
    (((s0.performUpTo core idx (m - keep)).closePend core idx).passOwnFences core 64).wakeOwn p.ref

def State.addPend (s : State) (core : Nat) (p : Pend) : State :=
  s.setCore core { s.core core with pend := (s.core core).pend ++ [p] }

end Sys2Proof.Machine
end

