-- ==== Sys2Proof/Decode.lean ====
section
/-!
DEFINITION. The instruction word (Table 11-1), its decoder, and the encoder written from the same tables.
-/

namespace Sys2Proof

/-- A word cut into the fields of Table 11-1. -/
structure Fields where
  opc : BitVec 12
  pred : BitVec 4
  dst : BitVec 10
  a : BitVec 10
  b : BitVec 10
  c : BitVec 10
  mod : BitVec 8
  imm : BitVec 32
  sched : BitVec 32
deriving DecidableEq, Repr

/-- The fields of a 128-bit word (R186). -/
def Fields.split (w : BitVec 128) : Fields where
  opc := w.extractLsb' 0 12
  pred := w.extractLsb' 12 4
  dst := w.extractLsb' 16 10
  a := w.extractLsb' 26 10
  b := w.extractLsb' 36 10
  c := w.extractLsb' 46 10
  mod := w.extractLsb' 56 8
  imm := w.extractLsb' 64 32
  sched := w.extractLsb' 96 32

/-- The word with these fields. -/
def Fields.join (f : Fields) : BitVec 128 :=
  f.sched ++ f.imm ++ f.mod ++ f.c ++ f.b ++ f.a ++ f.dst ++ f.pred ++ f.opc

/-- Table 11-3. -/
def Ty.code : Ty → BitVec 4
  | .b32 => 0
  | .s32 => 1
  | .n32 => 2
  | .b64 => 3
  | .s64 => 4
  | .n64 => 5
  | .s8 => 6
  | .n8 => 7
  | .s16 => 8
  | .n16 => 9
  | .f32 => 10
  | .f16 => 11
  | .bf16 => 12
  | .f16x2 => 13
  | .bf16x2 => 14
  | .block => 15

def Ty.ofCode (c : BitVec 4) : Ty :=
  match c.toNat with
  | 0 => .b32
  | 1 => .s32
  | 2 => .n32
  | 3 => .b64
  | 4 => .s64
  | 5 => .n64
  | 6 => .s8
  | 7 => .n8
  | 8 => .s16
  | 9 => .n16
  | 10 => .f32
  | 11 => .f16
  | 12 => .bf16
  | 13 => .f16x2
  | 14 => .bf16x2
  | _ => .block

/-- Table 11-4, RM. -/
def Rm.code : Rm → BitVec 3
  | .fmode => 0
  | .rn => 4
  | .rz => 5
  | .rd => 6
  | .ru => 7

def Rm.ofCode (c : BitVec 3) : Option Rm :=
  match c.toNat with
  | 0 => some .fmode
  | 4 => some .rn
  | 5 => some .rz
  | 6 => some .rd
  | 7 => some .ru
  | _ => none

/-- Table 11-4, OR. -/
def OrdKind.code : OrdKind → BitVec 2
  | .rlx => 0
  | .acq => 1
  | .rel => 2
  | .ar => 3

def OrdKind.ofCode (c : BitVec 2) : OrdKind :=
  match c.toNat with
  | 0 => .rlx | 1 => .acq | 2 => .rel | _ => .ar

/-- Table 11-4, SC. -/
def Scope.code : Scope → BitVec 3
  | .lane => 0
  | .bundle => 1
  | .crew => 2
  | .core => 3
  | .gang => 4
  | .die => 5
  | .dev => 6
  | .sys => 7

def Scope.ofCode (c : BitVec 3) : Scope :=
  match c.toNat with
  | 0 => .lane | 1 => .bundle | 2 => .crew | 3 => .core | 4 => .gang | 5 => .die | 6 => .dev | _ => .sys

/-- MW. -/
def MemW.code : MemW → BitVec 3
  | .n8 => 0
  | .s8 => 1
  | .n16 => 2
  | .s16 => 3
  | .b32 => 4
  | .b64 => 5

def MemW.ofCode (c : BitVec 3) : Option MemW :=
  match c.toNat with
  | 0 => some .n8
  | 1 => some .s8
  | 2 => some .n16
  | 3 => some .s16
  | 4 => some .b32
  | 5 => some .b64
  | _ => none

/-- MW of the V forms. -/
def VecN.code : VecN → BitVec 3
  | .x2 => 0
  | .x4 => 1
  | .x8 => 2
  | .x16 => 3

def VecN.ofCode (c : BitVec 3) : Option VecN :=
  match c.toNat with
  | 0 => some .x2
  | 1 => some .x4
  | 2 => some .x8
  | 3 => some .x16
  | _ => none

/-- AT. -/
def ATy.code : ATy → BitVec 3
  | .b32 => 0
  | .s32 => 1
  | .n32 => 2
  | .b64 => 3
  | .s64 => 4
  | .n64 => 5
  | .f32 => 6

def ATy.ofCode (c : BitVec 3) : Option ATy :=
  match c.toNat with
  | 0 => some .b32
  | 1 => some .s32
  | 2 => some .n32
  | 3 => some .b64
  | 4 => some .s64
  | 5 => some .n64
  | 6 => some .f32
  | _ => none

/-- IMM[31:28]. -/
def AtomOp.code : AtomOp → BitVec 4
  | .add => 0
  | .min => 1
  | .max => 2
  | .and => 3
  | .or => 4
  | .xor => 5
  | .exch => 6

def AtomOp.ofCode (c : BitVec 4) : Option AtomOp :=
  match c.toNat with
  | 0 => some .add
  | 1 => some .min
  | 2 => some .max
  | 3 => some .and
  | 4 => some .or
  | 5 => some .xor
  | 6 => some .exch
  | _ => none

/-- Table 13-2. -/
def ICond.code : ICond → BitVec 4
  | .eq => 0
  | .ne => 1
  | .lt => 2
  | .le => 3
  | .gt => 4
  | .ge => 5

def ICond.ofCode (c : BitVec 4) : Option ICond :=
  match c.toNat with
  | 0 => some .eq
  | 1 => some .ne
  | 2 => some .lt
  | 3 => some .le
  | 4 => some .gt
  | 5 => some .ge
  | _ => none

/-- Table 13-5. -/
def FCond.code : FCond → BitVec 4
  | .eq => 0
  | .ne => 1
  | .lt => 2
  | .le => 3
  | .gt => 4
  | .ge => 5
  | .un => 6
  | .ord => 7

def FCond.ofCode (c : BitVec 4) : Option FCond :=
  match c.toNat with
  | 0 => some .eq
  | 1 => some .ne
  | 2 => some .lt
  | 3 => some .le
  | 4 => some .gt
  | 5 => some .ge
  | 6 => some .un
  | 7 => some .ord
  | _ => none

/-- Table 14-4. -/
def CbarOp.code : CbarOp → BitVec 3
  | .none => 0
  | .add => 1
  | .min => 2
  | .max => 3
  | .and => 4
  | .or => 5

def CbarOp.ofCode (c : BitVec 3) : Option CbarOp :=
  match c.toNat with
  | 0 => some .none
  | 1 => some .add
  | 2 => some .min
  | 3 => some .max
  | 4 => some .and
  | 5 => some .or
  | _ => none

/-- Table 14-7. -/
def RedOp.code : RedOp → BitVec 3
  | .add => 0
  | .min => 1
  | .max => 2
  | .and => 3
  | .or => 4
  | .xor => 5

def RedOp.ofCode (c : BitVec 3) : Option RedOp :=
  match c.toNat with
  | 0 => some .add
  | 1 => some .min
  | 2 => some .max
  | 3 => some .and
  | 4 => some .or
  | 5 => some .xor
  | _ => none

/-- Table 14-7. -/
def VoteMode.code : VoteMode → BitVec 4
  | .all => 0
  | .any => 1
  | .uni => 2

def VoteMode.ofCode (c : BitVec 4) : Option VoteMode :=
  match c.toNat with
  | 0 => some .all
  | 1 => some .any
  | 2 => some .uni
  | _ => none

/-- Table 14-7. -/
def ShflMode.code : ShflMode → BitVec 4
  | .idx => 0
  | .up => 1
  | .down => 2
  | .xor => 3

def ShflMode.ofCode (c : BitVec 4) : Option ShflMode :=
  match c.toNat with
  | 0 => some .idx
  | 1 => some .up
  | 2 => some .down
  | 3 => some .xor
  | _ => none

/-- Table 14-2. -/
def LineSt.code : LineSt → BitVec 3
  | .empty => 0
  | .full => 1
  | .poisoned => 2

def LineSt.ofCode (c : BitVec 3) : Option LineSt :=
  match c.toNat with
  | 0 => some .empty
  | 1 => some .full
  | 2 => some .poisoned
  | _ => none

/-- Table 14-2. -/
def CctlVar.code : CctlVar → BitVec 3
  | .wb => 0
  | .inv => 1
  | .wbinv => 2

def CctlVar.ofCode (c : BitVec 3) : Option CctlVar :=
  match c.toNat with
  | 0 => some .wb
  | 1 => some .inv
  | 2 => some .wbinv
  | _ => none

/-- Table 11-4. -/
def Bf.code : Bf → BitVec 2
  | .sb3 => 0
  | .sb5 => 1
  | .sb8 => 2

def Bf.ofCode (c : BitVec 2) : Option Bf :=
  match c.toNat with
  | 0 => some .sb3
  | 1 => some .sb5
  | 2 => some .sb8
  | _ => none

/-- Table 15-9. -/
def CopyDir.code : CopyDir → BitVec 2
  | .gs => 0
  | .sg => 1
  | .gg => 2
  | .ss => 3

def CopyDir.ofCode (c : BitVec 2) : Option CopyDir :=
  match c.toNat with
  | 0 => some .gs
  | 1 => some .sg
  | 2 => some .gg
  | 3 => some .ss
  | _ => none

/-- Table 15-9. -/
def CopyW.code : CopyW → BitVec 2
  | .b32 => 0
  | .b64 => 1
  | .b128 => 2

def CopyW.ofCode (c : BitVec 2) : Option CopyW :=
  match c.toNat with
  | 0 => some .b32
  | 1 => some .b64
  | 2 => some .b128
  | _ => none

/-- Table 01-4. -/
def Special.code : Special → BitVec 10
  | .lane => 304
  | .slice => 305
  | .bundle => 306
  | .crew => 307
  | .core => 308
  | .grank => 309
  | .nlive => 310
  | .launchseq => 311

/-- Table 11-2: the code of an operand; an unused field holds zero. -/
def Opnd.code : Opnd → BitVec 10
  | .none => 0
  | .v n => BitVec.ofNat 10 n.val
  | .q n => BitVec.ofNat 10 (0x0F8 + n.val)
  | .c n => BitVec.ofNat 10 (0x100 + n.val)
  | .t n => BitVec.ofNat 10 (0x110 + n.val)
  | .p n => BitVec.ofNat 10 (0x120 + n.val)
  | .special x => x.code
  | .peek n => BitVec.ofNat 10 (0x1F8 + n.val)
  | .imm => 0x3FE
  | .zero => 0x3FF

/-- Table 11-2: the operand a code names; reserved codes name none. -/
def Opnd.ofCode (c : BitVec 10) : Option Opnd :=
  let n := c.toNat
  if h : n < 248 then some (.v ⟨n, h⟩)
  else if n < 0x100 then some (.q (Fin.ofNat 8 n))
  else if n < 0x110 then some (.c (Fin.ofNat 16 n))
  else if n < 0x120 then some (.t (Fin.ofNat 16 n))
  else if n < 0x128 then some (.p (Fin.ofNat 8 n))
  else if n < 0x130 then none
  else if n = 0x130 then some (.special .lane)
  else if n = 0x131 then some (.special .slice)
  else if n = 0x132 then some (.special .bundle)
  else if n = 0x133 then some (.special .crew)
  else if n = 0x134 then some (.special .core)
  else if n = 0x135 then some (.special .grank)
  else if n = 0x136 then some (.special .nlive)
  else if n = 0x137 then some (.special .launchseq)
  else if n < 0x1F8 then none
  else if n < 0x200 then some (.peek (Fin.ofNat 8 n))
  else if n < 0x3FE then none
  else if n = 0x3FE then some .imm
  else some .zero

/-- Which of DST, SRCA, SRCB and SRCC a form uses. -/
structure Use where
  d : Bool
  a : Bool
  b : Bool
  c : Bool

def Use.none : Use := ⟨false, false, false, false⟩
def Use.d' : Use := ⟨true, false, false, false⟩
def Use.a' : Use := ⟨false, true, false, false⟩
def Use.b' : Use := ⟨false, false, true, false⟩
def Use.da : Use := ⟨true, true, false, false⟩
def Use.dab : Use := ⟨true, true, true, false⟩
def Use.dabc : Use := ⟨true, true, true, true⟩
def Use.ab : Use := ⟨false, true, true, false⟩
def Use.abc : Use := ⟨false, true, true, true⟩

/-- An operand field: read when the form uses it, zero otherwise (R192). -/
def opndField (used : Bool) (c : BitVec 10) : Option Opnd :=
  if used then Opnd.ofCode c else if c = 0 then some .none else none

/-- The scheduling field; RSV must be zero (R192). -/
def Sched.ofBits (w : BitVec 32) : Option Sched :=
  if w.extractLsb' 0 4 = 0 then
    some { yield := w.getLsbD 31, reuse := (w.extractLsb' 28 3).toFin, setr := (w.extractLsb' 24 4).toFin,
           setw := (w.extractLsb' 20 4).toFin, wait := w.extractLsb' 8 12, stall := (w.extractLsb' 4 4).toFin }
  else none

def Sched.bits (s : Sched) : BitVec 32 :=
  BitVec.ofBool s.yield ++ BitVec.ofNat 3 s.reuse.val ++ BitVec.ofNat 4 s.setr.val ++ BitVec.ofNat 4 s.setw.val ++
    s.wait ++ BitVec.ofNat 4 s.stall.val ++ (0 : BitVec 4)

/-- PRED: [3] negate, [2:0] predicate (R187). -/
def Guard.ofBits (p : BitVec 4) : Guard := ⟨(p.extractLsb' 0 3).toFin, p.getLsbD 3⟩
def Guard.bits (g : Guard) : BitVec 4 := BitVec.ofBool g.neg ++ BitVec.ofNat 3 g.pred.val

/-- The operands of a word, where `u` says which fields the form uses and `lit` is its literal. -/
def Fields.args (f : Fields) (u : Use) (lit : Word) : Option Args := do
  let d ← opndField u.d f.dst
  let a ← opndField u.a f.a
  let b ← opndField u.b f.b
  let c ← opndField u.c f.c
  let s ← Sched.ofBits f.sched
  some { guard := Guard.ofBits f.pred, d := d, a := a, b := b, c := c, lit := lit, sched := s }

/-! MOD by class (Table 11-5): `mk...` writes it, `g...` reads it. -/

def hi4 (m : BitVec 8) : BitVec 4 := m.extractLsb' 4 4
def lo4 (m : BitVec 8) : BitVec 4 := m.extractLsb' 0 4
def lo3 (m : BitVec 8) : BitVec 3 := m.extractLsb' 0 3
def mk44 (h l : BitVec 4) : BitVec 8 := h ++ l
def mkRm (r : Rm) (t : BitVec 4) : BitVec 8 := (0 : BitVec 1) ++ r.code ++ t
def mkOrd (o : Order) (w : BitVec 3) : BitVec 8 := o.scope.code ++ o.kind.code ++ w
def mkOrd0 (w : BitVec 3) : BitVec 8 := (0 : BitVec 5) ++ w
def mkCbar (op : CbarOp) (t : ATy) : BitVec 8 := (0 : BitVec 2) ++ op.code ++ t.code
def mkRed (exc : Bool) (op : RedOp) (t : Ty) : BitVec 8 := BitVec.ofBool exc ++ op.code ++ t.code
def mkAttn (o gated : Bool) : BitVec 8 := (0 : BitVec 6) ++ BitVec.ofBool gated ++ BitVec.ofBool o

def Bf.code4 (f : Bf) : BitVec 4 := f.code.setWidth 4
def LineSt.code3 (s : LineSt) : BitVec 3 := s.code
def CctlVar.code3 (k : CctlVar) : BitVec 3 := k.code

def AccTy.code8 : AccTy → BitVec 8
  | .f32 => 0x0A
  | .f16 => 0x0B
  | .bf16 => 0x0C
  | .blk f => mk44 f.code4 0xF

def AccTy.ofCode (m : BitVec 8) : Option AccTy :=
  match m.toNat with
  | 0x0A => some .f32
  | 0x0B => some .f16
  | 0x0C => some .bf16
  | 0x0F => some (.blk .sb3)
  | 0x1F => some (.blk .sb5)
  | 0x2F => some (.blk .sb8)
  | _ => none

def CopyMod.code (m : CopyMod) : BitVec 8 :=
  m.dir.code ++ BitVec.ofNat 2 m.queue.val ++ BitVec.ofBool m.weight ++ BitVec.ofBool m.full ++ m.width.code

def CopyMod.ofCode (m : BitVec 8) : Option CopyMod := do
  let dir ← CopyDir.ofCode (m.extractLsb' 6 2)
  let width ← CopyW.ofCode (m.extractLsb' 0 2)
  some ⟨dir, (m.extractLsb' 4 2).toFin, m.getLsbD 3, m.getLsbD 2, width⟩

def gZero (m : BitVec 8) : Option Unit := if m = 0 then some () else none
def gOne (m : BitVec 8) : Option Unit := if m = 1 then some () else none
def gBit (m : BitVec 8) : Option Bool := if m = 0 then some false else if m = 1 then some true else none
def gTy (m : BitVec 8) : Option Ty := if hi4 m = 0 then some (Ty.ofCode (lo4 m)) else none
def gF32 (m : BitVec 8) : Option Unit := if m = 0x0A then some () else none
def gRm (m : BitVec 8) : Option Rm := if m.getLsbD 7 then none else Rm.ofCode (m.extractLsb' 4 3)
def gRmF32 (m : BitVec 8) : Option Rm := if lo4 m = 0xA then gRm m else none
def gBlk (m : BitVec 8) : Option Bf :=
  if lo4 m = 0xF ∧ m.extractLsb' 6 2 = 0 then Bf.ofCode (m.extractLsb' 4 2) else none
def gOrder (m : BitVec 8) : Option Order :=
  some ⟨OrdKind.ofCode (m.extractLsb' 3 2), Scope.ofCode (m.extractLsb' 5 3)⟩
def gLow (m : BitVec 8) (w : BitVec 3) : Option Unit := if lo3 m = w then some () else none
def gLine (m : BitVec 8) : Option LineSt := if m.extractLsb' 3 5 = 0 then LineSt.ofCode (lo3 m) else none
def gCctl (m : BitVec 8) : Option CctlVar := if m.extractLsb' 3 5 = 0 then CctlVar.ofCode (lo3 m) else none
def gCbarOp (m : BitVec 8) : Option CbarOp :=
  if m.extractLsb' 6 2 = 0 then CbarOp.ofCode (m.extractLsb' 3 3) else none
def gVote (m : BitVec 8) : Option VoteMode := if lo4 m = 0 then VoteMode.ofCode (hi4 m) else none
def gRed (m : BitVec 8) : Option RedOp := if m.getLsbD 7 then none else RedOp.ofCode (m.extractLsb' 4 3)
def gScan (m : BitVec 8) : Option RedOp := RedOp.ofCode (m.extractLsb' 4 3)
def gTop6 (m : BitVec 8) : Option Unit := if m.extractLsb' 2 6 = 0 then some () else none

/-! IMM by class (Table 11-5). -/

def mkLit12 (lit : Word) (off : BitVec 20) : Word := lit.setWidth 12 ++ off
def mkOp28 (op : BitVec 4) (off : BitVec 28) : Word := op ++ off
def mk16 (h l : BitVec 16) : Word := h ++ l
def gImm0 (i : Word) : Option Unit := if i = 0 then some () else none
def gImm8 (i : Word) : Option Byte := if i.extractLsb' 8 24 = 0 then some (i.setWidth 8) else none
def gImmTy (i : Word) : Option Ty := if i.extractLsb' 4 28 = 0 then some (Ty.ofCode (i.setWidth 4)) else none
def gOff20 (i : Word) : Option (BitVec 20) := if i.extractLsb' 20 12 = 0 then some (i.setWidth 20) else none
def gOff20of28 (i : Word) : Option (BitVec 20) := if i.extractLsb' 20 8 = 0 then some (i.setWidth 20) else none
def gCtl (i : Word) : Option (BitVec 10) := if i.extractLsb' 10 22 = 0 then some (i.setWidth 10) else none

/-- The operation codes of Tables 11-8 to 11-22: whether the code is listed at all, and the first version that
has it (Table 11-7). -/
def opcVersion (opc : BitVec 12) : Option Nat :=
  let cls := opc.toNat / 256
  let op := opc.toNat % 256
  let count := [38, 16, 7, 8, 8, 14, 11, 8, 7, 11, 20, 3, 9, 4, 8].getD cls 0
  if op < count then some (if cls = 8 then 3 else if cls = 0xA then 2 else 1) else none

/-- The instruction that the fields spell, before the limits of `Instr.wf`. -/
def Fields.build (f : Fields) : Option Instr :=
  match f.opc.toNat with
  | 0x000 => do let _ ← gZero f.mod; let x ← f.args .none f.imm; some (.nop x)
  | 0x001 => do let t ← gTy f.mod; let x ← f.args .da f.imm; some (.mov t x)
  | 0x002 => do let t ← gTy f.mod; let x ← f.args .dab f.imm; some (.iadd t x)
  | 0x003 => do let t ← gTy f.mod; let x ← f.args .dab f.imm; some (.isub t x)
  | 0x004 => do let t ← gTy f.mod; let x ← f.args .dabc f.imm; some (.iaddc t x)
  | 0x005 => do let t ← gTy f.mod; let x ← f.args .dab f.imm; some (.imul t x)
  | 0x006 => do let t ← gTy f.mod; let x ← f.args .dab f.imm; some (.imulh t x)
  | 0x007 => do let t ← gTy f.mod; let x ← f.args .dabc f.imm; some (.imad t x)
  | 0x008 => do let t ← gTy f.mod; let x ← f.args .dabc f.imm; some (.imadw t x)
  | 0x009 => do let t ← gTy f.mod; let x ← f.args .dab f.imm; some (.idiv t x)
  | 0x00A => do let t ← gTy f.mod; let x ← f.args .dab f.imm; some (.irem t x)
  | 0x00B => do let t ← gTy f.mod; let x ← f.args .da f.imm; some (.iabs t x)
  | 0x00C => do let t ← gTy f.mod; let x ← f.args .da f.imm; some (.ineg t x)
  | 0x00D => do let t ← gTy f.mod; let x ← f.args .dab f.imm; some (.imin t x)
  | 0x00E => do let t ← gTy f.mod; let x ← f.args .dab f.imm; some (.imax t x)
  | 0x00F => do let k ← ICond.ofCode (hi4 f.mod); let t := Ty.ofCode (lo4 f.mod); let x ← f.args .dab f.imm; some (.icmp k t x)
  | 0x010 => do let t ← gTy f.mod; let x ← f.args .dabc f.imm; some (.isel t x)
  | 0x011 => do let t ← gTy f.mod; let x ← f.args .dab f.imm; some (.andL t x)
  | 0x012 => do let t ← gTy f.mod; let x ← f.args .dab f.imm; some (.orL t x)
  | 0x013 => do let t ← gTy f.mod; let x ← f.args .dab f.imm; some (.xorL t x)
  | 0x014 => do let t ← gTy f.mod; let x ← f.args .dab f.imm; some (.andn t x)
  | 0x015 => do let t ← gTy f.mod; let x ← f.args .da f.imm; some (.notL t x)
  | 0x016 => do let t ← gTy f.mod; let x ← f.args .dab f.imm; some (.shl t x)
  | 0x017 => do let t ← gTy f.mod; let x ← f.args .dab f.imm; some (.shr t x)
  | 0x018 => do let t ← gTy f.mod; let x ← f.args .dab f.imm; some (.shra t x)
  | 0x019 => do let t ← gTy f.mod; let x ← f.args .dab f.imm; some (.rotl t x)
  | 0x01A => do let _ ← gZero f.mod; let x ← f.args .dabc f.imm; some (.funnel x)
  | 0x01B => do let t ← gTy f.mod; let x ← f.args .da f.imm; some (.popc t x)
  | 0x01C => do let t ← gTy f.mod; let x ← f.args .da f.imm; some (.clz t x)
  | 0x01D => do let t ← gTy f.mod; let x ← f.args .da f.imm; some (.ctz t x)
  | 0x01E => do let t ← gTy f.mod; let x ← f.args .da f.imm; some (.brev t x)
  | 0x01F => do let t ← gTy f.mod; let x ← f.args .dab f.imm; some (.bfx t x)
  | 0x020 => do let _ ← gZero f.mod; let x ← f.args .dabc f.imm; some (.bfi x)
  | 0x021 => do let sh := (hi4 f.mod).toFin; let t := Ty.ofCode (lo4 f.mod); let x ← f.args .dab f.imm; some (.lea sh t x)
  | 0x022 => do let _ ← gZero f.mod; let tt ← gImm8 f.imm; let x ← f.args .dabc 0; some (.plop tt x)
  | 0x023 => if f.dst.extractLsb' 3 7 = 0x24 then do let _ ← gZero f.mod; let x ← f.args .dab f.imm; some (.pmovUnpack x)
    else do let _ ← gZero f.mod; let x ← f.args .d' f.imm; some (.pmovPack x)
  | 0x024 => do let _ ← gZero f.mod; let x ← f.args .da f.imm; some (.gettag x)
  | 0x025 => do let _ ← gZero f.mod; let x ← f.args .d' f.imm; some (.taggen x)
  | 0x100 => do let r ← gRm f.mod; let t := Ty.ofCode (lo4 f.mod); let x ← f.args .dab f.imm; some (.fadd r t x)
  | 0x101 => do let r ← gRm f.mod; let t := Ty.ofCode (lo4 f.mod); let x ← f.args .dab f.imm; some (.fsub r t x)
  | 0x102 => do let r ← gRm f.mod; let t := Ty.ofCode (lo4 f.mod); let x ← f.args .dab f.imm; some (.fmul r t x)
  | 0x103 => do let r ← gRm f.mod; let t := Ty.ofCode (lo4 f.mod); let x ← f.args .dabc f.imm; some (.ffma r t x)
  | 0x104 => do let t ← gTy f.mod; let x ← f.args .dab f.imm; some (.fmin t x)
  | 0x105 => do let t ← gTy f.mod; let x ← f.args .dab f.imm; some (.fmax t x)
  | 0x106 => do let t ← gTy f.mod; let x ← f.args .da f.imm; some (.fabs t x)
  | 0x107 => do let t ← gTy f.mod; let x ← f.args .da f.imm; some (.fneg t x)
  | 0x108 => do let k ← FCond.ofCode (hi4 f.mod); let t := Ty.ofCode (lo4 f.mod); let x ← f.args .dab f.imm; some (.fcmp k t x)
  | 0x109 => do let _ ← gF32 f.mod; let x ← f.args .da f.imm; some (.fclass x)
  | 0x10A => do let r ← gRmF32 f.mod; let x ← f.args .da f.imm; some (.frnd r x)
  | 0x10B => do let r ← gRmF32 f.mod; let x ← f.args .dab f.imm; some (.fscale r x)
  | 0x10C => do let r ← gRm f.mod; let t := Ty.ofCode (lo4 f.mod); let x ← f.args .dab f.imm; some (.hadd2 r t x)
  | 0x10D => do let r ← gRm f.mod; let t := Ty.ofCode (lo4 f.mod); let x ← f.args .dab f.imm; some (.hmul2 r t x)
  | 0x10E => do let r ← gRm f.mod; let t := Ty.ofCode (lo4 f.mod); let x ← f.args .dabc f.imm; some (.hfma2 r t x)
  | 0x10F => do let r ← gRm f.mod; let t := Ty.ofCode (lo4 f.mod); let x ← f.args .dabc f.imm; some (.fdot2 r t x)
  | 0x200 => do let r ← gRm f.mod; let dt := Ty.ofCode (lo4 f.mod); let st ← gImmTy f.imm; let x ← f.args .da 0; some (.cvt r dt st x)
  | 0x201 => do let r ← gRm f.mod; let t := Ty.ofCode (lo4 f.mod); let x ← f.args .dab f.imm; some (.pack2 r t x)
  | 0x202 => do let t ← gTy f.mod; let x ← f.args .da f.imm; some (.unpack2 t x)
  | 0x203 => do let _ ← gF32 f.mod; let x ← f.args .dab f.imm; some (.had16 x)
  | 0x204 => do let fm ← gBlk f.mod; let x ← f.args .da f.imm; some (.qblk fm x)
  | 0x205 => do let fm ← gBlk f.mod; let x ← f.args .da f.imm; some (.dqblk fm x)
  | 0x206 => do let _ ← gZero f.mod; let x ← f.args .dab f.imm; some (.seedflip x)
  | 0x300 => do let _ ← gF32 f.mod; let x ← f.args .da f.imm; some (.rcp x)
  | 0x301 => do let _ ← gF32 f.mod; let x ← f.args .da f.imm; some (.rsq x)
  | 0x302 => do let _ ← gF32 f.mod; let x ← f.args .da f.imm; some (.sqrt x)
  | 0x303 => do let _ ← gF32 f.mod; let x ← f.args .da f.imm; some (.ex2 x)
  | 0x304 => do let _ ← gF32 f.mod; let x ← f.args .da f.imm; some (.lg2 x)
  | 0x305 => do let _ ← gF32 f.mod; let x ← f.args .da f.imm; some (.sin x)
  | 0x306 => do let _ ← gF32 f.mod; let x ← f.args .da f.imm; some (.cos x)
  | 0x307 => do let _ ← gF32 f.mod; let x ← f.args .da f.imm; some (.tanh x)
  | 0x400 => do let _ ← gZero f.mod; let disp := f.imm; let x ← f.args .none 0; some (.bra disp x)
  | 0x401 => do let conv ← gBit f.mod; let x ← f.args .a' f.imm; some (.brx conv x)
  | 0x402 => do let _ ← gZero f.mod; let disp := f.imm; let x ← f.args .none 0; some (.call disp x)
  | 0x403 => do let conv ← gBit f.mod; let x ← f.args .a' f.imm; some (.callx conv x)
  | 0x404 => do let _ ← gZero f.mod; let x ← f.args .none f.imm; some (.ret x)
  | 0x405 => do let _ ← gZero f.mod; let x ← f.args .none f.imm; some (.join x)
  | 0x406 => do let _ ← gZero f.mod; let x ← f.args .none f.imm; some (.exitL x)
  | 0x407 => do let _ ← gZero f.mod; let n := f.imm; let x ← f.args .none 0; some (.sleep n x)
  | 0x500 => do let o ← gOrder f.mod; let w ← MemW.ofCode (lo3 f.mod); let off := f.imm; let x ← f.args .da 0; some (.ldg w o off x)
  | 0x501 => do let o ← gOrder f.mod; let w ← MemW.ofCode (lo3 f.mod); let off := f.imm; let x ← f.args .ab 0; some (.stg w o off x)
  | 0x502 => do let o ← gOrder f.mod; let w ← MemW.ofCode (lo3 f.mod); let off ← gOff20 f.imm; let x ← f.args .da 0; some (.lds w o off x)
  | 0x503 => do let o ← gOrder f.mod; let w ← MemW.ofCode (lo3 f.mod); let off := f.imm.setWidth 20; let x ← f.args .ab ((f.imm.extractLsb' 20 12).setWidth 32); some (.sts w o off x)
  | 0x504 => do let o ← gOrder f.mod; let w ← VecN.ofCode (lo3 f.mod); let off := f.imm; let x ← f.args .da 0; some (.ldgv w o off x)
  | 0x505 => do let o ← gOrder f.mod; let w ← VecN.ofCode (lo3 f.mod); let off := f.imm; let x ← f.args .ab 0; some (.stgv w o off x)
  | 0x506 => do let o ← gOrder f.mod; let w ← VecN.ofCode (lo3 f.mod); let off ← gOff20 f.imm; let x ← f.args .da 0; some (.ldsv w o off x)
  | 0x507 => do let o ← gOrder f.mod; let w ← VecN.ofCode (lo3 f.mod); let off ← gOff20 f.imm; let x ← f.args .ab 0; some (.stsv w o off x)
  | 0x508 => do let st ← gLine f.mod; let off := f.imm.setWidth 20; let x ← f.args .ab ((f.imm.extractLsb' 20 12).setWidth 32); some (.lineset st off x)
  | 0x509 => do let _ ← gZero f.mod; let off ← gOff20 f.imm; let x ← f.args .da 0; some (.lineq off x)
  | 0x50A => do let _ ← gZero f.mod; let off := f.imm; let x ← f.args .a' 0; some (.pref off x)
  | 0x50B => do let k ← gCctl f.mod; let off := f.imm; let x ← f.args .a' 0; some (.cctl k off x)
  | 0x50C => do let o ← gOrder f.mod; let _ ← gLow f.mod 4; let off := f.imm; let x ← f.args .dab 0; some (.ldgw o off x)
  | 0x50D => do let o ← gOrder f.mod; let _ ← gLow f.mod 4; let off := f.imm; let x ← f.args .abc 0; some (.stgw o off x)
  | 0x600 => do let o ← gOrder f.mod; let t ← ATy.ofCode (lo3 f.mod); let op ← AtomOp.ofCode (f.imm.extractLsb' 28 4); let off := f.imm.setWidth 28; let x ← f.args .dab 0; some (.atomg op t o off x)
  | 0x601 => do let o ← gOrder f.mod; let t ← ATy.ofCode (lo3 f.mod); let op ← AtomOp.ofCode (f.imm.extractLsb' 28 4); let off ← gOff20of28 f.imm; let x ← f.args .dab 0; some (.atoms op t o off x)
  | 0x602 => do let o ← gOrder f.mod; let t ← ATy.ofCode (lo3 f.mod); let op ← AtomOp.ofCode (f.imm.extractLsb' 28 4); let off := f.imm.setWidth 28; let x ← f.args .ab 0; some (.redg op t o off x)
  | 0x603 => do let o ← gOrder f.mod; let t ← ATy.ofCode (lo3 f.mod); let off := f.imm; let x ← f.args .dabc 0; some (.casg t o off x)
  | 0x604 => do let o ← gOrder f.mod; let t ← ATy.ofCode (lo3 f.mod); let off ← gOff20 f.imm; let x ← f.args .dabc 0; some (.cass t o off x)
  | 0x605 => do let o ← gOrder f.mod; let _ ← gLow f.mod 0; let x ← f.args .none f.imm; some (.fence o x)
  | 0x606 => do let _ ← gZero f.mod; let x ← f.args .a' f.imm; some (.qfence x)
  | 0x607 => do let op ← gCbarOp f.mod; let t ← ATy.ofCode (lo3 f.mod); let x ← f.args (if op == .none then .b' else .dab) f.imm; some (.cbar op t x)
  | 0x608 => do let _ ← gZero f.mod; let x ← f.args .ab f.imm; some (.expect x)
  | 0x609 => do let _ ← gZero f.mod; let x ← f.args .ab f.imm; some (.arrive x)
  | 0x60A => do let _ ← gZero f.mod; let x ← f.args .ab f.imm; some (.waitr x)
  | 0x700 => do let _ ← gZero f.mod; let x ← f.args .da f.imm; some (.ballot x)
  | 0x701 => do let m ← gVote f.mod; let x ← f.args .da f.imm; some (.vote m x)
  | 0x702 => do let m ← ShflMode.ofCode (hi4 f.mod); let t := Ty.ofCode (lo4 f.mod); let x ← f.args .dab f.imm; some (.shfl m t x)
  | 0x703 => do let t ← gTy f.mod; let x ← f.args .dab f.imm; some (.bcast t x)
  | 0x704 => do let op ← gRed f.mod; let t := Ty.ofCode (lo4 f.mod); let x ← f.args .da f.imm; some (.redb op t x)
  | 0x705 => do let op ← gScan f.mod; let t := Ty.ofCode (lo4 f.mod); let exc := f.mod.getLsbD 7; let x ← f.args .da f.imm; some (.scanb op t exc x)
  | 0x706 => do let t ← gTy f.mod; let x ← f.args .da f.imm; some (.matchL t x)
  | 0x707 => do let _ ← gZero f.mod; let x ← f.args .d' f.imm; some (.actmask x)
  | 0x800 => do let g ← gBit f.mod; let _ ← gImm0 f.imm; let x ← f.args .dab 0; some (.pbind g x)
  | 0x801 => do let _ ← gZero f.mod; let x ← f.args .a' f.imm; some (.punbind x)
  | 0x802 => do let _ ← gZero f.mod; let x ← f.args .dab f.imm; some (.pstat x)
  | 0x803 => do let _ ← gZero f.mod; let x ← f.args .ab f.imm; some (.pskip x)
  | 0x804 => do let _ ← gZero f.mod; let x ← f.args .a' f.imm; some (.pflush x)
  | 0x805 => do let _ ← gZero f.mod; let disp := f.imm; let x ← f.args .a' 0; some (.bpend disp x)
  | 0x806 => do let _ ← gZero f.mod; let x ← f.args .ab f.imm; some (.prewind x)
  | 0x900 => do let _ ← gZero f.mod; let x ← f.args .da f.imm; some (.tld x)
  | 0x901 => do let _ ← gZero f.mod; let x ← f.args .ab f.imm; some (.tst x)
  | 0x902 => do let _ ← gZero f.mod; let x ← f.args .d' f.imm; some (.tzero x)
  | 0x903 => do let _ ← gZero f.mod; let x ← f.args .abc f.imm; some (.mloop x)
  | 0x904 => do let _ ← gZero f.mod; let x ← f.args .abc f.imm; some (.gmloop x)
  | 0x905 => do let _ ← gZero f.mod; let x ← f.args .dab f.imm; some (.accalloc x)
  | 0x906 => do let _ ← gZero f.mod; let x ← f.args .a' f.imm; some (.accfree x)
  | 0x907 => do let _ ← gZero f.mod; let x ← f.args .dab f.imm; some (.accrd x)
  | 0x908 => do let _ ← gZero f.mod; let x ← f.args .abc f.imm; some (.accwr x)
  | 0x909 => do let t ← AccTy.ofCode f.mod; let x ← f.args .abc f.imm; some (.accst t x)
  | 0x90A => do let _ ← gZero f.mod; let x ← f.args .none f.imm; some (.mwait x)
  | 0xA00 => do let _ ← gZero f.mod; let x ← f.args .da f.imm; some (.segnew x)
  | 0xA01 => do let _ ← gZero f.mod; let x ← f.args .da f.imm; some (.segseal x)
  | 0xA02 => do let _ ← gZero f.mod; let x ← f.args .da f.imm; some (.segretire x)
  | 0xA03 => do let _ ← gZero f.mod; let x ← f.args .da f.imm; some (.ctxnew x)
  | 0xA04 => do let _ ← gZero f.mod; let x ← f.args .da f.imm; some (.ctxfree x)
  | 0xA05 => do let _ ← gZero f.mod; let x ← f.args .dabc f.imm; some (.link x)
  | 0xA06 => do let _ ← gZero f.mod; let x ← f.args .dab f.imm; some (.unlink x)
  | 0xA07 => do let _ ← gZero f.mod; let x ← f.args .da f.imm; some (.fork x)
  | 0xA08 => do let _ ← gZero f.mod; let x ← f.args .da f.imm; some (.ctxflat x)
  | 0xA09 => do let _ ← gZero f.mod; let x ← f.args .dabc f.imm; some (.append x)
  | 0xA0A => do let _ ← gZero f.mod; let x ← f.args .dabc f.imm; some (.patch x)
  | 0xA0B => do let _ ← gTop6 f.mod; let o := f.mod.getLsbD 0; let gated := f.mod.getLsbD 1; let x ← f.args .dab f.imm; some (.attn o gated x)
  | 0xA0C => do let _ ← gZero f.mod; let x ← f.args .da f.imm; some (.specb x)
  | 0xA0D => do let _ ← gZero f.mod; let x ← f.args .da f.imm; some (.speca x)
  | 0xA0E => do let _ ← gZero f.mod; let x ← f.args .dab f.imm; some (.specr x)
  | 0xA0F => do let _ ← gZero f.mod; let x ← f.args .dab f.imm; some (.ctxq x)
  | 0xA10 => do let _ ← gZero f.mod; let x ← f.args .dabc f.imm; some (.palloc x)
  | 0xA11 => do let _ ← gZero f.mod; let x ← f.args .da f.imm; some (.pfree x)
  | 0xA12 => do let _ ← gZero f.mod; let x ← f.args .da f.imm; some (.promote x)
  | 0xA13 => do let _ ← gZero f.mod; let x ← f.args .da f.imm; some (.demote x)
  | 0xB00 => do let m ← CopyMod.ofCode f.mod; let so := f.imm.extractLsb' 16 16; let dof := f.imm.setWidth 16; let x ← f.args (if m.weight then .dabc else .abc) 0; some (.cpy m so dof x)
  | 0xB01 => do let m ← CopyMod.ofCode f.mod; let _ ← gImm0 f.imm; let x ← f.args (if m.weight then .dabc else .abc) 0; some (.tcpy m x)
  | 0xB02 => do let m ← CopyMod.ofCode f.mod; let n := f.imm.extractLsb' 16 16; let dof := f.imm.setWidth 16; let x ← f.args (if m.weight then .dabc else .abc) 0; some (.cpyfill m n dof x)
  | 0xC00 => do let _ ← gZero f.mod; let x ← f.args .dabc f.imm; some (.spawn x)
  | 0xC01 => do let _ ← gZero f.mod; let x ← f.args .dab f.imm; some (.splitw x)
  | 0xC02 => if f.mod.getLsbD 0 then do let _ ← gOne f.mod; let x ← f.args .ab f.imm; some (.retwSv x)
    else do let _ ← gZero f.mod; let x ← f.args .da f.imm; some (.retw x)
  | 0xC03 => do let _ ← gZero f.mod; let x ← f.args .da f.imm; some (.waitq x)
  | 0xC04 => do let _ ← gZero f.mod; let x ← f.args .da f.imm; some (.qopen x)
  | 0xC05 => do let _ ← gZero f.mod; let x ← f.args .da f.imm; some (.qclose x)
  | 0xC06 => do let _ ← gZero f.mod; let x ← f.args .da f.imm; some (.qread x)
  | 0xC07 => do let _ ← gZero f.mod; let x ← f.args .a' f.imm; some (.postres x)
  | 0xC08 => do let _ ← gZero f.mod; let x ← f.args .abc f.imm; some (.msend x)
  | 0xD00 => do let _ ← gZero f.mod; let x ← f.args .b' f.imm; some (.gbar x)
  | 0xD01 => do let _ ← gZero f.mod; let x ← f.args .ab f.imm; some (.rsend x)
  | 0xD02 => do let _ ← gZero f.mod; let x ← f.args .dab f.imm; some (.rrecv x)
  | 0xD03 => do let _ ← gZero f.mod; let x ← f.args .abc f.imm; some (.mcast x)
  | 0xE00 => do let _ ← gZero f.mod; let k ← gCtl f.imm; let x ← f.args .a' 0; some (.movk k x)
  | 0xE01 => do let _ ← gZero f.mod; let k ← gCtl f.imm; let x ← f.args .d' 0; some (.movr k x)
  | 0xE02 => do let _ ← gZero f.mod; let n := f.imm; let x ← f.args .none 0; some (.trap n x)
  | 0xE03 => do let _ ← gZero f.mod; let n := f.imm; let x ← f.args .none 0; some (.svc n x)
  | 0xE04 => do let _ ← gZero f.mod; let x ← f.args .none f.imm; some (.eret x)
  | 0xE05 => do let _ ← gZero f.mod; let x ← f.args .d' f.imm; some (.slotq x)
  | 0xE06 => do let _ ← gZero f.mod; let x ← f.args .dab f.imm; some (.csave x)
  | 0xE07 => do let _ ← gZero f.mod; let x ← f.args .dab f.imm; some (.crestore x)

  | _ => none

/-- The instruction a word spells, where every field holds a value its form assigns; `none` where the word traps
ILLOP or RSVD whatever the kernel (R191, R192). -/
def decode (w : BitVec 128) : Option Instr :=
  match (Fields.split w).build with
  | some i => if i.wf then some i else none
  | none => none

/-- MOD of an instruction. -/
def Instr.modField : Instr → BitVec 8
  | .mov t _ => mk44 0 t.code
  | .iadd t _ => mk44 0 t.code
  | .isub t _ => mk44 0 t.code
  | .iaddc t _ => mk44 0 t.code
  | .imul t _ => mk44 0 t.code
  | .imulh t _ => mk44 0 t.code
  | .imad t _ => mk44 0 t.code
  | .imadw t _ => mk44 0 t.code
  | .idiv t _ => mk44 0 t.code
  | .irem t _ => mk44 0 t.code
  | .iabs t _ => mk44 0 t.code
  | .ineg t _ => mk44 0 t.code
  | .imin t _ => mk44 0 t.code
  | .imax t _ => mk44 0 t.code
  | .icmp k t _ => mk44 k.code t.code
  | .isel t _ => mk44 0 t.code
  | .andL t _ => mk44 0 t.code
  | .orL t _ => mk44 0 t.code
  | .xorL t _ => mk44 0 t.code
  | .andn t _ => mk44 0 t.code
  | .notL t _ => mk44 0 t.code
  | .shl t _ => mk44 0 t.code
  | .shr t _ => mk44 0 t.code
  | .shra t _ => mk44 0 t.code
  | .rotl t _ => mk44 0 t.code
  | .popc t _ => mk44 0 t.code
  | .clz t _ => mk44 0 t.code
  | .ctz t _ => mk44 0 t.code
  | .brev t _ => mk44 0 t.code
  | .bfx t _ => mk44 0 t.code
  | .lea sh t _ => mk44 (BitVec.ofNat 4 sh.val) t.code
  | .fadd r t _ => mkRm r t.code
  | .fsub r t _ => mkRm r t.code
  | .fmul r t _ => mkRm r t.code
  | .ffma r t _ => mkRm r t.code
  | .fmin t _ => mk44 0 t.code
  | .fmax t _ => mk44 0 t.code
  | .fabs t _ => mk44 0 t.code
  | .fneg t _ => mk44 0 t.code
  | .fcmp k t _ => mk44 k.code t.code
  | .fclass _ => mk44 0 0xA
  | .frnd r _ => mkRm r 0xA
  | .fscale r _ => mkRm r 0xA
  | .hadd2 r t _ => mkRm r t.code
  | .hmul2 r t _ => mkRm r t.code
  | .hfma2 r t _ => mkRm r t.code
  | .fdot2 r t _ => mkRm r t.code
  | .cvt r dt _ _ => mkRm r dt.code
  | .pack2 r t _ => mkRm r t.code
  | .unpack2 t _ => mk44 0 t.code
  | .had16 _ => mk44 0 0xA
  | .qblk f _ => mk44 f.code4 0xF
  | .dqblk f _ => mk44 f.code4 0xF
  | .rcp _ => mk44 0 0xA
  | .rsq _ => mk44 0 0xA
  | .sqrt _ => mk44 0 0xA
  | .ex2 _ => mk44 0 0xA
  | .lg2 _ => mk44 0 0xA
  | .sin _ => mk44 0 0xA
  | .cos _ => mk44 0 0xA
  | .tanh _ => mk44 0 0xA
  | .brx conv _ => (if conv then 1 else 0)
  | .callx conv _ => (if conv then 1 else 0)
  | .ldg w o _ _ => mkOrd o w.code
  | .stg w o _ _ => mkOrd o w.code
  | .lds w o _ _ => mkOrd o w.code
  | .sts w o _ _ => mkOrd o w.code
  | .ldgv w o _ _ => mkOrd o w.code
  | .stgv w o _ _ => mkOrd o w.code
  | .ldsv w o _ _ => mkOrd o w.code
  | .stsv w o _ _ => mkOrd o w.code
  | .lineset st _ _ => mkOrd0 st.code3
  | .cctl k _ _ => mkOrd0 k.code3
  | .ldgw o _ _ => mkOrd o 4
  | .stgw o _ _ => mkOrd o 4
  | .atomg _ t o _ _ => mkOrd o t.code
  | .atoms _ t o _ _ => mkOrd o t.code
  | .redg _ t o _ _ => mkOrd o t.code
  | .casg t o _ _ => mkOrd o t.code
  | .cass t o _ _ => mkOrd o t.code
  | .fence o _ => mkOrd o 0
  | .cbar op t _ => mkCbar op t
  | .vote m _ => mk44 m.code 0
  | .shfl m t _ => mk44 m.code t.code
  | .bcast t _ => mk44 0 t.code
  | .redb op t _ => mkRed false op t
  | .scanb op t exc _ => mkRed exc op t
  | .matchL t _ => mk44 0 t.code
  | .pbind g _ => (if g then 1 else 0)
  | .accst t _ => t.code8
  | .attn o gated _ => mkAttn o gated
  | .cpy m _ _ _ => m.code
  | .tcpy m _ => m.code
  | .cpyfill m _ _ _ => m.code
  | .retwSv _ => 1

  | _ => 0

/-- IMM of an instruction. -/
def Instr.immField : Instr → Word
  | .nop x => x.lit
  | .mov _ x => x.lit
  | .iadd _ x => x.lit
  | .isub _ x => x.lit
  | .iaddc _ x => x.lit
  | .imul _ x => x.lit
  | .imulh _ x => x.lit
  | .imad _ x => x.lit
  | .imadw _ x => x.lit
  | .idiv _ x => x.lit
  | .irem _ x => x.lit
  | .iabs _ x => x.lit
  | .ineg _ x => x.lit
  | .imin _ x => x.lit
  | .imax _ x => x.lit
  | .icmp _ _ x => x.lit
  | .isel _ x => x.lit
  | .andL _ x => x.lit
  | .orL _ x => x.lit
  | .xorL _ x => x.lit
  | .andn _ x => x.lit
  | .notL _ x => x.lit
  | .shl _ x => x.lit
  | .shr _ x => x.lit
  | .shra _ x => x.lit
  | .rotl _ x => x.lit
  | .funnel x => x.lit
  | .popc _ x => x.lit
  | .clz _ x => x.lit
  | .ctz _ x => x.lit
  | .brev _ x => x.lit
  | .bfx _ x => x.lit
  | .bfi x => x.lit
  | .lea _ _ x => x.lit
  | .plop tt _ => tt.setWidth 32
  | .pmovPack x => x.lit
  | .pmovUnpack x => x.lit
  | .gettag x => x.lit
  | .taggen x => x.lit
  | .fadd _ _ x => x.lit
  | .fsub _ _ x => x.lit
  | .fmul _ _ x => x.lit
  | .ffma _ _ x => x.lit
  | .fmin _ x => x.lit
  | .fmax _ x => x.lit
  | .fabs _ x => x.lit
  | .fneg _ x => x.lit
  | .fcmp _ _ x => x.lit
  | .fclass x => x.lit
  | .frnd _ x => x.lit
  | .fscale _ x => x.lit
  | .hadd2 _ _ x => x.lit
  | .hmul2 _ _ x => x.lit
  | .hfma2 _ _ x => x.lit
  | .fdot2 _ _ x => x.lit
  | .cvt _ _ st _ => st.code.setWidth 32
  | .pack2 _ _ x => x.lit
  | .unpack2 _ x => x.lit
  | .had16 x => x.lit
  | .qblk _ x => x.lit
  | .dqblk _ x => x.lit
  | .seedflip x => x.lit
  | .rcp x => x.lit
  | .rsq x => x.lit
  | .sqrt x => x.lit
  | .ex2 x => x.lit
  | .lg2 x => x.lit
  | .sin x => x.lit
  | .cos x => x.lit
  | .tanh x => x.lit
  | .bra disp _ => disp
  | .brx _ x => x.lit
  | .call disp _ => disp
  | .callx _ x => x.lit
  | .ret x => x.lit
  | .join x => x.lit
  | .exitL x => x.lit
  | .sleep n _ => n
  | .ldg _ _ off _ => off
  | .stg _ _ off _ => off
  | .lds _ _ off _ => off.setWidth 32
  | .sts _ _ off x => mkLit12 x.lit off
  | .ldgv _ _ off _ => off
  | .stgv _ _ off _ => off
  | .ldsv _ _ off _ => off.setWidth 32
  | .stsv _ _ off _ => off.setWidth 32
  | .lineset _ off x => mkLit12 x.lit off
  | .lineq off _ => off.setWidth 32
  | .pref off _ => off
  | .cctl _ off _ => off
  | .ldgw _ off _ => off
  | .stgw _ off _ => off
  | .atomg op _ _ off _ => mkOp28 op.code off
  | .atoms op _ _ off _ => mkOp28 op.code (off.setWidth 28)
  | .redg op _ _ off _ => mkOp28 op.code off
  | .casg _ _ off _ => off
  | .cass _ _ off _ => off.setWidth 32
  | .fence _ x => x.lit
  | .qfence x => x.lit
  | .cbar _ _ x => x.lit
  | .expect x => x.lit
  | .arrive x => x.lit
  | .waitr x => x.lit
  | .ballot x => x.lit
  | .vote _ x => x.lit
  | .shfl _ _ x => x.lit
  | .bcast _ x => x.lit
  | .redb _ _ x => x.lit
  | .scanb _ _ _ x => x.lit
  | .matchL _ x => x.lit
  | .actmask x => x.lit
  | .punbind x => x.lit
  | .pstat x => x.lit
  | .pskip x => x.lit
  | .pflush x => x.lit
  | .bpend disp _ => disp
  | .prewind x => x.lit
  | .tld x => x.lit
  | .tst x => x.lit
  | .tzero x => x.lit
  | .mloop x => x.lit
  | .gmloop x => x.lit
  | .accalloc x => x.lit
  | .accfree x => x.lit
  | .accrd x => x.lit
  | .accwr x => x.lit
  | .accst _ x => x.lit
  | .mwait x => x.lit
  | .segnew x => x.lit
  | .segseal x => x.lit
  | .segretire x => x.lit
  | .ctxnew x => x.lit
  | .ctxfree x => x.lit
  | .link x => x.lit
  | .unlink x => x.lit
  | .fork x => x.lit
  | .ctxflat x => x.lit
  | .append x => x.lit
  | .patch x => x.lit
  | .attn _ _ x => x.lit
  | .specb x => x.lit
  | .speca x => x.lit
  | .specr x => x.lit
  | .ctxq x => x.lit
  | .palloc x => x.lit
  | .pfree x => x.lit
  | .promote x => x.lit
  | .demote x => x.lit
  | .cpy _ so dof _ => mk16 so dof
  | .cpyfill _ n dof _ => mk16 n dof
  | .spawn x => x.lit
  | .splitw x => x.lit
  | .retw x => x.lit
  | .retwSv x => x.lit
  | .waitq x => x.lit
  | .qopen x => x.lit
  | .qclose x => x.lit
  | .qread x => x.lit
  | .postres x => x.lit
  | .msend x => x.lit
  | .gbar x => x.lit
  | .rsend x => x.lit
  | .rrecv x => x.lit
  | .mcast x => x.lit
  | .movk k _ => k.setWidth 32
  | .movr k _ => k.setWidth 32
  | .trap n _ => n
  | .svc n _ => n
  | .eret x => x.lit
  | .slotq x => x.lit
  | .csave x => x.lit
  | .crestore x => x.lit

  | _ => 0

/-- The fields of an instruction row; a step of another agent has no word, and gives zero. -/
def Instr.fields (i : Instr) : Fields :=
  match i.shape, i.args with
  | some sh, some x =>
    { opc := BitVec.ofNat 12 sh.opc, pred := x.guard.bits, dst := x.d.code, a := x.a.code, b := x.b.code,
      c := x.c.code, mod := i.modField, imm := i.immField, sched := x.sched.bits }
  | _, _ => { opc := 0, pred := 0, dst := 0, a := 0, b := 0, c := 0, mod := 0, imm := 0, sched := 0 }

/-- The word of a well-formed instruction. -/
def encode (i : Instr) : BitVec 128 := i.fields.join

/-- The bytes of a word as stored, lowest address first (R4, R186). -/
def wordBytes (w : BitVec 128) : List Byte :=
  (List.range 16).map fun k => w.extractLsb' (8 * k) 8

/-- The word that sixteen bytes store, lowest address first. -/
def bytesWord (l : List Byte) : BitVec 128 :=
  l.foldr (fun b acc => (acc <<< 8) ||| b.setWidth 128) 0

/-- The opcode table's numbering has bit 0 the least significant bit of the word (R186); the word is laid out in
its sixteen little-endian bytes and read back by the decoder. -/
def decodeTableWord (nbits w : Nat) : Option Instr :=
  decode (bytesWord (wordBytes (BitVec.ofNat 128 (w % 2 ^ nbits))))

end Sys2Proof
end

