-- ==== Sys2Proof/Machine/Issue.lean ====
section
/-!
DEFINITION. What happens before an instruction executes: fetching it (R186), the checks of R192, asynchronous traps
(R51, R182), the pending-write check (R196); and readiness and the choice of a picker (R38, R39, R56).
-/

namespace Sys2Proof.Machine

/-! ### Fetching -/

/-- The word at an address of a core's space, when it can be fetched: for looking at scheduling fields. -/
def State.peekWord (s : State) (b : BRef) (pc : DWord) : Option (BitVec 128) :=
  match s.xlate b 0 pc.toNat 16 .fetch with
  | .ok x => some (bytesWord (s.cells x.cells))
  | .error _ => none

/-- The scheduling field of the next instruction of a lane; none that can be seen means no hint. -/
def State.peekSched (s : State) (b : BRef) (pc : DWord) : BitVec 32 :=
  match s.peekWord b pc with
  | some w => (Fields.split w).sched
  | none => 0x0FF00000

/-- The scheduling arguments that mark nothing. -/
def noArgs : Args := ⟨⟨7, false⟩, .none, .none, .none, .none, 0, ⟨false, 0, 15, 15, 0, 0⟩⟩

/-- The course waits for the page of its own instruction (R186, R95). -/
def State.parkFetch (s : State) (f : FaultEnt) : State :=
  let s := s.dropPage s.cur.core f.asid f.va.toNat
  let k := s.core s.cur.core
  let i := freeEntry k.fbuf
  let s1 := match i with
    | some i => s.setCore s.cur.core { k with fbuf := put k.fbuf i f }
    | none => s
  let y := s1.bundle s1.ref
  s1.setBundle s1.ref { y with parked := y.parked ++
    [⟨s.cur.pc, s.lanes.map fun l => (l, if l = f.lane then .fault i else .course), 15, 15, true, true, false⟩] }
/-- The course waits while a line of its own instruction is being refetched (R182). -/
def State.parkFetchLine (s : State) (line : Nat) : State :=
  let y := s.bundle s.ref
  s.setBundle s.ref { y with parked := y.parked ++ [⟨s.cur.pc, s.lanes.map fun l => (l, .refetch line), 15, 15, true, true, false⟩] }

/-! ### The checks of R192 -/

/-- How many forms each class lists (Tables 11-8 to 11-22). -/
def classForms (cls : Nat) : Nat :=
  match cls with
  | 0 => 38 | 1 => 16 | 2 => 7 | 3 => 8 | 4 => 8 | 5 => 14 | 6 => 11 | 7 => 8 | 8 => 7 | 9 => 11 | 10 => 20
  | 11 => 3 | 12 => 9 | 13 => 4 | 14 => 8
  | _ => 0
/-- The first encoding version of a class (Table 11-7). -/
def classVer (cls : Nat) : Nat := if cls = 8 then 3 else if cls = 10 then 2 else 1

def envOf (k : Crew) : Env := ⟨k.ver, k.nreg, k.ntiles, k.sup⟩

/-- Words whose form a house core does not have (Table 23-1), whatever their other fields hold. -/
def houseBars (w : BitVec 128) : Bool :=
  let opc := (Fields.split w).opc.toNat
  opc / 256 == 8 || opc / 256 == 9 || opc / 256 == 13 || opc == 0x406 || opc == 0x607 || opc == 0xA0A || opc == 0xA0B ||
    (opc / 256 == 12 && !(decide (0xC03 ≤ opc) && decide (opc ≤ 0xC06)) && !(opc == 0xC02 && w.getLsbD 56))

/-- The checks of R192 on a word, on a compute core or on a house core (Table 23-1): the instruction, or the cause
of the trap. -/
def decodeChecked (e : Env) (house : Bool) (w : BitVec 128) : Except Nat Instr :=
  let opc := (Fields.split w).opc.toNat
  if classForms (opc / 256) ≤ opc % 256 || e.ver < classVer (opc / 256) || (house && houseBars w) then .error 1
  else
    match decode w with
    | none => .error 2
    | some i =>
      if !i.inLimits e then .error 2
      else if i.privileged && !e.sup then .error 3
      else .ok i

/-! ### The pending-write check (R196) -/

/-- The v-registers and predicates an operand names, as masks. -/
def regMask (s : Slot) (o : Opnd) : BitVec 256 :=
  match o with
  | .v n => setPend 0 n.val (max s.regs 1)
  | _ => 0
def predMask (o : Opnd) : BitVec 8 :=
  match o with
  | .p n => 1#8 <<< n.val
  | _ => 0

/-- Whether some lane of the course has a pending write to a register that the instruction reads or writes. -/
def State.hintHit (s : State) (i : Instr) : Bool :=
  let sh := i.shape.getD default
  let x := i.args.getD noArgs
  let m := regMask { sh.d with regs := max sh.d.regs (min (s.attnRegs i) 16) } x.d ||| regMask sh.a x.a ||| regMask sh.b x.b ||| regMask sh.c x.c
  let p := predMask x.d ||| predMask x.a ||| predMask x.b ||| predMask x.c ||| (1#8 <<< x.guard.pred.val)
  s.lanes.any fun l =>
    (s.lane s.ref l).pendV &&& m != 0 || (s.lane s.ref l).pendP &&& p != 0

/-- The replay of R196, or the HINT trap. -/
def State.hintReplay (s : State) (x : Args) : State :=
  let y := s.bundle s.ref
  let y := { y with hintMiss := if y.hintMiss = 0xFFFFFFFF then y.hintMiss else y.hintMiss + 1 }
  if y.htrap then (s.setBundle s.ref y).takeTrap x s.cur.mask ⟨0x0F, 0, 0, 0, 0⟩
  else
    let until_ := (s.core s.cur.core).cyc + 8
    s.setBundle s.ref (y.mapLanes s.lanes fun _ z => { z with hold := .replay until_ })

/-! ### Asynchronous traps (R51, R182) -/

/-- An ordering point of a crew: POISON that has waited for it becomes pending (R182). -/
def State.orderPoint (s : State) (core slot : Nat) : State :=
  let k := s.crew core slot
  if k.later.isEmpty then s
  else s.setCrew core slot { k with later := [], async := k.async ++ k.later.map fun i => { i with i1 := i.i1 ||| 0x80000000 } }

/-- The instructions that are ordering points of their crew (R182, R261, R266, R275, R287, R311, R318). -/
def orderingForm (i : Instr) : Bool :=
  match i with
  | .fence _ _ | .waitq _ | .waitr _ | .mwait _ | .pflush _ | .rrecv _ => true
  | _ => false

/-- Whether a word is an instruction at which the course that is about to issue meets an ordering point. -/
def State.ordersAt (s : State) (w : BitVec 128) : Bool :=
  (decode w).any fun i => orderingForm i && !(s.act (i.args.getD noArgs)).isEmpty

/-- The course that is about to issue takes its crew's pending asynchronous trap instead. -/
def State.takeAsync (s : State) (i : TrapInfo) : State :=
  let k := s.curCrew
  (s.setCrew s.cur.core s.cur.slot { k with async := k.async.drop 1 }).takeTrap noArgs s.cur.mask i

/-! ### From a chosen course to its instruction -/

/-- What is left to do: execute an instruction, or nothing. -/
inductive Front
  | done (t : State)
  | run (i : Instr) (t : State)
deriving DecidableEq, Repr

/-- Finding the flags of its WAIT mask clear, an instruction acquires what they mark (R108). -/
def State.learnFlags (s : State) (w : BitVec 128) : State :=
  let y := s.bundle s.ref
  s.learnAll s.ref s.lanes (y.flagView.foldl (fun v e => if (Fields.split w).sched.getLsbD (8 + e.1) then v.join e.2 else v) [])

/-- A course that was chosen: its instruction is fetched and checked. -/
def State.frontCourse (s : State) : Front :=
  match s.xlate s.ref ((s.lanes).headD 0) s.cur.pc.toNat 16 .fetch with
  | .error f => if outside s.cur.pc.toNat 16 then .done (s.takeTrap noArgs s.cur.mask (segvInfo s.cur.pc.toNat 0)) else .done (s.parkFetch f)
  | .ok x =>
    if outside s.cur.pc.toNat 16 then .done (s.takeTrap noArgs s.cur.mask (segvInfo s.cur.pc.toNat 0)) else
    let s := s.fillUsed s.cur.core x.es
    match x.cells.findSome? s.refetching with
    | some l => .done (s.parkFetchLine l)
    | none =>
    if x.cells.any s.cellPoison then .done (s.takeTrap noArgs s.cur.mask ⟨6, 0, 0, 0, 0⟩)
    else
      let w := bytesWord (s.cells x.cells)
      let y := s.bundle s.ref
      let s := if y.orderPt || (Fields.split w).sched.extractLsb' 8 12 != 0 || s.ordersAt w then
          (s.setBundle s.ref { y with orderPt := false }).orderPoint s.cur.core s.cur.slot else s
      match if s.cur.again || (s.bundle s.ref).stopped.isSome then none else s.curCrew.async.head? with
      | some t => .done (s.takeAsync t)
      | none =>
        match decodeChecked (envOf s.curCrew) (isHouse s.cur.core) w with
        | .error cause => .done (s.takeTrap noArgs s.cur.mask ⟨cause, 0, 0, 0, 0⟩)
        | .ok i =>
          if s.cur.again then .run i s
          else if s.hintHit i then .done (s.hintReplay (i.args.getD noArgs)) else .run i (s.learnFlags w)

/-- An event: anything but an instruction of a class. -/
def frontEvent (i : Instr) (s : State) : Front := if i.shape.isNone then .run i s else .done s

/-- The writers of acting registers go on with the act that they wait for, which the step about to happen is (R367). -/
def State.actDone (s : State) : State :=
  (List.range 16).foldl (fun s h =>
    let b : BRef := ⟨768 + h, 0, 0⟩
    if (s.bundle b).parked.isEmpty then s
    else s.setBundle b ((s.bundle b).release (fun _ w => w == .engine .act) fun _ z => z)) s

/-- What the next step of the machine executes: a chosen course, else the oldest event of the agenda, else the event
that the free schedule gives (DESIGN CHOICE, assumption 1). -/
def State.front (s : State) : Front :=
  match s.issue with
  | c :: rest =>
    let t := { s with issue := rest, cur := c }
    if t.hasBundle t.ref then t.frontCourse else .done t
  | [] =>
    match s.agenda with
    | i :: r => frontEvent i { s with agenda := r }.actDone
    | [] => frontEvent (Config.schedule s.tick) { s with tick := s.tick + 1 }

/-! ### Readiness and the pickers (R38, R39, R56, R383) -/

/-- Whether one more mark of each flag named would pass 63 (R194). -/
def Bundle.flagsFull (y : Bundle) (sc : BitVec 32) : Bool :=
  let r := (sc.extractLsb' 24 4).toNat
  let w := (sc.extractLsb' 20 4).toNat
  if r = w then decide (r < 12) && decide (63 < y.flag r + 2)
  else (decide (r < 12) && decide (63 < y.flag r + 1)) || (decide (w < 12) && decide (63 < y.flag w + 1))

/-- Whether every flag of the WAIT mask is clear; one cleared in a cycle lets nothing issue in that cycle (R194). -/
def Bundle.waitClear (y : Bundle) (sc : BitVec 32) : Bool :=
  (List.range 12).all fun n => !(sc.getLsbD (8 + n)) || (y.flag n == 0 && findD y.flagsWere n 0 == 0)

/-- Whether a lane's STALL count (R193) or its hint replay (R196) ends after the cycle given. -/
def Hold.lasts (h : Hold) (now : Nat) : Bool :=
  match h with
  | .none => false
  | .stall u => decide (now < u)
  | .replay u => decide (now < u)

/-- R38. -/
def State.ready (s : State) (b : BRef) (l : Nat) : Bool :=
  let y := s.bundle b
  let z := y.lane l
  y.live.getLsbD l && !y.waiting l && !z.hold.lasts (s.core b.core).cyc && y.stopped.isNone &&
    (s.crew b.core b.slot).run == .running &&
    (let sc := s.peekSched b z.pc
     y.waitClear sc && !y.flagsFull sc)

def State.readyLanes (s : State) (b : BRef) : List Nat := (List.range 32).filter (s.ready b)

/-- The reset value of a shift register (R383). -/
def lfsrSeed (seed : BitVec 16) (key : Nat) : BitVec 16 :=
  let x := seed ^^^ (if key < 1024 then BitVec.ofNat 16 ((key + 1) * 0x9E37) else BitVec.ofNat 16 (0x1000 * (key - 1024 + 1)))
  if x = 0 then 0xACE1 else x
/-- The shift register of core c, or of the placer of die d under 1024 + d. -/
def State.lfsrOf (s : State) (key : Nat) : BitVec 16 :=
  (find s.lfsr key).getD (lfsrSeed ((s.supReg 0x12B).setWidth 16) key)
/-- One step of a shift register. -/
def lfsrStep (x : BitVec 16) : BitVec 16 :=
  (x <<< 1) ||| (if (x.getLsbD 15 ^^ x.getLsbD 13 ^^ x.getLsbD 12 ^^ x.getLsbD 10) then 1#16 else 0#16)
def lfsrSteps (x : BitVec 16) : Nat → BitVec 16
  | 0 => x
  | n + 1 => lfsrSteps (lfsrStep x) n

/-- The bundle of highest age among urgent ones, with the tie rule of R39 or R56. Where bundles of a deterministic launch and of
others tie, which the spec does not settle, R56 is used (DESIGN CHOICE, assumption 60). -/
def State.urgentPick (s : State) (core : Nat) (cs : List BRef) : Option (BRef × State) :=
  let urgent := cs.filter fun b => decide (64 ≤ (s.bundle b).age)
  let top := urgent.foldl (fun a b => max a (s.bundle b).age) 0
  let tied := urgent.filter fun b => (s.bundle b).age == top
  match tied with
  | [] => none
  | [b] => some (b, s)
  | b :: _ =>
    if tied.any fun b => (s.crew b.core b.slot).det then some (b, s)
    else
      let v := s.lfsrOf core
      some (tied.getD (v.toNat % tied.length) b, { s with lfsr := put s.lfsr core (lfsrStep v) })

/-- The oldest by admission, a bundle that yielded last (R39). -/
def State.oldestPick (s : State) (core : Nat) (cs : List BRef) : Option BRef :=
  let best (l : List BRef) : Option BRef :=
    l.foldl (fun a b => match a with
      | none => some b
      | some a => if (s.bundle b).adm < (s.bundle a).adm then some b else some a) none
  let rest := cs.filter fun b => (s.core core).yielded != some (b.slot, b.bundle)
  (best rest).orElse fun _ => best cs

/-- The PC chosen within a bundle (R39, R56). -/
def State.pickPc (s : State) (b : BRef) (ls : List Nat) : DWord :=
  let y := s.bundle b
  let top := ls.foldl (fun a l => max a (y.lane l).age) 0
  let from_ := if 224 ≤ top then ls.filter fun l => (y.lane l).age == top else ls
  from_.foldl (fun a l => if (y.lane l).pc.toNat < a.toNat then (y.lane l).pc else a) (y.lane (from_.headD 0)).pc

/-- Ages after a decision: bundles passed over, and ready lanes of the chosen bundle that do not issue (R39). -/
def State.ageAll (s : State) (cs : List BRef) (got : Option BRef) (issued : List Nat) : State :=
  cs.foldl (fun s b =>
    let y := s.bundle b
    if got = some b then
      s.setBundle b ({ y with age := 0 }.mapLanes (s.readyLanes b) fun l z =>
        { z with age := if issued.contains l then 0 else z.age + 1 })
    else s.setBundle b { y with age := y.age + 1 }) s

/-- The die cycle of a die follows the fastest of its cores, and its placer's register steps with it (R383). -/
def State.dieTick (s : State) (core : Nat) : State :=
  let d := dieOf core
  let y := findD s.dies d default
  let n := (s.core core).cyc - y.dcyc
  if n = 0 then s
  else { s with dies := put s.dies d { y with dcyc := y.dcyc + n },
                lfsr := put s.lfsr (1024 + d) (lfsrSteps (s.lfsrOf (1024 + d)) n) }

/-- A core that is held or halted does not decide; what the boot ROM does on house core 0 is steps of its own (R340). -/
def State.coreRuns (s : State) (core : Nat) : Bool :=
  if isHouse core then
    s.boot.phase == 2 && !(s.houseOf core).held && !(s.houseOf core).halted && decide (core < 784)
  else decide (core < 768)

/-! ### Steps that end a hold or a wait by time -/

/-- `STALL_ELAPSE` (R193). -/
def execStallElapse (at_ : BRef) (mask : Word) (s : State) : Out :=
  if s.hasBundle at_ then
    let now := (s.core at_.core).cyc
    .next (s.mapLanes at_ ((lanesOf mask).filter fun l => (find (s.bundle at_).lanes l).isSome) fun _ z =>
      match z.hold with
      | .stall u => if u ≤ now then { z with hold := .none } else z
      | _ => z)
  else .next s

/-- `HINT_REPLAY_ELAPSE` (R196). -/
def execHintReplayElapse (at_ : BRef) (mask : Word) (s : State) : Out :=
  if s.hasBundle at_ then
    let now := (s.core at_.core).cyc
    .next (s.mapLanes at_ ((lanesOf mask).filter fun l => (find (s.bundle at_).lanes l).isSome) fun _ z =>
      match z.hold with
      | .replay u => if u ≤ now then { z with hold := .none } else z
      | _ => z)
  else .next s

/-- `SLEEP_EXPIRE` (R248): with a lane whose time has come, every other lane of the bundle goes on whose time has come too. -/
def execSleepExpire (at_ : BRef) (lane : Nat) (s : State) : Out :=
  if s.hasBundle at_ then
    let now := (s.core at_.core).cyc
    let due (w : Why) : Bool := match w with
      | .sleep u => decide (u ≤ now)
      | _ => false
    if (s.bundle at_).parked.any fun k => k.waits.any fun w => w.1 == lane && due w.2 then
      .next (s.setBundle at_ ((s.bundle at_).release (fun _ w => due w) fun _ z => z))
    else .next s
  else .next s

/-- `LINE_WAITER_WAKE` (R86, R87): courses whose lines are all full, or one of them poisoned, execute again. -/
def execLineWaiterWake (at_ : BRef) (s : State) : Out := .next (s.resume at_ s.linesReady)

/-- `ASYNC_TRAP_TAKE` (R51): the next course of the bundle that would issue takes the trap instead. -/
def execAsyncTrapTake (at_ : BRef) (s : State) : Out :=
  match (s.crew at_.core at_.slot).async with
  | [] => .next s
  | i :: _ =>
    let ls := s.readyLanes at_
    if ls.isEmpty || !s.issue.isEmpty then .next s
    else
      let pc := s.pickPc at_ ls
      let course := ls.filter fun l => (s.lane at_ l).pc == pc
      let t := { s with cur := ⟨at_.core, at_.slot, at_.bundle, maskOf course, pc, 0, false⟩ }
      .next (t.takeAsync i)

end Sys2Proof.Machine
end

