-- ==== Sys2Proof/Machine/Queues.lean ====
section
/-!
DEFINITION. The engine queues of a core (R107-R109, R262, R274): entering a command, fences, completion; and what a
maintenance slot lets start (R385, Table 24-12).
-/

namespace Sys2Proof.Machine

/-- Queue numbers: copy queues 0-3, then these (R109). -/
def qMat : Nat := 4
def qAttn : Nat := 5
def qMesh : Nat := 6

def State.queue (s : State) (core q : Nat) : List QEnt := findD (s.core core).queues q []
def State.setQueue (s : State) (core q : Nat) (l : List QEnt) : State :=
  s.setCore core { s.core core with queues := setD (s.core core).queues q l [] }

/-! ### Fences (R262) -/

/-- Whether a port's queue has a marker, and whether it stands at the head. -/
def wqHasFence (l : List WqEnt) (id : Nat) : Bool := l.any fun e => e == .fence id
def wqHeadFence (l : List WqEnt) (id : Nat) : Bool := l.head? == some (.fence id)

/-- The write queues of every port of a core. -/
def State.coreWqs (s : State) (core : Nat) : List (List WqEnt) :=
  (s.bundlesOf core).flatMap fun b => (s.bundle b).ports.map fun p => p.2.wq

/-- A marker passes when it stands at the head of every queue that holds it. -/
def State.fencePasses (s : State) (core id : Nat) : Bool :=
  ((s.core core).queues.all fun q => !q.2.contains (.fence id) || q.2.head? == some (.fence id)) &&
    (s.coreWqs core).all fun l => !wqHasFence l id || wqHeadFence l id

/-- What the entries of a queue performed so far order, as far as a later command or an engine wait learns it (R108). -/
def State.qViewOf (s : State) (core q : Nat) : View := findD (s.core core).qView q []
def State.qGain (s : State) (core q : Nat) (v : View) : State :=
  if v.isEmpty then s
  else s.setCore core { s.core core with qView := put (s.core core).qView q ((s.qViewOf core q).join v) }

/-- A passed marker is gone; what the entries before it have ordered happens before every entry after it (R109). -/
def State.dropFence (s : State) (core id : Nat) : State :=
  let x := s.core core
  let holders := (x.queues.filter fun q => q.2.contains (.fence id)).map (·.1)
  let ports := (s.bundlesOf core).flatMap fun b => (s.bundle b).ports.filterMap fun p =>
    if wqHasFence p.2.wq id then some (b, p.1) else none
  let v := ports.foldl (fun (v : View) e => v.join (s.port e.1 e.2).done) (holders.foldl (fun v q => v.join (s.qViewOf core q)) [])
  let s1 := s.setCore core { x with
    queues := (x.queues.map fun (q : Nat × List QEnt) => (q.1, q.2.filter fun e => e != .fence id)).filter fun q => !q.2.isEmpty }
  let s2 := holders.foldl (fun s q => s.qGain core q v) s1
  ports.foldl (fun s e =>
    let q := s.port e.1 e.2
    s.setPort e.1 e.2 { q with wq := q.wq.filter fun w => w != .fence id, done := q.done.join v }) s2

/-- The markers at the heads of a core's queues. -/
def State.headFences (s : State) (core : Nat) : List Nat :=
  (s.core core).queues.filterMap (fun q => match q.2.head? with
    | some (.fence i) => some i
    | _ => none) ++
  (s.coreWqs core).filterMap fun l => match l.head? with
    | some (.fence i) => some i
    | _ => none

/-- Every marker whose earlier entries have all been performed is passed. -/
def State.passFences (s : State) (core : Nat) : Nat → State
  | 0 => s
  | n + 1 =>
    match (s.headFences core).find? (s.fencePasses core) with
    | some id => State.passFences (s.dropFence core id) core n
    | none => s

/-! ### Places -/

/-- Cells of a place. -/
def Place.cells (p : Place) : List Nat :=
  match p with
  | .phys cs _ _ _ => cs
  | _ => []

/-- Whether a place lies in a far page. -/
def Place.far (p : Place) : Bool :=
  match p with
  | .phys _ _ _ f => f
  | _ => false

/-! ### Maintenance slots (R384, R385, Table 24-12) -/

def State.die (s : State) (d : Nat) : Die := findD s.dies d default
def State.setDie (s : State) (d : Nat) (x : Die) : State := { s with dies := put s.dies d x }

/-- R184. -/
def mloopQ (fmt : Nat) : Nat :=
  if !isBlk (fmtA fmt) then 16
  else if fmtA fmt = 2 ∨ fmtB fmt = 2 then 64 else if fmtA fmt = 1 ∨ fmtB fmt = 1 then 128 else 256

/-- The computed duration of a command, in core cycles (Table 24-12). -/
def Cmd.duration (c : Cmd) : Nat :=
  match c.body with
  | .mat (.mloop m) => m.s * ceilDiv (m.m * m.n) (mloopQ m.fmt)
  | .mat (.gpart m _ _ _ _ _) => m.s * ceilDiv 65536 (mloopQ m.fmt)
  | .mat (.tld _ _ _ _ n) | .mat (.tst _ _ _ _ n) => 32 + ceilDiv n 37
  | .mat (.tzero _) => 32 + ceilDiv 4608 37
  | .mat (.accst _ _ rows) => 32 + ceilDiv (rows.foldl (fun a r => a + r.cells.length) 0) 37
  | .copy y => 32 + ceilDiv (y.units.foldl (fun a u => a + u.n) 0) 37
  | .mcast ys => 32 + ceilDiv (ys.foldl (fun a y => y.2.units.foldl (fun a u => a + u.n) a) 0) 37
  | .patch _ kb _ _ _ _ _ _ _ _ => 32 + ceilDiv (2 * kb.getD 0) 37
  | _ => 1

/-- Whether an engine of a core may start a command of this duration (Table 24-11). -/
def State.mayStart (s : State) (core dur : Nat) : Bool :=
  let d := s.die (dieOf core)
  match d.slot with
  | .run => true
  | .count u => decide (d.dcyc + dur ≤ u)
  | .drained | .held => false

/-- Whether a started command goes on: it has not been suspended. -/
def Cmd.goes (c : Cmd) : Bool := !c.suspended

/-- Whether accesses of a core to some cells stall while a slot is open (R384): near accesses in kinds 0 and 2, accesses to
the far tier and to another die's near memory in kind 3. -/
def State.slotStalls (s : State) (core : Nat) (far : Bool) (cells : List Nat) : Bool :=
  let d := s.die (dieOf core)
  d.slot == .held && (if d.slotId.kind = 3 then far || cells.any fun c => (Config.homeDie (lineOf c)).val != dieOf core
    else !far && (d.slotId.kind == 0 || d.slotId.kind == 2))
def State.placeStalls (s : State) (core n : Nat) (p : Place) : Bool :=
  match p with
  | .phys cs _ _ far => s.slotStalls core far (cs.take n)
  | _ => false

/-! ### Entering and completing commands -/

/-- A command that lanes of the course issue, with the next number. -/
def State.newCmd (s : State) (act : List Nat) (setw : Fin 16) (held : List (Nat × Nat)) (b : Body) : Cmd :=
  ⟨s.opSeq, s.ref, setw, held, false, false, none, 0, false, s.unsOf s.ref act, [], b⟩
def State.enter (s : State) (core q : Nat) (c : Cmd) : State :=
  { s.setQueue core q (s.queue core q ++ [.cmd c]) with opSeq := max s.opSeq (c.id + 1) }

/-- Whether accesses that the lanes of a command made before it are outstanding: its issue is a release of them to the engine
(R107). -/
def State.cmdOwed (s : State) (c : Cmd) : Bool := s.owes c.ref c.by_ c.id

/-- What happens before a command's accesses: its lanes' earlier accesses, what it has acquired itself, and what the queue's
fences have ordered (R107, R109). -/
def State.cmdView (s : State) (q : Nat) (c : Cmd) : View :=
  ((s.released c.ref (c.by_.map (·.1)) c.id).join c.got).join (s.qViewOf c.ref.core q)

/-- Whether a numbered operation is still outstanding in some queue, or in a write queue on its way to one. -/
def State.opOut (s : State) (id : Nat) : Bool :=
  s.cores.any fun x =>
    x.2.queues.any (fun q => q.2.any fun e => match e with
      | .cmd c => c.id == id
      | .fence _ => false) ||
    x.2.crews.any fun k => k.2.bundles.any fun y => y.2.ports.any fun p => p.2.wq.any fun e =>
      match e with
      | .push e => e.els.any (fun t => t.2.1 == .matrix) && decide (e.id ≤ id) && decide (id < e.id + e.els.length)
      | .fence _ => false

/-- Lanes whose `MWAIT` is over go on, having acquired what the matrix queue has ordered (R108), and courses that waited for earlier entries execute again (R285, R287). -/
def State.wakeMwait (s : State) : State :=
  let covers (w : Why) : Bool := match w with
    | .engine (.matrix ops) => ops.all fun o => !s.opOut o
    | _ => false
  let s1 := s.mapBundles fun b y => y.release (fun _ w => covers w) fun _ z =>
    { z with mind := z.mind.learn s.opSeq (s.qViewOf b.core qMat) }
  s1.cores.foldl (fun t x => (t.bundlesOf x.1).foldl (fun t b => t.resume b covers) t) s1

/-- Bundles whose `ACCALLOC` waits for blocks of a core, oldest crew first, then by bundle number (R92). -/
def State.blockWaiters (s : State) (core : Nat) : List BRef :=
  let bs := (s.bundlesOf core).filter fun b => (s.bundle b).parked.any fun k => k.waits.any fun w => w.2 == .blocks
  let key (b : BRef) : Nat := (s.crew core b.slot).lseq * 4096 + b.bundle
  bs.foldl (fun l b => (l.filter fun y => decide (key y ≤ key b)) ++ [b] ++ l.filter fun y => decide (key b < key y)) []
/-- Blocks have been freed on a core: requests that wait execute again in that order. -/
def State.blocksFreed (s : State) (core : Nat) : State :=
  (s.blockWaiters core).foldl (fun s b => s.resume b fun w => w == .blocks) s

/-! ### The head of the mesh queue (R316) -/

/-- The number of a tree's round among those of its gang. -/
def roundKey (tree round : Nat) : Nat := tree * 65536 + round % 65536

/-- A packet of the course's values leaves a core for its own router; its delivery orders what came before it (R318). -/
def State.inject (s : State) (c : Cmd) (tree round : Nat) (vals : List Word) : State :=
  let k := s.crew c.ref.core c.ref.slot
  match k.gang with
  | none => s
  | some gn =>
    let g := findD s.gangs gn default
    let p : Packet := ⟨tree, k.grank, 0, round, vals, 1#16 <<< k.grank, false, false, false⟩
    { s with gangs := put s.gangs gn { g with
      flight := g.flight ++ [p],
      treeView := put g.treeView (roundKey tree round) ((findD g.treeView (roundKey tree round) []).join (s.cmdView qMesh c)) } }

/-- Fences that stand at the head of their queues are passed, and every `RSEND` at the head of the mesh queue is
performed. -/
def State.settleQueues (s : State) (core : Nat) : Nat → State
  | 0 => s
  | n + 1 =>
    let s1 := s.passFences core 64
    match s1.queue core qMesh with
    | .cmd c :: r =>
      match c.body with
      | .rsend tree round vals =>
        if s1.mayStart core 1 && !s1.cmdOwed c then
          State.settleQueues (((s1.setQueue core qMesh r).inject c tree round vals).flagDec c.ref c.setw) core n
        else s1
      | _ => s1
    | _ => s1

/-- What finding a flag clear acquires grows (R108). -/
def State.flagGain (s : State) (b : BRef) (n : Fin 16) (v : View) : State :=
  if n.val < 12 ∧ !v.isEmpty ∧ s.hasBundle b then
    let y := s.bundle b
    s.setBundle b { y with flagView := put y.flagView n.val ((findD y.flagView n.val []).join v) }
  else s

/-- A command of queue `q` has been performed and has left its queue: it clears its SETW flag (R194), which orders what the
command has done (R108), and what waited for it goes on. -/
def State.complete (s : State) (q : Nat) (c : Cmd) : State :=
  let v := (s.cmdView q c).bump (queueAuthor (s.agentOf c.ref) q false) (s.clock + 1)
  let s1 := ((s.qGain c.ref.core q v).flagGain c.ref c.setw v).flagDec c.ref c.setw
  ((s1.settleQueues c.ref.core 4096).wakeMwait).wakeSave

/-- The first entry of a queue, when it is a command. -/
def State.headCmd (s : State) (core q : Nat) : Option Cmd :=
  match (s.queue core q).head? with
  | some (.cmd c) => some c
  | _ => none
def State.popHead (s : State) (core q : Nat) : State := s.setQueue core q (s.queue core q).tail
def State.setHead (s : State) (core q : Nat) (c : Cmd) : State := s.setQueue core q (.cmd c :: (s.queue core q).tail)

/-! ### `QFENCE` (R262) -/

def execQfence (x : Args) (s : State) : Out :=
  let act := s.act x
  let m := x.lit
  if act.isEmpty || m = 0 then .next (s.finish x true)
  else
    let core := s.cur.core
    let id := s.opSeq
    let s1 := (List.range 7).foldl (fun s q => if m.getLsbD q then s.setQueue core q (s.queue core q ++ [.fence id]) else s) s
    let s2 := (List.range 8).foldl (fun s n =>
      if m.getLsbD (7 + n) then
        let q := s.port s.ref n
        s.setPort s.ref n { q with wq := q.wq ++ [.fence id] }
      else s) s1
    .next (({ s2 with opSeq := id + 1 }.settleQueues core 4096).finish x true)

end Sys2Proof.Machine
end

