-- ==== Sys2Proof/Machine/EngineIO.lean ====
section
/-!
DEFINITION. How an engine reads and writes a place of memory (R86, R182, R274), and forms that act once for a course
(R273).
-/

namespace Sys2Proof.Machine

/-! ### Places -/

/-- Whether an empty line, or a line that is being refetched, holds a read of a place (R182, R274). -/
def State.placeHeld (s : State) (p : Place) (n : Nat) : Bool :=
  match p with
  | .phys cs _ _ _ => (cs.take n).any fun c => (s.refetching c).isSome
  | .scr c k off => (linesTouched off n).any fun l => s.line c k l == .empty
  | .matrix => false

/-- Whether byte `i` of a place is poisoned. -/
def State.byteBad (s : State) (p : Place) (i : Nat) : Bool :=
  match p with
  | .phys cs _ _ _ => s.cellPoison (cs.getD i 0)
  | .scr c k off => s.line c k ((off + i) / 128) == .poisoned
  | .matrix => false
def State.placeBad (s : State) (p : Place) (n : Nat) : Bool := (List.range n).any (s.byteBad p)

/-- The locations of a place with what they hold now. -/
def State.placeCur (s : State) (p : Place) (n : Nat) : List (Nat × Byte) :=
  match p with
  | .phys cs _ _ _ => (cs.take n).zip (s.cells (cs.take n))
  | .scr c k off => s.scrCur c k off n
  | .matrix => []

/-- What observing the lines of a place full acquires (R87). -/
def State.lineViews (s : State) (p : Place) (n : Nat) : View :=
  match p with
  | .scr c k off => (linesTouched off n).foldl (fun v l => v.join (findD (s.crew c k).lineView l [])) []
  | _ => []

/-- The bytes of a place that a command reads: of each the newest write that happens before the command (R107), or that it has
observed in a full line (R87), its own among them. -/
def State.placeRead (s : State) (r : Reader) (p : Place) (n : Nat) : List Byte :=
  let r1 := { r with view := r.view.join (s.lineViews p n) }
  (s.placeCur p n).map fun e =>
    let vs := findD s.vers e.1 []
    (verAt (r1.least e.1 vs) e.2 vs).1

/-- Whether a page that a write of a place touches is being promoted, so that the write waits (Table 09-4). -/
def State.placeBusy (s : State) (p : Place) (n : Nat) : Bool :=
  match p with
  | .phys _ va _ _ => s.promoting va || s.promoting (va + n - 1)
  | _ => false

/-- Bytes written to a place from its start by an engine: `a` gives its author by whether the page is UN, and `before` the
cells that the same command has written already. -/
def State.placeWrite (s : State) (a : Bool → Nat) (before : List Nat) (p : Place) (bs : List Byte) : State :=
  match p with
  | .phys cs va uns _ =>
    let w := cs.zip bs
    let un (c : Nat) : Bool := uns.any fun u => decide (u.1 ≤ c) && decide (c < u.1 + u.2)
    let note (s : State) (b : Bool) : State :=
      let l := (w.filter fun e => un e.1 == b).map fun e => (e.1, s.cell e.1)
      if l.isEmpty then s else s.note ⟨a b, s.clock + 1, false, none⟩ l
    ((note (note ((s.wrotePage va).wrotePage (va + bs.length - 1)) false) true).storeOver before w)
  | .scr c k off => (s.note ⟨a false, s.clock + 1, false, none⟩ (s.scrCur c k off bs.length)).storeScr c k off bs
  | .matrix => s

/-- A command of a queue as a reader, and as a writer. -/
def State.cmdReader (s : State) (q : Nat) (c : Cmd) : Reader :=
  ⟨s.cmdView q c, [queueAuthor (s.agentOf c.ref) q false, queueAuthor (s.agentOf c.ref) q true], []⟩
def State.cmdWriter (s : State) (q : Nat) (c : Cmd) (un : Bool) : Nat := queueAuthor (s.agentOf c.ref) q un

/-- The place from byte `i` on. -/
def Place.drop (p : Place) (i : Nat) : Place :=
  match p with
  | .phys cs va uns far => .phys (cs.drop i) (va + i) uns far
  | .scr c k off => .scr c k (off + i)
  | .matrix => .matrix

/-- What identifies the 128 B destination line that byte `i` of a place lies in. -/
def Place.line (p : Place) (i : Nat) : Nat × Nat × Nat :=
  match p with
  | .phys cs _ _ _ => (0, 0, cs.getD i 0 / 128)
  | .scr c k off => (1 + c, k, (off + i) / 128)
  | .matrix => (0, 0, 0)

/-! ### Forms that act once for a course (R273) -/

/-- The instruction of a course-level form: nothing with no lane predicated on; else its pops are checked, and `k`
takes them with the lowest lane. -/
def State.course1 (s : State) (i : Instr) (x : Args) (k : Taken → Nat → Out) : Out :=
  match s.act x with
  | [] => .next (s.finish x true)
  | l :: _ =>
    match s.take s.ref (i.shape.getD default) x (s.act x) with
    | .error e => s.settle x (.error e)
    | .ok t => k t l

/-- A register operand of one lane, as a number. -/
def State.opVal (s : State) (t : Taken) (x : Args) (regs l : Nat) (o : Opnd) : Nat :=
  (s.rd s.ref t x false regs l o).toNat % 2 ^ (32 * regs)

/-- A predicate result written the same to every lane predicated on. -/
def State.setPred1 (s : State) (x : Args) (v : Bool) : State := s.writePred s.ref (s.act x) x.d fun _ => v

/-- Whether every one of the voters has one value of an operand (R23). -/
def State.agree (s : State) (t : Taken) (x : Args) (regs : Nat) (o : Opnd) (ls : List Nat) : Bool :=
  ls.all fun l => s.opVal t x regs l o == s.opVal t x regs (ls.headD 0) o

/-- The whole course waits on its engine or port, to go on at the next word. -/
def State.parkAll (s : State) (x : Args) (w : Why) : State := s.parkDone x (s.lanes.map fun l => (l, w))

/-- The lowest lane of a course waits, and the instruction executes again. -/
def State.waitAgain (s : State) (x : Args) (w : Why) : State := s.parkAgain x ((s.act x).map fun l => (l, w))

end Sys2Proof.Machine
end

