-- ==== Sys2Proof/Machine/Memory.lean ====
section
/-!
DEFINITION. Class 0x5, memory (Table 14-2, R249-R257): one meaning for each form.
-/

namespace Sys2Proof.Machine

/-! ### Addresses and sizes (R249) -/

def gEa (a : DWord) (off : Word) : Nat := (a + off.signExtend 64).toNat
def gEaW (a : DWord) (off : Word) (b : DWord) : Nat := (a + off.signExtend 64 + 4 * (b &&& 0xFFFFFFFF#64)).toNat
def sEa (a : DWord) (off : BitVec 20) : Word := a.setWidth 32 + off.signExtend 32

def memBytes (w : MemW) : Nat :=
  match w with
  | .n8 | .s8 => 1
  | .n16 | .s16 => 2
  | .b32 => 4
  | .b64 => 8
def memSigned (w : MemW) : Bool := w == .s8 || w == .s16

/-! ### Issue of an access -/

/-- Registers whose results are still to come are pending in the lanes that will be written (R196). -/
def State.markPend (s : State) (b : BRef) (act : List Nat) (d : Opnd) (regs : Nat) : State :=
  match d with
  | .v n => s.mapLanes b act fun _ z => { z with pendV := setPend z.pendV n.val regs }
  | _ => s

/-- The lanes' next operation is a load or atomic, which a `FENCE.acq` may make an acquire, or a store or atomic, which a
`FENCE.rel` before it has made a release (R99). -/
def State.noteOp (s : State) (act : List Nat) (reads writes : Bool) : State :=
  s.mapLanes s.ref act fun _ z => { z with mind := { z.mind with
    last := if reads then some (s.opSeq, []) else z.mind.last,
    relNext := if writes then none else z.mind.relNext } }

/-- The release that a `FENCE.rel` has made of a lane's next store or atomic. -/
def State.relOf (s : State) (l : Nat) : Option Scope := (s.lane s.ref l).mind.relNext
def State.unOf (s : State) (l : Nat) : Nat := (s.lane s.ref l).mind.un

/-- The ordering of an access that carries none. -/
def plain : Order := ⟨.rlx, .lane⟩

/-- Accesses of the course become outstanding as operation `id`. -/
def State.startPend (s : State) (id : Nat) (kind : PKind) (parts : List Part) (dst : Opnd) (setw : Fin 16) : State :=
  { s.addPend s.cur.core ⟨id, s.ref, kind, parts, dst, setw, (s.core s.cur.core).cyc, [], []⟩ with opSeq := max s.opSeq (id + 1) }

/-- An access performed at issue waits while a line it reads is being refetched (R182). -/
def State.refetchWait (s : State) (xs : List (Nat × Xl)) : Res Unit :=
  let held := xs.filterMap fun e => (e.2.cells.findSome? s.refetching).map fun l => (e.1, Why.refetch l)
  if held.isEmpty then .ok () else .error (.wait held)

/-- Parts performed at issue wait until nothing outstanding of their lanes holds them (R101-R103). -/
def State.awaitParts (s : State) (ps : List Part) : Res Unit :=
  match ps.filter (s.partHeld s.ref) with
  | [] => .ok ()
  | l => .error (.wait ((l.map Part.lane).eraseDups.map fun n => (n, .accesses)))

/-! ### Loads -/

/-- Whether the destination is a port of the matrix command channel, whose records are checked at issue (R281). -/
def State.toMatrix (s : State) (x : Args) : Bool :=
  match x.d with
  | .q n => let q := s.port s.ref n.val; q.bound && descWrite q.d && descTarget q.d == 2
  | _ => false

/-- Loads performed at issue, in order: what each lane has read, in pieces. -/
def State.readNow (s : State) (ps : List Part) : State × List (Nat × List Byte) :=
  ps.foldl (fun (a : State × List (Nat × List Byte)) p =>
    let r := a.1.readPart s.ref s.opSeq p
    (r.1, a.2 ++ [(p.lane, r.2)])) (s.metPoison s.ref (ps.flatMap s.partPoison), [])

/-- Stores performed at issue, in order, as one operation. -/
def State.storeNow (s : State) (ps : List Part) : State :=
  let s1 := ps.foldl (fun (t : State) p => t.writePart (t.laneWr s.ref s.opSeq p false) p p.data) s
  { s1 with opSeq := max s1.opSeq (s.opSeq + 1) }

/-- The words of a lane among pieces read. -/
def wordsRead (sgn : Bool) (got : List (Nat × List Byte)) (l : Nat) : List Word :=
  loadWords sgn ((got.filter fun e => e.1 == l).flatMap fun e => e.2)

/-- A load that feeds the matrix channel is performed at issue, since its records are checked there (R281; DEDUCED,
assumption 7). -/
def State.loadChannel (s : State) (x : Args) (t : Taken) (act : List Nat) (regs : Nat) (sgn : Bool) (es : List Tlb)
    (ps : List Part) : Out :=
  match s.awaitParts ps with
  | .error e => s.settle x (.error e)
  | .ok _ =>
    let f := if ps.any Part.far then s.farAsk s.cur.core (.fetch s.ref 8) else (s, true)
    if !f.2 then .next (f.1.parkAgain x (act.map fun l => (l, .accesses)))
    else
      let r := (f.1.noteOp act true false).readNow ps
      s.pushOr x act regs (wordsRead sgn r.2) fun _ =>
        .next ((((r.1.commitPops s.ref act t).fillUsed s.cur.core es).writeDst s.ref x t act regs (wordsRead sgn r.2)).finish x false)

/-- A load whose checks have passed: its accesses are outstanding; a port takes them in one entry, placed now and filled when
they are complete (R144, R194). -/
def State.startLoad (s : State) (x : Args) (t : Taken) (act : List Nat) (regs : Nat) (sgn : Bool) (es : List Tlb)
    (ps : List Part) (tags : List (Nat × Tag)) : State :=
  let b := s.ref
  let id := s.opSeq
  let s1 := (((s.commitPops b act t).fillUsed b.core es).giveTags b tags).noteOp act true false
  let s2 := match x.d with
    | .q n => s1.commitPushOf b n.val (4 * regs) act act (t.push.getD ⟨[], []⟩) x.sched.setw act fun _ => 0
    | _ => s1.markPend b act x.d regs
  (s2.startPend id (.load sgn regs) ps x.d (if pushes x act then 15 else x.sched.setw)).finish x false

/-- A load's parts and translations, once its addresses have been checked, go on. -/
def State.issueLoad (s : State) (x : Args) (t : Taken) (act : List Nat) (regs : Nat) (sgn : Bool) (es : List Tlb)
    (ps : List Part) : Out :=
  if act.isEmpty then .next ((s.commitPops s.ref act t).finish x true)
  else if s.toMatrix x then s.loadChannel x t act regs sgn es ps
  else
    let tags := dstTags act x.d regs (fun _ _ => .general) fun _ => []
    s.withRoom x act tags fun s1 => .next (s1.startLoad x t act regs sgn es ps tags)

/-- The whole of a global load of `n` bytes into `regs` registers (R250-R252). -/
def State.loadG (s : State) (i : Instr) (x : Args) (o : Order) (n regs : Nat) (sgn : Bool) (ea : LIn → Nat) : Out :=
  let sh := i.shape.getD default
  let act := s.act x
  match s.take s.ref sh x act with
  | .error e => s.settle x (.error e)
  | .ok t =>
    match s.xlateAll s.ref .read (act.map fun l => (l, ea (s.laneIn s.ref t sh x false act l), n)) with
    | .error e => s.settle x (.error e)
    | .ok xs =>
      let ps := xs.flatMap fun e => e.2.parts e.1 n true false o none (s.unOf e.1) []
      match if s.toMatrix x then s.refetchWait xs else .ok () with
      | .error e => s.settle x (.error e)
      | .ok _ => s.issueLoad x t act regs sgn (xs.flatMap fun e => e.2.es) ps

/-- The whole of a scratchpad load: its lines are examined at issue (R251). -/
def State.loadS (s : State) (i : Instr) (x : Args) (o : Order) (n regs : Nat) (sgn : Bool) (ea : LIn → Word) : Out :=
  let sh := i.shape.getD default
  let act := s.act x
  match s.take s.ref sh x act with
  | .error e => s.settle x (.error e)
  | .ok t =>
    match s.scrAll s.ref true (act.map fun l => (l, ea (s.laneIn s.ref t sh x false act l), n)) with
    | .error e => s.settle x (.error e)
    | .ok ts =>
      s.issueLoad x t act regs sgn [] (ts.flatMap fun e => s.scrParts e.1 e.2.1 e.2.2.1 e.2.2.2 n o none (s.unOf e.1) [])

/-! ### Stores -/

/-- A store whose checks have passed: its accesses are outstanding. -/
def State.issueStore (s : State) (x : Args) (t : Taken) (act : List Nat) (es : List Tlb) (ps : List Part) : State :=
  let s1 := (s.commitPops s.ref act t).fillUsed s.cur.core es
  if act.isEmpty then s1.finish x true
  else ((s1.noteOp act false true).startPend s.opSeq .store ps .none x.sched.setw).finish x false

/-- The whole of a global store. -/
def State.storeG (s : State) (i : Instr) (x : Args) (o : Order) (n : Nat) (ea : LIn → Nat)
    (data : Taken → LIn → List Byte) : Out :=
  let sh := i.shape.getD default
  let act := s.act x
  match s.take s.ref sh x act with
  | .error e => s.settle x (.error e)
  | .ok t =>
    let ins := act.map (s.laneIn s.ref t sh x false act)
    match s.xlateAll s.ref .write (ins.map fun e => (e.lane, ea e, n)) with
    | .error e => s.settle x (.error e)
    | .ok xs =>
      .next (s.issueStore x t act (xs.flatMap fun e => e.2.es) ((ins.zip xs).flatMap fun e =>
        e.2.2.parts e.1.lane n false true o (s.relOf e.1.lane) (s.unOf e.1.lane) (data t e.1)))

/-- The whole of a scratchpad store. -/
def State.storeS (s : State) (i : Instr) (x : Args) (o : Order) (n : Nat) (ea : LIn → Word)
    (data : Taken → LIn → List Byte) : Out :=
  let sh := i.shape.getD default
  let act := s.act x
  match s.take s.ref sh x act with
  | .error e => s.settle x (.error e)
  | .ok t =>
    let ins := act.map (s.laneIn s.ref t sh x false act)
    match s.scrAll s.ref false (ins.map fun e => (e.lane, ea e, n)) with
    | .error e => s.settle x (.error e)
    | .ok ts =>
      .next (s.issueStore x t act [] ((ins.zip ts).flatMap fun e =>
        s.scrParts e.1.lane e.2.2.1 e.2.2.2.1 e.2.2.2.2 n o (s.relOf e.1.lane) (s.unOf e.1.lane) (data t e.1)))

/-- The low bytes of a source. -/
def dataB (n : Nat) (_ : Taken) (e : LIn) : List Byte := leBytes e.b.toNat n
/-- The bytes of a group of registers, or of a port's element. -/
def State.dataGroup (s : State) (x : Args) (n : Nat) (t : Taken) (e : LIn) : List Byte :=
  (s.rdGroup s.ref t n e.lane x.b).flatMap fun w => leBytes w.toNat 4

/-! ### The forms -/

/-- `LDG` (R249, R250). -/
def execLdg (w : MemW) (o : Order) (off : Word) (x : Args) (s : State) : Out :=
  s.loadG (.ldg w o off x) x o (memBytes w) w.regs (memSigned w) fun e => gEa e.a off
/-- `STG` (R249, R250). -/
def execStg (w : MemW) (o : Order) (off : Word) (x : Args) (s : State) : Out :=
  s.storeG (.stg w o off x) x o (memBytes w) (fun e => gEa e.a off) (dataB (memBytes w))
/-- `LDS` (R249, R250). -/
def execLds (w : MemW) (o : Order) (off : BitVec 20) (x : Args) (s : State) : Out :=
  s.loadS (.lds w o off x) x o (memBytes w) w.regs (memSigned w) fun e => sEa e.a off
/-- `STS` (R249, R250). -/
def execSts (w : MemW) (o : Order) (off : BitVec 20) (x : Args) (s : State) : Out :=
  s.storeS (.sts w o off x) x o (memBytes w) (fun e => sEa e.a off) (dataB (memBytes w))
/-- `LDGV` (R253). -/
def execLdgv (w : VecN) (o : Order) (off : Word) (x : Args) (s : State) : Out :=
  s.loadG (.ldgv w o off x) x o (4 * w.count) w.count false fun e => gEa e.a off
/-- `STGV` (R253). -/
def execStgv (w : VecN) (o : Order) (off : Word) (x : Args) (s : State) : Out :=
  s.storeG (.stgv w o off x) x o (4 * w.count) (fun e => gEa e.a off) (s.dataGroup x w.count)
/-- `LDSV` (R253). -/
def execLdsv (w : VecN) (o : Order) (off : BitVec 20) (x : Args) (s : State) : Out :=
  s.loadS (.ldsv w o off x) x o (4 * w.count) w.count false fun e => sEa e.a off
/-- `STSV` (R253). -/
def execStsv (w : VecN) (o : Order) (off : BitVec 20) (x : Args) (s : State) : Out :=
  s.storeS (.stsv w o off x) x o (4 * w.count) (fun e => sEa e.a off) (s.dataGroup x w.count)
/-- `LDGW` (R254). -/
def execLdgw (o : Order) (off : Word) (x : Args) (s : State) : Out :=
  s.loadG (.ldgw o off x) x o 4 1 false fun e => gEaW e.a off e.b
/-- `STGW` (R254): it stores c. -/
def execStgw (o : Order) (off : Word) (x : Args) (s : State) : Out :=
  s.storeG (.stgw o off x) x o 4 (fun e => gEaW e.a off e.b) fun _ e => leBytes e.c.toNat 4

/-- The state of a line is set; observing it full acquires what made it so (R87). -/
def State.markLine (s : State) (c k n : Nat) (st : LineSt) (v : View) : State :=
  let s1 := s.setLine c k n st
  if st = .full ∧ s1.hasCrew c k then
    let y := s1.crew c k
    s1.setCrew c k { y with lineView := setD y.lineView n v [] }
  else s1

/-- `LINESET` (R255): lines from the one that holds ea, in ascending lane order; setting lines full is a release. -/
def execLineset (st : LineSt) (off : BitVec 20) (x : Args) (s : State) : Out :=
  let sh := (Instr.lineset st off x).shape.getD default
  let act := s.act x
  match s.take s.ref sh x act with
  | .error e => s.settle x (.error e)
  | .ok t =>
    let ins := act.map (s.laneIn s.ref t sh x false act)
    let ts := ins.map fun e =>
      (e.lane, sEa e.a off, ux 32 e.b,
        match s.scrAddr s.ref (sEa e.a off) 0 with
        | some p => if p.2.2 / 128 + ux 32 e.b ≤ (s.crew p.1 p.2.1).slines then some p else none
        | none => none)
    let bad := ts.filter fun e => e.2.2.2.isNone
    match bad with
    | e :: _ => s.settle x (.error (.trap (maskOf (bad.map (·.1))) (scrSegv e.2.1)))
    | [] =>
      match if st = .full then s.awaitOwn act else .ok () with
      | .error e => s.settle x (.error e)
      | .ok _ =>
        .next ((ts.foldl (fun s e =>
          match e.2.2.2 with
          | some p => (List.range e.2.2.1).foldl (fun s j => s.markLine p.1 p.2.1 (p.2.2 / 128 + j) st
              (s.released s.ref [e.1] s.opSeq)) s
          | none => s) (s.commitPops s.ref act t)).finish x true)

/-- The code of a line state (R86). -/
def lineCode (st : LineSt) : Nat :=
  match st with
  | .empty => 0
  | .full => 1
  | .poisoned => 2

/-- `LINEQ` (R256). -/
def execLineq (off : BitVec 20) (x : Args) (s : State) : Out :=
  let sh := (Instr.lineq off x).shape.getD default
  let act := s.act x
  match s.take s.ref sh x act with
  | .error e => s.settle x (.error e)
  | .ok t =>
    let ts := act.map fun l =>
      let a := sEa (s.laneIn s.ref t sh x false act l).a off
      (l, a, s.scrAddr s.ref a 1)
    let bad := ts.filter fun e => e.2.2.isNone
    match bad with
    | e :: _ => s.settle x (.error (.trap (maskOf (bad.map (·.1))) (scrSegv e.2.1)))
    | [] =>
      let val (e : Nat × Word × Option (Nat × Nat × Nat)) : Nat :=
        let p := e.2.2.getD (0, 0, 0)
        (List.range 16).foldl (fun a j =>
          let n := p.2.2 / 128 + j
          a + (if n < (s.crew p.1 p.2.1).slines then lineCode (s.line p.1 p.2.1 n) else 3) * 4 ^ j) 0
      let outs := ts.map fun e => (e.1, ({ val := BitVec.ofNat 64 (val e) } : LOut))
      let tags := dstTags act x.d 1 (fun _ _ => .general) fun _ => []
      s.pushOr x act 1 (fun l => wordsOf 1 (outOf outs l).val) fun _ =>
        s.withRoom x act tags fun s1 => .next (s1.commit sh x t act tags outs 0)

/-- Whether a line can be prefetched and lies in a far page: the cached translation, or in hardware mode the walk's (R257). -/
def State.prefFar (s : State) (l va : Nat) : Bool :=
  if outside va 1 then false
  else
    match s.xlate1 s.ref l va .read with
    | .ok t => t.far
    | .error f => f.walking && (match s.walk s.cur.core f.asid va with
      | .leaf t => t.far && t.allows s.curCrew.sup .read
      | .fault _ => false)

/-- `PREF` (R257): no value changes and nothing traps; the prefetch of each far line takes a unit of the limiter, and waits
for it behind earlier requests while the instruction goes on. No lane's accesses are ordered by it. -/
def execPref (off : Word) (x : Args) (s : State) : Out :=
  let sh := (Instr.pref off x).shape.getD default
  let act := s.act x
  let at_ (l : Nat) : Nat := gEa (s.laneIn s.ref ⟨[], none⟩ sh x false act l).a off
  let far := (act.filter fun l => s.prefFar l (at_ l)).map fun l => at_ l / 128 * 128
  let ps := far.eraseDups.map fun va => (⟨32, 0, [], [], va, 1, .rc, true, none, none, 0, none⟩ : Part)
  let s1 := s.finish x true
  .next (if ps.isEmpty then s1 else s1.startPend s.opSeq .pref ps .none 15)

/-- `CCTL` (R257): where bytes sit, and nothing that a read returns. -/
def execCctl (_ : CctlVar) (_ : Word) (x : Args) (s : State) : Out := .next (s.finish x true)

end Sys2Proof.Machine
end

