-- ==== Sys2Proof/Machine/PortForms.lean ====
section
/-!
DEFINITION. Class 0x8, ports (Table 15-1, R139, R149, R275): one meaning for each form; and the steps of the pattern
engine and of a port's write queue (R140, R145, R146).
-/

namespace Sys2Proof.Machine

/-- The port a form of class 0x8 names in SRCA. -/
def portNo (x : Args) : Nat :=
  match x.a with
  | .q n | .peek n => n.val
  | _ => 0

/-! ### Controls -/

/-- A port with no binding, that keeps what `PSTAT` reports of it (Table 07-5). -/
def Port.unbind (q : Port) : Port :=
  { (default : Port) with err := q.err, fidx := q.fidx, faddr := q.faddr, fcoord := q.fcoord, done := q.done }

/-- `PUNBIND` (R275, Table 07-5). -/
def execPunbind (x : Args) (s : State) : Out :=
  let n := portNo x
  if (s.act x).isEmpty then .next (s.finish x true)
  else
    let q := s.port s.ref n
    if q.pending ≠ 0 then .next (s.waitAgain x .port)
    else if q.bound then .next ((s.setPort s.ref n { q.unbind with wq := q.wq }).finish x true)
    else .next (s.finish x true)

/-- Whether the fields of a descriptor marked zero are zero and its codes are not reserved (Table 07-2). -/
def descFormed (d : Nat) : Bool :=
  bits d 511 496 == 0 && bits d 31 12 == 0 && bits d 2 0 == 0 && descTarget d != 3 && decide (bits d 9 7 ≤ 4) &&
    (if descTarget d = 2 then decide (descChan d ≤ 1) else descChan d == 0) &&
    (descTarget d != 1 || bits d 255 224 == 0)

/-- Table 07-4. -/
def chanFits (d : Nat) : Bool :=
  (if descChan d = 0 then !descWrite d && bits d 9 7 == 2 else descWrite d && bits d 9 7 == 4) &&
    bits d 495 192 == 0 && (List.range 4).all fun k => descExt d (k + 1) == 1

/-- The checks of R139 after the vote, in the order of Table 07-3; the other ports of the bundle are `others`. -/
def bindCode (d : Nat) (others : List Port) : Nat :=
  if !descFormed d then 1
  else if (List.range 5).any (fun k => descExt d k == 0) || decide (2 ^ 48 ≤ descLen d) then 2
  else if descBase d % descEsize d ≠ 0 || (List.range 5).any (fun k => descStride d k % (descEsize d : Int) != 0) then 3
  else if descTarget d = 2 && !chanFits d then 4
  else if descTarget d = 2 && others.any (fun q => q.bound && descTarget q.d == 2 && descChan q.d == descChan d) then 5
  else 0

/-- The other ports of a bundle. -/
def Bundle.otherPorts (y : Bundle) (n : Nat) : List Port := (y.ports.filter fun e => e.1 != n).map (·.2)

/-- A port newly bound to a descriptor. -/
def Port.bindTo (q : Port) (d : Nat) : Port :=
  { q.unbind with bound := true, desc := BitVec.ofNat 512 d, err := 0, wq := q.wq }

/-- A form that sets a port's position: what is read from now on is read after everything that happens before the form, and
nothing fetched earlier is kept (R110). -/
def State.setStream (s : State) (act : List Nat) (n : Nat) (q : Port) : State :=
  { s.setPort s.ref n { q with buf := [], since := s.opSeq, by_ := s.unsOf s.ref act } with opSeq := s.opSeq + 1 }

/-- The end of `PBIND`: its result code and predicate. -/
def State.bindEnd (s : State) (x : Args) (n code d : Nat) : State :=
  let q := s.port s.ref n
  let s1 := if code = 0 then s.setStream (s.act x) n (q.bindTo d) else s.setPort s.ref n { q with err := code }
  (s1.setPred1 x (code == 0)).finish x true

/-- A record or descriptor that a form reads at issue, as a load of its lowest lane in program order (R139): its bytes, once
nothing outstanding of the lane holds the read. -/
def State.readRecord (s : State) (es : List Tlb) (ps : List Part) (k : State → Nat → Out) (x : Args) : Out :=
  match s.awaitParts ps with
  | .error e => s.settle x (.error e)
  | .ok _ =>
    let f := if ps.any Part.far then s.farAsk s.cur.core (.fetch s.ref 8) else (s, true)
    if !f.2 then .next (f.1.parkAgain x ((s.act x).map fun l => (l, .accesses)))
    else
      let r := ((f.1.fillUsed s.cur.core es).noteOp (ps.map Part.lane) true false).readNow ps
      k r.1 (leNat (r.2.flatMap fun e => e.2))

/-- `PBIND` (R139, R275). -/
def execPbind (g : Bool) (x : Args) (s : State) : Out :=
  let n := portNo x
  let act := s.act x
  let b := s.ref
  match act with
  | [] => .next (s.finish x true)
  | l :: _ =>
    let a := s.opVal ⟨[], none⟩ x (if g then 2 else 1) l x.b
    let bind (s : State) (d : Nat) : Out := .next (s.bindEnd x n (bindCode d ((s.bundle b).otherPorts n)) d)
    if (s.port b n).pending ≠ 0 then .next (s.waitAgain x .port)
    else if !s.agree ⟨[], none⟩ x (if g then 2 else 1) x.b act then .next (s.bindEnd x n 6 0)
    else if a % 64 ≠ 0 then
      s.settle x (.error (.trap (maskOf act)
        ⟨4, BitVec.ofNat 32 a, 0, if g then BitVec.ofNat 32 (bits a 55 32) else 0, 0⟩))
    else if g then
      match forAll act (s.xlateAll b .read [(l, a, 64)]) with
      | .error e => s.settle x (.error e)
      | .ok xs =>
        match s.refetchWait xs with
        | .error e => s.settle x (.error e)
        | .ok _ =>
          if (xs.flatMap fun e => e.2.cells).any s.cellPoison then s.settle x (.error (trapLanes act 6 0))
          else s.readRecord (xs.flatMap fun e => e.2.es)
            (xs.flatMap fun e => e.2.parts l 64 true false plain none (s.unOf l) []) bind x
    else
      match forAll act (s.scrAll b true [(l, BitVec.ofNat 32 a, 64)]) with
      | .error e => s.settle x (.error e)
      | .ok ts => s.readRecord [] (ts.flatMap fun t => s.scrParts l t.2.1 t.2.2.1 t.2.2.2 64 plain none (s.unOf l) []) bind x

/-- The words of Table 07-6. -/
def Port.stat (q : Port) (sel : Nat) : Nat :=
  match sel with
  | 0 =>
    (if q.bound then
      2 ^ 63 + (if descWrite q.d then 2 ^ 62 else 0) + (if q.atEnd then 2 ^ 61 else 0) +
        (if descLaned q.d then 2 ^ 60 else 0) + q.pending * 2 ^ 48 + q.pos
     else 0) + q.err * 2 ^ 56
  | 1 => q.fidx
  | 2 => q.faddr.toNat
  | k => q.fcoord.getD (k - 3) 0

/-- `PSTAT` (R275). -/
def execPstat (x : Args) (s : State) : Out :=
  let q := s.port s.ref (portNo x)
  let sh := (Instr.pstat x).shape.getD default
  let act := s.act x
  match s.take s.ref { sh with a := ⟨.unused, 0⟩ } { x with a := .none } act with
  | .error e => s.settle x (.error e)
  | .ok t =>
    let outs := act.map fun l => (l, ({ val := BitVec.ofNat 64 (q.stat (s.opVal t x 1 l x.b % 8)) } : LOut))
    let tags := dstTags act x.d 2 (fun _ _ => .general) fun _ => []
    s.pushOr x act 2 (fun l => wordsOf 2 (outOf outs l).val) fun _ =>
      s.withRoom x act tags fun s1 => .next (s1.commit sh x t act tags outs 0)

/-- A form that moves POS, or traps PORTEND on an unbound port. -/
def State.movePos (s : State) (i : Instr) (x : Args) (f : Port → Nat → Port) : Out :=
  let n := portNo x
  let act := s.act x
  match act with
  | [] => .next (s.finish x true)
  | l :: _ =>
    match s.take s.ref { i.shape.getD default with a := ⟨.unused, 0⟩ } { x with a := .none } act with
    | .error e => s.settle x (.error e)
    | .ok t =>
      if !(s.port s.ref n).bound then s.settle x (.error (portEnd act n 1))
      else
        let v := s.opVal t x 2 l x.b % 2 ^ 48
        let s1 := s.commitPops s.ref act t
        .next ((s1.setStream act n (f (s1.port s.ref n) v)).finish x true)

/-- `PSKIP` (R275, R148). -/
def execPskip (x : Args) (s : State) : Out := s.movePos (.pskip x) x Port.advance

/-- The effect of `PREWIND` on a port: what was delivered and not popped is discarded (R148). -/
def Port.rewind (q : Port) (p : Nat) : Port :=
  { q with pos := min p q.len, words := [], nextWord := min p q.len }

/-- `PREWIND` (R275, R148). -/
def execPrewind (x : Args) (s : State) : Out := s.movePos (.prewind x) x Port.rewind

/-- Whether the write queues of the bound write ports in a mask hold no entry. -/
def Bundle.flushed (y : Bundle) (m : Nat) : Bool :=
  (List.range 8).all fun n => !m.testBit n || !(y.port n).bound || !descWrite (y.port n).d || (y.port n).pending == 0

/-- What the performed pushes of the ports in a mask have done (R108, R110). -/
def Bundle.pushed (y : Bundle) (m : Nat) : View :=
  (List.range 8).foldl (fun v n => if m.testBit n then v.join (y.port n).done else v) []

/-- `PFLUSH` (R275): an ordering point at which POISON is taken (R182). -/
def execPflush (x : Args) (s : State) : Out :=
  s.course1 (.pflush x) x fun t l =>
    let m := s.opVal t x 1 l x.a % 256
    let s1 := s.commitPops s.ref (s.act x) t
    if (s1.bundle s.ref).flushed m then
      .next (((s1.learnAll s.ref s.lanes ((s1.bundle s.ref).pushed m)).finish x true).orderPoint s.cur.core s.cur.slot)
    else .next (s1.parkAll x (.engine (.pflush (BitVec.ofNat 8 m))))

/-- `BPEND` (R275). -/
def execBpend (disp : Word) (x : Args) (s : State) : Out :=
  let act := s.act x
  let q := s.port s.ref (portNo x)
  if !act.isEmpty && !q.bound then s.settle x (.error (portEnd act (portNo x) 1))
  else .next (s.finishTo x true fun l => if act.contains l && q.atEnd then s.cur.pc + disp.signExtend 64 else s.cur.pc + 16)

/-! ### The pattern engine -/

/-- Lanes that wait on a port of a bundle try again; a `PFLUSH` that is over goes on. -/
def State.wakePorts (s : State) (b : BRef) : State :=
  if s.hasBundle b then
    let y := s.bundle b
    (s.setBundle b (y.release (fun _ w => match w with
      | .engine (.pflush m) => y.flushed m.toNat
      | _ => false) fun w z => match w with
        | .engine (.pflush m) => { z with mind := z.mind.learn s.opSeq (y.pushed m.toNat) }
        | _ => z)).resume b fun w => w == .port
  else s

/-- Where an element of a read stream stands; none when it cannot be reached (R140, R147). -/
def State.fetchPlace (s : State) (b : BRef) (d i : Nat) : Option Place :=
  let n := descEsize d
  if s.elemOutside b d i then none
  else if descTarget d = 1 then
    (s.scrAddr b (BitVec.ofNat 32 (elemAddr d i)) n).map fun t => .scr t.1 t.2.1 t.2.2
  else
    match s.xlate b 0 (elemAddr d i) n .read with
    | .error _ => none
    | .ok x => some x.place

/-- A port as a reader: it reads after what happens before the form that set its position, and relaxed (R110). -/
def State.portReader (s : State) (b : BRef) (q : Port) (v : View) : Reader :=
  ⟨(s.released b (q.by_.map (·.1)) q.since).join v, [], []⟩

/-- What the fetch of an element finds, when nothing holds it. -/
def State.fetchElem (s : State) (b : BRef) (q : Port) (p : Place) : State × Fetched :=
  let n := descEsize q.d
  if s.placeBad p n then (s, .poison)
  else
    let r := s.readAs (s.portReader b q (s.lineViews p n)) n (s.placeCur p n)
    (r.1, .data (r.2.map fun e => e.2.1))

/-- `PORT_ELEMENT_FETCH` (R146): an element up to 128 beyond POS of a read stream is fetched, through the far-read limiter
where its page is far (R180). -/
def execPortElementFetch (at_ : BRef) (port idx : Nat) (s : State) : Out :=
  let q := s.port at_ port
  if !s.hasBundle at_ || !q.bound || descWrite q.d || descTarget q.d == 2 || decide (idx < q.pos) ||
      decide (q.pos + 128 ≤ idx) || decide (q.len ≤ idx) || !((find q.buf idx).isNone || find q.buf idx == some .fault) ||
      !s.mayStart at_.core 1 || s.owes at_ q.by_ q.since then .next s
  else
    match s.fetchPlace at_ q.d idx with
    | none => .next ((s.setPort at_ port { q with buf := put q.buf idx .fault }).wakePorts at_)
    | some p =>
      let n := descEsize q.d
      if s.placeStalls at_.core n p || (s.placeHeld p n && !(descTarget q.d == 1 && s.placeBad p n)) then .next s
      else
        let f := if p.far then s.farAsk at_.core (.fetch at_ port) else (s, true)
        if !f.2 then .next f.1
        else
          let r := f.1.fetchElem at_ q p
          .next ((r.1.setPort at_ port { q with buf := put q.buf idx r.2 }).wakePorts at_)

/-- An element of an entry is written (R144), or its record enters the matrix queue (R281); `setw` is the mark that the
record carries, and `before` the cells that the entry has written already. -/
def State.performElem (s : State) (b : BRef) (port : Nat) (e : PushEnt) (id : Nat) (setw : Fin 16) (before : List Nat)
    (el : Place × List Byte) : State :=
  match el.1 with
  | .matrix =>
    s.enter b.core qMat ⟨id, b, setw, [], false, false, none, 0, false, e.by_, [],
      .mat (.mloop (recCmd (leNat el.2) (s.crew b.core b.slot).tshAll))⟩
  | p => s.placeWrite (portAuthor (s.agentOf b) b.bundle port) before p el.2

/-- The elements of an entry in lane order. -/
def State.performEls (s : State) (b : BRef) (port : Nat) (e : PushEnt) : Nat → List Nat → List (Nat × Place × List Byte) → State
  | _, _, [] => s
  | id, before, [t] => s.performElem b port e id e.setw before t.2
  | id, before, t :: r =>
    State.performEls (s.performElem b port e id 15 before t.2) b port e (id + 1) (before ++ t.2.1.cells) r

/-- Whether the oldest entry of a write queue may be performed: its data have come, its lanes' earlier accesses have been
performed (R107), and no place that it writes stalls or is being promoted. -/
def State.entryReady (s : State) (b : BRef) (e : PushEnt) : Bool :=
  e.owed.isEmpty && !s.owes b e.by_ e.id && s.mayStart b.core 1 &&
    e.els.all fun t => !s.placeStalls b.core t.2.2.length t.2.1 && !s.placeBusy t.2.1 t.2.2.length

/-- `PORT_WRITE_ENTRY_PERFORM` (R144, R145): the oldest entry of a port's write queue. An entry of matrix commands
leaves its SETW mark to the last of them. -/
def execPortWriteEntryPerform (at_ : BRef) (port : Nat) (s : State) : Out :=
  let q := s.port at_ port
  match q.wq with
  | .push e :: rest =>
    if !s.hasBundle at_ || !s.entryReady at_ e then .next s
    else
      let s1 := (s.setPort at_ port { q with wq := rest }).performEls at_ port e e.id [] e.els
      let v := (s.released at_ (e.by_.map (·.1)) e.id).bump (portAuthor (s.agentOf at_) at_.bundle port false) (s1.clock + 1)
      let q1 := s1.port at_ port
      let s2 := s1.setPort at_ port { q1 with done := q1.done.join v }
      let s3 := if e.els.any fun t => t.2.1 == .matrix then s2 else (s2.flagGain at_ e.setw v).flagDec at_ e.setw
      .next ((s3.settleQueues at_.core 4096).wakePorts at_).wakeSave
  | _ => .next s

end Sys2Proof.Machine
end

