-- ==== Sys2Proof/Machine/Matrix.lean ====
section
/-!
DEFINITION. The matrix engine at work: the scoreboard (R284), one K-step (R279, R280, R282), and what an entry of the
matrix queue does when it is performed (R276, R285, R286).
-/

namespace Sys2Proof.Machine

/-! ### Resources (R284, Table 15-7) -/

inductive Rsrc
  | tile (slot n : Nat)
  | line (core slot l : Nat)
  | block (b : Nat)
  | gline (l : Nat)
deriving DecidableEq, Repr

/-- The lines of a ring, and the tiles of a sequence. -/
def srcLines (w : Nat) : List Nat := (List.range (srcInc w * srcDepth w)).map (· + srcBase w)
def srcRsrc (core slot w code s : Nat) : List Rsrc :=
  if srcRing w then (srcLines w).map fun l => .line core slot l
  else (List.range s).flatMap fun j => (srcTiles w code j).map fun t => .tile slot t

/-- What a command's sources are, by the crews that supply them. -/
def MatCmd.srcs (c : MatCmd) (a b : Nat × Nat) : List Rsrc :=
  srcRsrc a.1 a.2 c.asrc (fmtA c.fmt) c.s ++ srcRsrc b.1 b.2 c.bsrc (fmtB c.fmt) c.s
def MatCmd.rings (c : MatCmd) (a b : Nat × Nat) : List Rsrc :=
  (if srcRing c.asrc then srcRsrc a.1 a.2 c.asrc 0 0 else []) ++
    (if srcRing c.bsrc then srcRsrc b.1 b.2 c.bsrc 0 0 else [])

def hRsrc (h : Word) : List Rsrc := (hBlocks h).map Rsrc.block

/-- What an entry reads. -/
def MatBody.reads (own : Nat × Nat) (m : MatBody) : List Rsrc :=
  match m with
  | .tld _ c k off n => (linesTouched off n).map fun l => .line c k l
  | .tst t _ _ _ _ => [.tile own.2 t]
  | .tzero _ | .accwr _ | .accfree _ => []
  | .mloop c => c.srcs own own ++ hRsrc c.handle
  | .gpart c _ _ a b _ => c.srcs a b ++ hRsrc c.handle
  | .accrd es _ => es.map fun e => .block e.2.1
  | .accst _ h _ => hRsrc h

/-- What an entry writes. -/
def MatBody.writes (own : Nat × Nat) (m : MatBody) : List Rsrc :=
  match m with
  | .tld t _ _ _ _ | .tzero t => [.tile own.2 t]
  | .tst _ c k off n => (linesTouched off n).map fun l => .line c k l
  | .mloop c => hRsrc c.handle ++ c.rings own own
  | .gpart c _ _ a b _ => hRsrc c.handle ++ c.rings a b
  | .accrd _ _ => []
  | .accwr es => es.map fun e => .block e.1
  | .accst _ _ rows => rows.flatMap fun r => r.cells.map fun c => .gline (c / 128)
  | .accfree h => hRsrc h

def meets (a b : List Rsrc) : Bool := a.any fun x => b.contains x

/-- The relations of R284 of a later entry to an earlier one. -/
def MatBody.after (own1 own2 : Nat × Nat) (e l : MatBody) : Bool :=
  meets (e.writes own1) (l.reads own2) || meets (e.reads own1) (l.writes own2) || meets (e.writes own1) (l.writes own2)

def Cmd.own (c : Cmd) : Nat × Nat := (c.ref.core, c.ref.slot)

/-- The crew for which an entry of a core's matrix queue works: a part's member, else the bundle's crew. -/
def Cmd.ownOf (c : Cmd) : Nat × Nat :=
  match c.body with
  | .mat (.gpart _ _ _ _ _ own) => own
  | _ => c.own

/-- Whether an entry is an `ACCFREE` of blocks that a `GMLOOP` has pinned for its part: the part does not wait for it, since it
takes effect only afterwards (R283). -/
def State.pinnedFor (s : State) (core : Nat) (p c : Cmd) : Bool :=
  match p.body with
  | .mat (.accfree h) => (s.core core).pins.contains (c.id, p.ownOf.2, h)
  | _ => false

/-- Whether an entry may start: no earlier entry that is not yet performed holds it back (R109, R284). -/
def State.matFree (s : State) (core idx : Nat) (c : Cmd) : Bool :=
  ((s.queue core qMat).take idx).all fun e =>
    match e, c.body with
    | .fence _, _ => false
    | .cmd p, .mat l =>
      match p.body with
      | .mat m => p.done || s.pinnedFor core p c || !m.after p.ownOf c.ownOf l
      | _ => true
    | .cmd _, _ => true

/-! ### Operands of a K-step (R277) -/

/-- Byte `at_` of row `r` of K-step `j` of a tile sequence. -/
def tileByte (k : Crew) (w code j r at_ : Nat) : Byte :=
  if isBlk code then (findD k.tiles ((srcTiles w code j).getD 0 0) ⟨[], false⟩).bytes.read (r * kb64 code + at_)
  else (findD k.tiles ((srcTiles w code j).getD (at_ / 64) 0) ⟨[], false⟩).bytes.read (r * 64 + at_ % 64)

/-- Row `r` of K-step `j` of a source as a number, lowest byte first, from its supplier's storage; a ring's bytes are read as the
command's (R107, R280). -/
def State.srcRow (s : State) (rd : Reader) (own : Nat × Nat) (w code j r : Nat) : Nat :=
  if srcRing w then
    leNat (s.placeRead rd (.scr own.1 own.2 ((srcBase w + j % srcDepth w * srcInc w) * 128 + r * kb64 code)) (kb64 code))
  else leNat ((List.range (kb64 code)).map (tileByte (s.crew own.1 own.2) w code j r))

/-- Lines of a K-step of a ring. -/
def stepLines (w j : Nat) : List Nat :=
  if srcRing w then (List.range (srcInc w)).map (· + (srcBase w + j % srcDepth w * srcInc w)) else []
/-- The lines of a K-step that are read: those its rows touch. -/
def readLines (w code j rows : Nat) : List Nat :=
  if srcRing w then linesTouched ((srcBase w + j % srcDepth w * srcInc w) * 128) (rows * kb64 code) else []

/-- Bits of a magnitude by format code. -/
def magBits (code : Nat) : Nat := if code = 0 then 2 else if code = 1 then 4 else 7
def halfFmt (code : Nat) : Fmt := if code = 3 then f16 else bf16

/-- An accumulator element after one K-step, from a row of A and a row of B (R77, R78). -/
def kstep (fmt acc a b : Nat) : Nat :=
  let ca := fmtA fmt; let cb := fmtB fmt
  if isBlk ca then
    let blk (m x q : Nat) : Nat := x / 2 ^ (8 * blockBytes m * q) % 2 ^ (8 * blockBytes m)
    kstepBlocks acc fun q => blockDot (blk (magBits ca) a q) (magBits ca) (blk (magBits cb) b q) (magBits cb)
  else
    kstepHalves acc ((List.range 64).map fun i => halfMul (halfFmt ca) (a / 2 ^ (16 * i) % 65536) (b / 2 ^ (16 * i) % 65536))

/-! ### Accumulators -/

def Core.accWord (x : Core) (b i : Nat) : Word := findD (findD x.acc b []) i 0
def State.setAcc (s : State) (core b i : Nat) (v : Word) : State :=
  let x := s.core core
  s.setCore core { x with acc := put x.acc b (setD (findD x.acc b []) i v 0) }
def State.poisonAcc (s : State) (core : Nat) (bs : List Nat) : State :=
  let x := s.core core
  s.setCore core { x with accPoison := bs.foldl (fun a b => a ||| (1#16 <<< b)) x.accPoison }

/-- POISON that a crew takes at its next ordering point, behind what it owes already (R182). -/
def State.poisonLater (s : State) (c k : Nat) (i : TrapInfo) : State :=
  let y := s.crew c k
  if !s.hasCrew c k || y.later.contains i then s else s.setCrew c k { y with later := y.later ++ [i] }

/-- A multiplication has met a poisoned operand: its fault record, and its crew's POISON, both made once for a command
(DESIGN CHOICE, assumption 55). -/
def State.matFault (s : State) (b : BRef) (id : Nat) (c : MatCmd) (i : TrapInfo) : State :=
  let x := s.core b.core
  if (find x.matFaults id).isSome then s
  else (s.setCore b.core { x with matFaults := put x.matFaults id (c, i.i0) }).poisonLater b.core b.slot i

/-! ### One K-step -/

/-- The blocks that hold rows below m and columns below n of a handle's tile. -/
def usedBlocks (c : MatCmd) : List Nat :=
  ((List.range ((c.m + 63) / 64)).flatMap fun i => (List.range ((c.n + 63) / 64)).map fun j => (hElem c.handle (64 * i) (64 * j)).1)

/-- K-step `j` of a command in a core's accumulator, from its suppliers' rows. -/
def State.stepAcc (s : State) (core : Nat) (rd : Reader) (c : MatCmd) (j : Nat) (a b : Nat × Nat) : State :=
  let rows := (List.range c.m).map fun r => (r, s.srcRow rd a c.asrc (fmtA c.fmt) j r)
  let cols := (List.range c.n).map fun q => (q, s.srcRow rd b c.bsrc (fmtB c.fmt) j q)
  rows.foldl (fun s r => cols.foldl (fun s q =>
    let e := hElem c.handle r.1 q.1
    s.setAcc core e.1 e.2 (BitVec.ofNat 32 (kstep c.fmt ((s.core core).accWord e.1 e.2).toNat r.2 q.2))) s) s

/-- Whether a K-step meets a poisoned line or tile of a supplier, with the scratchpad address of the line. -/
def srcBad (k : Crew) (w code j rows : Nat) : Option Word :=
  if srcRing w then ((readLines w code j rows).find? fun l => k.line l == .poisoned).map fun l => BitVec.ofNat 32 (128 * l)
  else if (srcTiles w code j).any fun t => (findD k.tiles t ⟨[], false⟩).poison then some 0 else none

/-- Whether an empty line holds a K-step. -/
def srcHeld (k : Crew) (w code j rows : Nat) : Bool :=
  (readLines w code j rows).any (fun l => k.line l == .empty) &&
    !(readLines w code j rows).any fun l => k.line l == .poisoned

/-- R280: the full lines of a ring step become empty. -/
def State.emptyStep (s : State) (own : Nat × Nat) (w j : Nat) : State :=
  (stepLines w j).foldl (fun s l => if s.line own.1 own.2 l = .full then s.setLine own.1 own.2 l .empty else s) s

/-- One part of a K-step without the emptying of its rings: its core, its command and its suppliers. -/
def State.partStep (s : State) (core : Nat) (y : Cmd) (c : MatCmd) (j : Nat) (a b : Nat × Nat) : State :=
  let ka := s.crew a.1 a.2; let kb := s.crew b.1 b.2
  let bad := (srcBad ka c.asrc (fmtA c.fmt) j c.m).orElse fun _ => srcBad kb c.bsrc (fmtB c.fmt) j c.n
  let s1 := s.stepAcc core (s.cmdReader qMat y) c j a b
  match bad with
  | none => s1
  | some i0 => (s1.poisonAcc core (usedBlocks c)).matFault y.ref y.id c (trapOf 6 i0)

/-- The parts of a `GMLOOP` by its number: core, place in the queue, and command. -/
def State.parts (s : State) (id : Nat) : List (Nat × Nat × Cmd) :=
  s.cores.flatMap fun x => ((s.queue x.1 qMat).zipIdx).filterMap fun e =>
    match e.1 with
    | .cmd c => if c.id = id then some (x.1, e.2, c) else none
    | .fence _ => none

/-- A command of the matrix queue replaced in its place. -/
def State.setMat (s : State) (core idx : Nat) (c : Cmd) : State :=
  s.setQueue core qMat ((s.queue core qMat).set idx (.cmd c))

/-- A K-step of one `MLOOP`. -/
def State.mloopStep (s : State) (core idx : Nat) (c : Cmd) (m : MatCmd) : State :=
  let own := c.own
  let k := s.crew own.1 own.2
  if srcHeld k m.asrc (fmtA m.fmt) c.step m.m || srcHeld k m.bsrc (fmtB m.fmt) c.step m.n then s
  else
    let s1 := ((s.partStep core c m c.step own own).emptyStep own m.asrc c.step).emptyStep own m.bsrc c.step
    s1.setMat core idx { c with step := c.step + 1 }

/-- Whether a part of a `GMLOOP` has been saved with its member and is not back (R377). -/
def State.partAway (s : State) (id : Nat) : Bool :=
  let mine (e : QEnt) : Bool := match e with
    | .cmd c => c.id == id
    | .fence _ => false
  s.saved.any (fun e => e.2.2.any fun q => q.2.any mine) || s.gangs.any fun g => g.2.heldCmds.any fun e => mine e.2.2

/-- A K-step of every part of a `GMLOOP` (R282, R283): the rows and columns are multicast, so the parts step together. -/
def State.gmloopStep (s : State) (c : Cmd) : State :=
  let ps := s.parts c.id
  let held (p : Nat × Nat × Cmd) : Bool :=
    match p.2.2.body with
    | .mat (.gpart m _ _ a b _) =>
      !p.2.2.started || p.2.2.suspended || srcHeld (s.crew a.1 a.2) m.asrc (fmtA m.fmt) c.step m.m ||
        srcHeld (s.crew b.1 b.2) m.bsrc (fmtB m.fmt) c.step m.n
    | _ => false
  if ps.any held || s.partAway c.id then s
  else
    let s1 := ps.foldl (fun s p =>
      match p.2.2.body with
      | .mat (.gpart m _ _ a b _) => s.partStep p.1 p.2.2 m c.step a b
      | _ => s) s
    let s2 := ps.foldl (fun s p =>
      match p.2.2.body with
      | .mat (.gpart m _ _ a b _) => (s.emptyStep a m.asrc c.step).emptyStep b m.bsrc c.step
      | _ => s) s1
    ps.foldl (fun s p => s.setMat p.1 p.2.1 { p.2.2 with step := c.step + 1 }) s2

/-! ### Whole entries -/

def tileOf (k : Crew) (n : Nat) : Tile := findD k.tiles n ⟨[], false⟩
def State.setTile (s : State) (own : Nat × Nat) (n : Nat) (t : Tile) : State :=
  let k := s.crew own.1 own.2
  s.setCrew own.1 own.2 { k with tiles := put k.tiles n t }

/-- The bytes of a converted accumulator row (R286). -/
def accRowBytes (t : AccTy) (vals : List Nat) : List Byte :=
  match t with
  | .f32 => vals.flatMap fun v => leBytes v 4
  | .f16 => vals.flatMap fun v => leBytes (cvtFF f32 f16 .rn v).1 2
  | .bf16 => vals.flatMap fun v => leBytes (cvtFF f32 bf16 .rn v).1 2
  | .blk f => (List.range (vals.length / 16)).flatMap fun i =>
      leBytes (qblkV (Bf.mbits f) ((vals.drop (16 * i)).take 16)).1 (blockBytes (Bf.mbits f))

/-- R285: the handle's blocks return to their owner's reservation or to the pool. -/
def State.freeBlocks (s : State) (core slot : Nat) (h : Word) : State :=
  let x := s.core core
  (s.setCore core { x with
    accHeld := x.accHeld.filter fun e => e.2 != (slot, h),
    accGone := x.accGone.filter fun e => e != (slot, h),
    accPoison := (hBlocks h).foldl (fun a b => a &&& ~~~(1#16 <<< b)) x.accPoison }).blocksFreed core

/-- An entry that is not a multiplication is performed; none while something holds it. -/
def State.matWhole (s : State) (core : Nat) (c : Cmd) (b : MatBody) : Option State :=
  let own := c.own
  match b with
  | .tld t c' k off n =>
    let p : Place := .scr c' k off
    if s.placeBad p n then
      let old := tileOf (s.crew own.1 own.2) t
      let a := s.firstPoison (BitVec.ofNat 32 off) (c', k, off) n
      some ((s.setTile own t ⟨old.bytes.writeL 0 (s.placeRead (s.cmdReader qMat c) p n), true⟩).poisonLater own.1 own.2 (trapOf 6 a))
    else if s.placeHeld p n then none
    else
      some (s.setTile own t ⟨(tileOf (s.crew own.1 own.2) t).bytes.writeL 0 (s.placeRead (s.cmdReader qMat c) p n), false⟩)
  | .tst t c' k off n =>
    let y := tileOf (s.crew own.1 own.2) t
    let s1 := s.placeWrite (s.cmdWriter qMat c) [] (.scr c' k off) (y.bytes.readN 0 n)
    some (if y.poison then (linesTouched off n).foldl (fun s l => s.setLine c' k l .poisoned) s1 else s1)
  | .tzero t => some (s.setTile own t ⟨[], false⟩)
  | .accrd es dst =>
    let x := s.core core
    some (s.land c.ref c.id dst (es.map fun e => (e.1, [x.accWord e.2.1 e.2.2])))
  | .accwr es => some (es.foldl (fun s e => s.setAcc core e.1 e.2.1 e.2.2) s)
  | .accst t h rows =>
    let x := s.core core
    let n := 64 * (hCB h + 1)
    if rows.any fun r => s.placeStalls core r.cells.length r || s.placeBusy r r.cells.length then none
    else
      some (rows.zipIdx.foldl (fun (a : State × List Nat) r =>
        let vals := (List.range n).map fun q =>
          let e := hElem h r.2 q
          (x.accWord e.1 e.2).toNat
        (a.1.placeWrite (a.1.cmdWriter qMat c) a.2 r.1 (accRowBytes t vals), a.2 ++ r.1.cells)) (s, [])).1
  | .accfree h => if (s.core core).pins.any (fun p => p.2 == (own.2, h)) then none else some (s.freeBlocks core own.2 h)
  | .mloop _ | .gpart _ _ _ _ _ _ => none

/-- Every pin of a `GMLOOP` is released (R283). -/
def State.unpin (s : State) (id : Nat) : State :=
  { s with cores := s.cores.map fun (e : Nat × Core) => (e.1, { e.2 with pins := e.2.pins.filter fun p => p.1 != id }) }

/-- A command that has been performed leaves its queue and completes; the parts of a `GMLOOP` complete with the last
of them (R283). -/
def State.matDone (s : State) (c : Cmd) : State :=
  match c.body with
  | .mat (.gpart _ _ _ _ _ _) => if s.opOut c.id then s else s.complete qMat c
  | _ => s.complete qMat c

/-- A `GMLOOP` all of whose parts have been performed releases its pins (R283). -/
def State.unpinDone (s : State) (id : Nat) : State := if (s.parts id).all fun p => p.2.2.done then s.unpin id else s

/-- Performed entries at the head of a matrix queue leave it in order, each giving its completion signal (R274). -/
def State.matRetire (s : State) (core : Nat) : Nat → State
  | 0 => s
  | n + 1 =>
    match s.queue core qMat with
    | .cmd c :: r =>
      if c.done then State.matRetire ((s.setQueue core qMat r).matDone c) core n else s
    | _ => s

/-- `MATRIX_COMMAND_START` (R284, R385): an entry with nothing in its way, that the slot lets start. -/
def execMatrixCommandStart (core idx : Nat) (s : State) : Out :=
  match (s.queue core qMat)[idx]? with
  | some (.cmd c) =>
    if c.started || !s.matFree core idx c || !s.mayStart core c.duration || s.cmdOwed c then .next s
    else .next (s.setMat core idx { c with started := true })
  | _ => .next s

/-- `MATRIX_COMMAND_COMPLETE` (R274, R279, R280): the next K-step of a started multiplication, or the whole of another
entry; the entry is performed once nothing of it is left. -/
def execMatrixCommandComplete (core idx : Nat) (s : State) : Out :=
  match (s.queue core qMat)[idx]? with
  | some (.cmd c) =>
    if !c.started || c.suspended || c.done then .next s
    else
      match c.body with
      | .mat (.mloop m) =>
        if c.step < m.s then .next (s.mloopStep core idx c m)
        else .next ((s.setMat core idx { c with done := true }).matRetire core 4096)
      | .mat (.gpart m _ _ _ _ _) =>
        if c.step < m.s then .next (s.gmloopStep c)
        else .next (((s.setMat core idx { c with done := true }).unpinDone c.id).matRetire core 4096)
      | .mat b =>
        match s.matWhole core c b with
        | none => .next s
        | some s1 => .next ((s1.setMat core idx { c with done := true }).matRetire core 4096)
      | _ => .next s
  | _ => .next s

end Sys2Proof.Machine
end

