-- ==== Sys2Proof/Machine/MatrixForms.lean ====
section
/-!
DEFINITION. Class 0x9, matrix (Table 15-2, R276-R287): one meaning for each form; and the answer of a member to a
`GMLOOP` query (R283).
-/

namespace Sys2Proof.Machine

/-! ### Tiles (R276) -/

/-- The bytes of a tile of a shape in scratchpad. -/
def tshBytes (t : Word) : Nat :=
  let e := tshElem t
  tshRows t * (if e = 0 then tshCols t / 16 * 8 else if e = 1 then tshCols t / 16 * 12 else if e = 2 then tshCols t / 16 * 18
    else 2 * tshCols t)

def tileNo (o : Opnd) : Nat :=
  match o with
  | .t n => n.val
  | _ => 0

/-- The command of a course enters a queue of its core. -/
def State.issueCmd (s : State) (x : Args) (t : Taken) (q : Nat) (held : List (Nat × Nat)) (b : Body) : State :=
  let s1 := s.commitPops s.ref (s.act x) t
  (s1.enter s.cur.core q (s1.newCmd (s.act x) x.sched.setw held b)).finish x false

/-- The checks of R276 on a tile's address. -/
def State.tileAddr (s : State) (x : Args) (a n : Nat) : Res (Nat × Nat × Nat) :=
  if a % 16 ≠ 0 then .error (.trap (maskOf (s.act x)) ⟨4, BitVec.ofNat 32 a, 0, 0, 0⟩)
  else
    match s.scrAddr s.ref (BitVec.ofNat 32 a) n with
    | some p => .ok p
    | none => .error (.trap (maskOf (s.act x)) (scrSegv (BitVec.ofNat 32 a)))

/-- `TLD` (R276). -/
def execTld (x : Args) (s : State) : Out :=
  s.course1 (.tld x) x fun t l =>
    let n := tileNo x.d
    let size := tshBytes (s.curCrew.tshAll.getD n 0)
    match s.tileAddr x (s.opVal t x 1 l x.a) size with
    | .error e => s.settle x (.error e)
    | .ok p => .next (s.issueCmd x t qMat [] (.mat (.tld n p.1 p.2.1 p.2.2 size)))

/-- `TST` (R276). -/
def execTst (x : Args) (s : State) : Out :=
  s.course1 (.tst x) x fun t l =>
    let n := tileNo x.b
    let size := tshBytes (s.curCrew.tshAll.getD n 0)
    match s.tileAddr x (s.opVal t x 1 l x.a) size with
    | .error e => s.settle x (.error e)
    | .ok p => .next (s.issueCmd x t qMat [] (.mat (.tst n p.1 p.2.1 p.2.2 size)))

/-- `TZERO` (R276). -/
def execTzero (x : Args) (s : State) : Out :=
  s.course1 (.tzero x) x fun t _ => .next (s.issueCmd x t qMat [] (.mat (.tzero (tileNo x.d))))

/-! ### `MLOOP` and `GMLOOP` -/

/-- The vote on the format word and its check (R23, R80); with no lane predicated on nothing more happens. -/
def State.fmtVote (s : State) (i : Instr) (x : Args) (k : Taken → Nat → Nat → Out) : Out :=
  let act := s.act x
  let voters := if act.isEmpty then s.lanes else act
  match s.take s.ref (i.shape.getD default) x act with
  | .error e => s.settle x (.error e)
  | .ok t =>
    let f := s.opVal t x 1 (voters.headD 0) x.b
    if !s.agree t x 1 x.b voters then s.settle x (.error (.trap (maskOf voters) (fmtdiv 0)))
    else if !fmtOk s.curCrew.ver f then s.settle x (.error (.trap (maskOf voters) (fmtdiv 1)))
    else
      match act with
      | [] => .next (s.finish x true)
      | l :: _ => k t l f

/-- The operand block in four registers of a lane. -/
def State.obVal (s : State) (t : Taken) (x : Args) (l : Nat) : Nat :=
  (s.rdGroup s.ref t 4 l x.c).zipIdx.foldl (fun a w => a + w.1.toNat * 2 ^ (32 * w.2)) 0

/-- `MLOOP` (R277-R279). -/
def execMloop (x : Args) (s : State) : Out :=
  s.fmtVote (.mloop x) x fun t l f =>
    let h : Word := BitVec.ofNat 32 (s.opVal t x 1 l x.a)
    let xc := s.core s.cur.core
    let k := s.curCrew
    let stop (i : TrapInfo) : Out := s.settle x (.error (.trap (maskOf (s.act x)) i))
    if !xc.holdsHandle s.cur.slot h then stop (handleTrap h)
    else
      match obCmd f h (s.obVal t x l) 256 k.tshAll with
      | none => stop (fmtdiv 4)
      | some c =>
        match matCheck xc s.cur.slot k c true true with
        | some i => stop i
        | none => .next (s.issueCmd x t qMat [] (.mat (.mloop c)))

/-- The part of a command for member (i, j) of the four (R282); none where its quadrant is empty. -/
def quadrant (c : MatCmd) (i j : Nat) : Option MatCmd :=
  let m := min 256 (c.m - 256 * i); let n := min 256 (c.n - 256 * j)
  if m = 0 ∨ n = 0 then none else some { c with m := m, n := n }

/-- The four members: row, column, rank. -/
def quads (w : Nat) : List (Nat × Nat × Nat) := [(0, 0, 0), (0, 1, 1), (1, 0, w), (1, 1, w + 1)]
/-- Where a member stands, or stood last. -/
def Gang.at_ (g : Gang) (r : Nat) : Nat × Nat := findD g.members r (findD g.was r (0, 0))

/-- The queries of a course that waits at a `GMLOOP`. -/
def State.myQueries (s : State) : List Query :=
  (s.core s.cur.core).queries.filter fun q => q.ref == s.ref && q.mask == s.cur.mask

/-- The queries a `GMLOOP` sends (R283). The leader, whose own part has passed, pins its blocks as well (DEDUCED, assumption
56). -/
def State.sendQueries (s : State) (x : Args) (g : Gang) (c : MatCmd) : State :=
  let id := s.opSeq
  let qs := ((quads g.w).drop 1).map fun e =>
    (⟨id, s.ref, s.cur.mask, e.2.2, (g.at_ e.2.2).1, (g.at_ e.2.2).2, c, e.1, e.2.1, none⟩ : Query)
  let k := s.core s.cur.core
  ({ s.setCore s.cur.core { k with queries := k.queries ++ qs, pins := (id, s.cur.slot, c.handle) :: k.pins } with
      opSeq := id + 1 }).waitAgain x (.engine .query)

/-- A course's queries are dropped. -/
def State.dropQueries (s : State) : State :=
  let k := s.core s.cur.core
  s.setCore s.cur.core { k with queries := k.queries.filter fun q => !(q.ref == s.ref && q.mask == s.cur.mask) }

/-- The parts of an accepted `GMLOOP` enter the four members' matrix queues (R283). -/
def State.enterParts (s : State) (x : Args) (g : Gang) (c : MatCmd) (id : Nat) : State :=
  (quads g.w).foldl (fun s e =>
    match quadrant c e.1 e.2.1 with
    | none => s
    | some p =>
      s.enter (g.at_ e.2.2).1 qMat { s.newCmd (s.act x) x.sched.setw []
        (.mat (.gpart p e.1 e.2.1 (g.at_ (e.1 * g.w)) (g.at_ e.2.1) (g.at_ e.2.2))) with id := id }) s

/-- The trap of the lowest member that refused. -/
def refusal (qs : List Query) : Option TrapInfo :=
  qs.findSome? fun q =>
    match q.answer with
    | some (some i) => some { i with i1 := BitVec.ofNat 32 q.rank }
    | _ => none

/-- The first execution of a `GMLOOP`: the leader's own checks, then its queries (R282, R283). -/
def State.gmloopCheck (s : State) (x : Args) : Out :=
  s.fmtVote (.gmloop x) x fun t l f =>
    let h : Word := BitVec.ofNat 32 (s.opVal t x 1 l x.a)
    let xc := s.core s.cur.core
    let k := s.curCrew
    let stop (i : TrapInfo) : Out := s.settle x (.error (.trap (maskOf (s.act x)) i))
    match k.gang with
    | none => stop (fmtdiv 6)
    | some gn =>
      let g := findD s.gangs gn default
      if g.w < 2 ∨ g.h < 2 ∨ k.grank ≠ 0 then stop (fmtdiv 6)
      else if !xc.holdsHandle s.cur.slot h then stop (handleTrap h)
      else
        match obCmd f h (s.obVal t x l) 512 k.tshAll with
        | none => stop (fmtdiv 4)
        | some c =>
          match matCheck xc s.cur.slot k { c with m := min 256 c.m, n := min 256 c.n } true true with
          | some i => stop i
          | none => .next (s.sendQueries x g c)

/-- `GMLOOP` (R282, R283): once every query is answered the command that was checked enters the four queues, or traps. -/
def execGmloop (x : Args) (s : State) : Out :=
  match s.myQueries with
  | [] => s.gmloopCheck x
  | q :: r =>
    if (q :: r).any fun e => e.answer.isNone then .next (s.waitAgain x (.engine .query))
    else
      match refusal (q :: r) with
      | some i => (s.dropQueries.unpin q.id).settle x (.error (.trap (maskOf (s.act x)) i))
      | none =>
        match s.take s.ref ((Instr.gmloop x).shape.getD default) x (s.act x) with
        | .error e => s.settle x (.error e)
        | .ok t =>
          let g := findD s.gangs (s.curCrew.gang.getD 0) default
          .next (((s.dropQueries.commitPops s.ref (s.act x) t).enterParts x g q.cmd q.id).finish x false)

/-- Whether the leader's queries are all answered. -/
def State.answered (s : State) (core : Nat) (ref : BRef) : Bool :=
  (s.core core).queries.all fun q => q.ref != ref || q.answer.isSome

/-- `GMLOOP_QUERY_ANSWER` (R283): a member checks its part; a yes pins the handle's blocks. -/
def execGmloopQueryAnswer (core idx : Nat) (s : State) : Out :=
  let x := s.core core
  match x.queries[idx]? with
  | none => .next s
  | some q =>
    if q.answer.isSome then .next s
    else
      let k := s.crew q.core q.slot
      let c : MatCmd := { (quadrant q.cmd q.i q.j).getD { q.cmd with m := 0, n := 0 } with tsh := k.tshAll }
      let r := if !(s.core q.core).holdsHandle q.slot c.handle then some (handleTrap c.handle)
        else if c.m = 0 then none
        else matCheck (s.core q.core) q.slot k c (q.j == 0) (q.i == 0)
      let s1 := s.setCore core { x with queries := x.queries.set idx { q with answer := some r } }
      let m := s1.core q.core
      let s2 := if r.isNone then s1.setCore q.core { m with pins := (q.id, q.slot, c.handle) :: m.pins } else s1
      .next (if s2.answered core q.ref then s2.resume q.ref fun w => w == .engine .query else s2)

/-! ### Accumulators (R91-R93, R285, R286) -/

/-- Blocks reserved by no crew. -/
def Core.pool (x : Core) : List Nat := (List.range 16).filter fun b => (find x.accRes b).isNone
/-- The blocks a request may take, in the order of R92; a block that a hold has promised to a placement is not free (R30). -/
def Core.freeFor (x : Core) (slot : Nat) : List Nat :=
  ((List.range 16).filter fun b => find x.accRes b == some slot && (find x.accHeld b).isNone) ++
    x.pool.filter fun b => (find x.accHeld b).isNone && !x.holds.any fun h => h.accs.contains b
/-- Other crews that hold pool blocks. -/
def Core.poolHolders (x : Core) (slot : Nat) : List Nat :=
  (x.pool.filterMap fun b => (find x.accHeld b).map (·.1)).filter fun k => k != slot

/-- What R92 decides on a request of `k` blocks: granted, refused (`some false`) or made to wait. -/
def State.allocRuling (s : State) (core slot k : Nat) : Option Bool :=
  let x := s.core core
  let lseq (n : Nat) : Nat := (s.crew core n).lseq
  let mine := ((List.range 16).filter fun b => find x.accRes b == some slot).length
  if k ≤ (x.freeFor slot).length then some true
  else if decide (mine + x.pool.length < k) || (x.poolHolders slot).isEmpty then some false
  else if (x.poolHolders slot).any (fun n => decide (lseq n < lseq slot)) ||
      (s.blockWaiters core).any fun b => b.slot != slot && decide (lseq b.slot < lseq slot) then some false
  else none

/-- A grant: the handle, with its blocks zero and free of poison. -/
def State.grantBlocks (s : State) (core slot : Nat) (tm : Word) (k : Nat) : State × Word :=
  let x := s.core core
  let bs := (x.freeFor slot).take k
  let h : Word := BitVec.ofNat 32 (hCB tm * 2 ^ 18 + hRB tm * 2 ^ 16 + bs.foldl (fun a b => a + 2 ^ b) 0)
  (s.setCore core { x with
    accHeld := bs.foldl (fun m b => put m b (slot, h)) x.accHeld,
    acc := bs.foldl (fun m b => del m b) x.acc,
    accPoison := bs.foldl (fun a b => a &&& ~~~(1#16 <<< b)) x.accPoison }, h)

/-- `ACCALLOC` (R92, R285). -/
def execAccalloc (x : Args) (s : State) : Out :=
  s.course1 (.accalloc x) x fun t l =>
    let tm : Word := BitVec.ofNat 32 (s.opVal t x 1 l x.b)
    let k := (hRB tm + 1) * (hCB tm + 1)
    let act := s.act x
    match s.allocRuling s.cur.core s.cur.slot k with
    | none => .next (s.waitAgain x .blocks)
    | some false => .next (((s.commitPops s.ref act t).setPred1 x false).finish x true)
    | some true =>
      let tags := dstTags act x.a 1 (fun _ _ => .general) fun _ => []
      s.withRoom x act tags fun s1 =>
        let r := s1.grantBlocks s.cur.core s.cur.slot tm k
        let s2 := (r.1.commitPops s.ref act t).giveTags s.ref tags
        let s3 := match x.a with
          | .v n => s2.writeV s.ref act n.val fun _ => [r.2]
          | _ => s2
        .next ((s3.setPred1 x true).finish x true)

/-- `ACCFREE` (R285): the handle is no longer the crew's to name; its blocks return when the entry is performed. -/
def execAccfree (x : Args) (s : State) : Out :=
  s.course1 (.accfree x) x fun t l =>
    let h : Word := BitVec.ofNat 32 (s.opVal t x 1 l x.a)
    let xc := s.core s.cur.core
    if !xc.holdsHandle s.cur.slot h then s.settle x (.error (.trap (maskOf (s.act x)) (handleTrap h)))
    else
      let s1 := s.setCore s.cur.core { xc with accGone := xc.accGone ++ [(s.cur.slot, h)] }
      .next (s1.issueCmd x t qMat [] (.mat (.accfree h)))

/-- Entries of the matrix queue, not yet performed, that write a block of a handle. -/
def State.writersOf (s : State) (core : Nat) (h : Word) : List Nat :=
  (s.queue core qMat).filterMap fun e =>
    match e with
    | .cmd c =>
      match c.body with
      | .mat b => if !c.done && meets (b.writes c.ownOf) (hRsrc h) then some c.id else none
      | _ => none
    | .fence _ => none

/-- The check of handle and index in each lane (R285). -/
def State.accIndex (s : State) (ls : List (Nat × Word × Nat)) : Res Unit :=
  let x := s.core s.cur.core
  let bad (e : Nat × Word × Nat) : Option TrapInfo :=
    if !x.holdsHandle s.cur.slot e.2.1 then some (handleTrap e.2.1)
    else if 64 * (hRB e.2.1 + 1) ≤ bits e.2.2 15 8 ∨ 64 * (hCB e.2.1 + 1) ≤ bits e.2.2 7 0 then
      some ⟨5, e.2.1, BitVec.ofNat 32 e.2.2, 0, 0⟩
    else none
  match ls.filter fun e => (bad e).isSome with
  | [] => .ok ()
  | e :: r => .error (.trap (maskOf ((e :: r).map (·.1))) ((bad e).getD (handleTrap 0)))

/-- An `ACCRD` whose checks have passed enters the matrix queue (R109); a port's entry is placed now and filled when the command is
performed (R144, R194). -/
def State.issueAccrd (s : State) (x : Args) (t : Taken) (act : List Nat) (tags : List (Nat × Tag)) (es : List (Nat × Nat × Nat)) :
    State :=
  let c := s.newCmd act (if pushes x act then 15 else x.sched.setw) [] (.mat (.accrd es x.d))
  let s1 := (s.commitPops s.ref act t).giveTags s.ref tags
  let s2 := match x.d with
    | .q n => s1.commitPushOf s.ref n.val 4 act act (t.push.getD ⟨[], []⟩) x.sched.setw act fun _ => 0
    | _ => s1.markPend s.ref act x.d 1
  (s2.enter s.cur.core qMat c).finish x false

/-- `ACCRD` (R285). -/
def execAccrd (x : Args) (s : State) : Out :=
  let sh := (Instr.accrd x).shape.getD default
  let act := s.act x
  let core := s.cur.core
  match s.take s.ref sh x act with
  | .error e => s.settle x (.error e)
  | .ok t =>
    let ls := act.map fun l => (l, (BitVec.ofNat 32 (s.opVal t x 1 l x.a) : Word), s.opVal t x 1 l x.b)
    match s.accIndex ls with
    | .error e => s.settle x (.error e)
    | .ok _ =>
      let before := ls.flatMap fun e => s.writersOf core e.2.1
      if !before.isEmpty then .next (s.waitAgain x (.engine (.matrix before)))
      else
        let pois := ls.filter fun e => (hBlocks e.2.1).any fun b => (s.core core).accPoison.getLsbD b
        if !pois.isEmpty then s.settle x (.error (trapLanes (pois.map (·.1)) 6 0))
        else
          let es := ls.map fun e => (e.1, hElem e.2.1 (bits e.2.2 15 8) (bits e.2.2 7 0))
          let val (l : Nat) : List Word := match es.find? fun e => e.1 == l with
            | some e => [(s.core core).accWord e.2.1 e.2.2]
            | none => []
          let tags := dstTags act x.d 1 (fun _ _ => .general) fun _ => []
          s.pushOr x act 1 val fun _ =>
            s.withRoom x act tags fun s1 =>
              if act.isEmpty then .next (s1.finish x true)
              else .next (s1.issueAccrd x t act tags (es.map fun e => (e.1, e.2.1, e.2.2)))

/-- `ACCWR` (R285). -/
def execAccwr (x : Args) (s : State) : Out :=
  let sh := (Instr.accwr x).shape.getD default
  let act := s.act x
  match s.take s.ref sh x act with
  | .error e => s.settle x (.error e)
  | .ok t =>
    let ls := act.map fun l => (l, (BitVec.ofNat 32 (s.opVal t x 1 l x.a) : Word), s.opVal t x 1 l x.b)
    match s.accIndex ls with
    | .error e => s.settle x (.error e)
    | .ok _ =>
      if act.isEmpty then .next (s.finish x true)
      else
        let es := ls.map fun e =>
          let p := hElem e.2.1 (bits e.2.2 15 8) (bits e.2.2 7 0)
          (p.1, p.2, (BitVec.ofNat 32 (s.opVal t x 1 e.1 x.c) : Word))
        .next (s.issueCmd x t qMat [] (.mat (.accwr es)))

/-- Bytes of a row of `n` elements (R286). -/
def accRowSize (t : AccTy) (n : Nat) : Nat :=
  match t with
  | .f32 => 4 * n
  | .f16 | .bf16 => 2 * n
  | .blk f => n / 16 * blockBytes (Bf.mbits f)

/-- `ACCST` (R286). -/
def execAccst (ty : AccTy) (x : Args) (s : State) : Out :=
  s.course1 (.accst ty x) x fun t l =>
    let h : Word := BitVec.ofNat 32 (s.opVal t x 1 l x.b)
    let xc := s.core s.cur.core
    let act := s.act x
    if !xc.holdsHandle s.cur.slot h then s.settle x (.error (.trap (maskOf act) (handleTrap h)))
    else
      let ea := s.opVal t x 2 l x.a
      let pitch := s.opVal t x 1 l x.c % 2 ^ 24
      let size := accRowSize ty (64 * (hCB h + 1))
      let rows := (List.range (64 * (hRB h + 1))).map fun r => (l, (ea + r * pitch) % 2 ^ 64, size)
      match forAll act (s.xlateAll s.ref .write rows) with
      | .error e => s.settle x (.error e)
      | .ok xs =>
        let before := s.writersOf s.cur.core h
        if !before.isEmpty then .next (s.waitAgain x (.engine (.matrix before)))
        else if (hBlocks h).any fun b => xc.accPoison.getLsbD b then s.settle x (.error (trapLanes act 6 0))
        else
          let es := xs.flatMap fun e => e.2.es
          .next ((s.fillUsed s.cur.core es).issueCmd x t qMat (es.map fun e => (e.asid, e.va))
            (.mat (.accst ty h (xs.map fun e => e.2.place))))

/-! ### `MWAIT` (R287) -/

/-- The matrix commands that a bundle has issued and that are still outstanding, by number: entries of every core's
matrix queue, and records still in its write queues. -/
def State.matOps (s : State) (b : BRef) : List Nat :=
  s.cores.flatMap (fun x => (s.queue x.1 qMat).filterMap fun e =>
    match e with
    | .cmd c => if c.ref = b then some c.id else none
    | .fence _ => none) ++
  (s.bundle b).ports.flatMap fun p => p.2.wq.flatMap fun e =>
    match e with
    | .push e => if e.els.any (fun t => t.2.1 == .matrix) then (List.range e.els.length).map (· + e.id) else []
    | .fence _ => []

/-- `MWAIT` (R287): an ordering point (R182), which acquires what the matrix queue has ordered (R108). -/
def execMwait (x : Args) (s : State) : Out :=
  s.course1 (.mwait x) x fun _ _ =>
    let ops := s.matOps s.ref
    if ops.isEmpty then
      .next (((s.learnAll s.ref s.lanes (s.qViewOf s.cur.core qMat)).finish x true).orderPoint s.cur.core s.cur.slot)
    else .next (s.parkAll x (.engine (.matrix ops)))

end Sys2Proof.Machine
end

