-- ==== Sys2Proof/Machine/Weight.lean ====
section
/-!
DEFINITION. Weight of quiet domains at the lanes (R127-R131): shares, borrows and returns.
-/

namespace Sys2Proof.Machine

/-- R127: the share an operand gives. -/
def shareOf (v : Nat) : Nat := min (max v 1) (2 ^ 31)

/-- A message to the root of a domain; a return carries what it covers (R131). -/
def State.toRoot (s : State) (k : QKind) (dom amount : Nat) (b : BRef) (lane : Nat) (v : View) : State :=
  { s with qmsgs := s.qmsgs ++ [⟨k, dom, amount, b, lane, false, v⟩] }

/-- Weight on its way back to its domain; nothing is sent for none. -/
def State.giveBack (s : State) (dom amount : Nat) (v : View) : State :=
  if amount = 0 then s else s.toRoot .ret dom amount ⟨0, 0, 0⟩ 0 v

/-- A lane's borrow, carrying its weight as it stands (R129). -/
def State.borrow (s : State) (b : BRef) (lane : Nat) : State :=
  let z := s.lane b lane
  s.toRoot .borrow z.wd.toNat z.wt.toNat b lane []

/-- The lanes that have no more than the share they are to give. -/
def State.short (s : State) (b : BRef) (ls : List (Nat × Nat)) : List (Nat × Nat) :=
  ls.filter fun e => decide ((s.lane b e.1).wt.toNat ≤ e.2)

/-- The course waits for grants: each lane that is short sends its own borrow (R129). -/
def State.awaitWeight (s : State) (x : Args) (ls : List (Nat × Nat)) : State :=
  (ls.foldl (fun s e => s.borrow s.ref e.1) s).parkAgain x (ls.map fun e => (e.1, .grant e.2))

/-- Shares leave their lanes (R127). -/
def State.takeShares (s : State) (b : BRef) (ls : List (Nat × Nat)) : State :=
  ls.foldl (fun s e => s.mapLanes b [e.1] fun _ z => { z with wt := z.wt - BitVec.ofNat 32 e.2 }) s

/-- Weight reaches a lane. What its WT cannot hold, because a `SPLITW` of another course has raised it since the borrow was
sent, goes back to the root, so that none is destroyed (R125; DEDUCED, assumption 53). -/
def State.addWeight (s : State) (b : BRef) (lane g : Nat) : State :=
  let z := s.lane b lane
  let got := min g (2 ^ 32 - 1 - z.wt.toNat)
  (s.mapLanes b [lane] fun _ z => { z with wt := z.wt + BitVec.ofNat 32 got }).giveBack z.wd.toNat (g - got) []

/-- A grant reaches a lane, and a wait for it that is over ends; one that is still short borrows again. -/
def State.grantTo (s : State) (b : BRef) (lane g : Nat) : State :=
  if !s.hasBundle b then s
  else
    let s1 := s.addWeight b lane g
    let y := s1.bundle b
    let wt := (y.lane lane).wt.toNat
    let met (w : Nat × Why) : Bool := w.1 == lane && (match w.2 with
      | .grant n => decide (n < wt)
      | _ => false)
    let unmet := y.parked.any fun k => k.waits.any fun w => w.1 == lane && (match w.2 with
      | .grant n => decide (wt ≤ n)
      | _ => false)
    let y1 := { y with parked := y.parked.map fun k =>
      { k with waits := k.waits.map fun w => if met w then (w.1, .course) else w } }
    let s2 := s1.setBundle b y1
    if unmet then s2.borrow b lane else s2.resume b fun _ => false

end Sys2Proof.Machine
end

