-- ==== Sys2Proof/Machine/Copies.lean ====
section
/-!
DEFINITION. Class 0xB, copies (Table 15-9, R288-R291), and the landing of their line transfers (R183, R289).
-/

namespace Sys2Proof.Machine

/-! ### Ranges -/

/-- An address range cut at 16 KiB boundaries. -/
def chunks (va : Nat) : Nat → Nat → List (Nat × Nat)
  | 0, _ => []
  | f + 1, n => if n = 0 then [] else
    let k := min n (16384 - va % 16384)
    (va, k) :: chunks (va + k) f (n - k)

/-- The place of a range of global memory; every page of it is translated (R274). -/
def State.globalRange (s : State) (acc : Acc) (lane va n : Nat) : Res (Place × List Tlb) :=
  if outside va n then .error (.trap (maskOf [lane]) (segvInfo va 0))
  else
    match s.xlateAll s.ref acc ((chunks va 128 n).map fun c => (lane, c.1, c.2)) with
    | .error e => .error e
    | .ok xs =>
      let es := xs.flatMap fun e => e.2.es
      .ok (.phys (xs.flatMap fun e => e.2.cells) va (unRanges es) (es.any Tlb.far), es)

/-- The place of a range of scratchpad. -/
def State.scrRange (s : State) (lane : Nat) (a n : Nat) : Res (Place × List Tlb) :=
  match s.scrAddr s.ref (BitVec.ofNat 32 a) n with
  | some p => .ok (.scr p.1 p.2.1 p.2.2, [])
  | none => .error (.trap (maskOf [lane]) (scrSegv (BitVec.ofNat 32 a)))

def State.range (s : State) (global : Bool) (acc : Acc) (lane va n : Nat) : Res (Place × List Tlb) :=
  if global then s.globalRange acc lane va n else s.scrRange lane va n

/-- ALIGN over the addresses of a copy: lane, address, alignment, whether global. -/
def alignAll (as : List (Nat × Nat × Nat × Bool)) : Res Unit :=
  match as.filter fun a => a.2.1 % a.2.2.1 != 0 with
  | [] => .ok ()
  | a :: r => .error (.trap (maskOf ((a :: r).map (·.1)))
      ⟨4, BitVec.ofNat 32 a.2.1, 0, if a.2.2.2 then BitVec.ofNat 32 (bits a.2.1 55 32) else 0, 0⟩)

/-- The receipt word of a lane: reachable, and not in a poisoned line (R288). -/
def State.receiptPlaces (s : State) (as : List (Nat × Nat)) : Res (List (Nat × Nat × Nat × Nat)) :=
  s.scrAll s.ref false (as.map fun a => (a.1, BitVec.ofNat 32 a.2, 8))

/-! ### Issuing -/

/-- What one lane brings to a copy. -/
structure CLaneIn where
  lane : Nat
  dst : Nat
  src : Nat
  /-- bytes written at the destination -/
  n : Nat
  fill : List Byte
  receipt : Option Nat
deriving DecidableEq, Repr

/-- The base of an address and its signed offset, in its space (R249). -/
def baseOff (global : Bool) (base : Nat) (off : BitVec 16) : Nat :=
  if global then (BitVec.ofNat 64 base + off.signExtend 64).toNat else (BitVec.ofNat 32 base + off.signExtend 32).toNat

/-- An address that a copy may not name: outside its space, or beyond the allocation it addresses (R249, R288). -/
def State.segvOf (s : State) (global : Bool) (a n : Nat) : Option TrapInfo :=
  if global then (if outside a n then some (segvInfo a 0) else none)
  else if (s.scrAddr s.ref (BitVec.ofNat 32 a) n).isNone then some (scrSegv (BitVec.ofNat 32 a)) else none

/-- The SEGV of one lane: its destination, its source, then its receipt (R288). -/
def State.laneSegv (s : State) (dg : Bool) (sg : Option Bool) (e : CLaneIn) : Option TrapInfo :=
  (s.segvOf dg e.dst e.n).or ((sg.bind fun g => s.segvOf g e.src e.n).or (e.receipt.bind fun r => s.segvOf false r 8))

/-- The SEGV of a copy: every lane that raises one, the lowest of them reported (R49). -/
def State.copySegv (s : State) (dg : Bool) (sg : Option Bool) (ins : List CLaneIn) : Res Unit :=
  match ins.filterMap fun e => (s.laneSegv dg sg e).map fun i => (e.lane, i) with
  | [] => .ok ()
  | e :: r => .error (.trap (maskOf ((e :: r).map (·.1))) e.2)

/-- The places of every lane's source (when it has one) and destination, traps before faults. -/
def State.copyPlaces (s : State) (dg : Bool) (sg : Option Bool) (ins : List CLaneIn) :
    Res (List (CLaneIn × (Place × List Tlb) × Option (Place × List Tlb))) :=
  match s.copySegv dg sg ins with
  | .error e => .error e
  | .ok _ => gather (ins.map fun e =>
    match s.range dg .write e.lane e.dst e.n with
    | .error x => .error x
    | .ok d =>
      match sg with
      | none => .ok (e, d, none)
      | some g => (s.range g .read e.lane e.src e.n).map fun p => (e, d, some p))

/-- A command's shares: the share operand of each lane, where it carries weight (R127, R288). -/
def State.copyShares (s : State) (t : Taken) (x : Args) (weight : Bool) (ls : List Nat) : List (Nat × Nat) :=
  if weight then ls.map fun l =>
    (l, shareOf (if x.d = .zero then 1 else s.opVal t x 1 l x.d)) else []

/-- The pops of a copy: a share in DST is a source. -/
def State.copyTake (s : State) (sh : Shape) (x : Args) (act : List Nat) : Res Taken :=
  match x.d with
  | .q n =>
    match s.take s.ref sh { x with d := .none } act with
    | .error e => .error e
    | .ok t =>
      if t.pops.any fun p => p.1 == n.val then .ok t
      else (s.popPort s.ref n.val false act).map fun e => { t with pops := t.pops ++ [(n.val, false, e)] }
  | _ => s.take s.ref sh { x with d := .none } act

/-- The command enters its queue, and weight is taken. -/
def State.enterCopy (s : State) (m : CopyMod) (x : Args) (t : Taken) (shares : List (Nat × Nat)) (es : List Tlb) (c : Copy) :
    State :=
  ((s.takeShares s.ref shares).fillUsed s.cur.core es).issueCmd x t m.queue.val (es.map fun e => (e.asid, e.va)) (.copy c)

def dirCode (d : CopyDir) : Nat :=
  match d with
  | .gs => 0 | .sg => 1 | .gg => 2 | .ss => 3
def widthCode (w : CopyW) : Nat :=
  match w with
  | .b32 => 0 | .b64 => 1 | .b128 => 2
/-- The MOD byte of a copy, as saved (R329). -/
def modByte (m : CopyMod) : Nat :=
  dirCode m.dir * 64 + m.queue.val * 16 + (if m.weight then 8 else 0) + (if m.full then 4 else 0) + widthCode m.width
def copyBytesW (w : CopyW) : Nat :=
  match w with
  | .b32 => 4 | .b64 => 8 | .b128 => 16

/-- The whole of `CPY` and `CPYFILL` (R288). -/
def State.pieces (s : State) (m : CopyMod) (x : Args) (t : Taken) (dg : Bool) (sg : Option Bool) (ins : List CLaneIn) : Out :=
  let w := copyBytesW m.width
  let rs := ins.filterMap fun e => e.receipt.map fun r => (e.lane, r)
  let aligns := ins.flatMap fun e => [(e.lane, e.dst, w, dg)] ++
    (if sg.isSome then [(e.lane, e.src, w, sg == some true)] else []) ++
    ((e.receipt.map fun r => (e.lane, r, 8, false)).toList)
  match alignAll aligns with
  | .error e => s.settle x (.error e)
  | .ok _ =>
    match s.copyPlaces dg sg ins with
    | .error e => s.settle x (.error e)
    | .ok ps =>
      match s.receiptPlaces rs with
      | .error e => s.settle x (.error e)
      | .ok rps =>
        let shares := s.copyShares t x m.weight (ins.map (·.lane))
        let low := s.short s.ref shares
        if ins.isEmpty then .next (s.finish x true)
        else if !low.isEmpty then .next (s.awaitWeight x low)
        else
          let units := ps.map fun p => (⟨p.1.lane, p.2.2.map (·.1), p.1.fill, p.2.1.1, p.1.n, p.1.src⟩ : CUnit)
          let lanes := ins.map fun e => (⟨e.lane, (rps.find? fun r => r.1 == e.lane).map (·.2),
            ((shares.find? fun h => h.1 == e.lane).map (·.2)).getD 0, (s.lane s.ref e.lane).wd.toNat⟩ : CLane)
          let es := ps.flatMap fun p => p.2.1.2 ++ (p.2.2.map (·.2)).getD []
          let far := ps.any fun p => ((p.2.2.map (·.2)).getD []).any Tlb.far
          .next (s.enterCopy m x t shares es
            ⟨m.full, far, units.filter fun u => u.n != 0, lanes, [], [], 0, w, modByte m, none,
              ins.map fun e => ⟨e.lane, e.src, e.dst, e.n, e.receipt.getD 0⟩⟩)

/-- `CPY` (R288). -/
def execCpy (m : CopyMod) (so dof : BitVec 16) (x : Args) (s : State) : Out :=
  let sh := (Instr.cpy m so dof x).shape.getD default
  let act := s.act x
  match s.copyTake sh x act with
  | .error e => s.settle x (.error e)
  | .ok t =>
    let dg := m.dir.dstGlobal; let sg := m.dir.srcGlobal
    s.pieces m x t dg (some sg) (act.map fun l =>
      ⟨l, baseOff dg (s.opVal t x sh.a.regs l x.a) dof, baseOff sg (s.opVal t x sh.b.regs l x.b) so,
        copyBytesW m.width, [], if x.c = .zero then none else some (s.opVal t x 1 l x.c)⟩)

/-- The fill value of a lane, as bytes. -/
def State.fillBytes (s : State) (t : Taken) (x : Args) (w : CopyW) (l : Nat) : List Byte :=
  match w with
  | .b32 => leBytes (s.opVal t x 1 l x.b) 4
  | .b64 => leBytes (s.opVal t x 2 l x.b) 8
  | .b128 => (s.rdGroup s.ref t 4 l x.b).flatMap fun v => leBytes v.toNat 4

/-- `CPYFILL` (R288). -/
def execCpyfill (m : CopyMod) (n dof : BitVec 16) (x : Args) (s : State) : Out :=
  let sh := (Instr.cpyfill m n dof x).shape.getD default
  let act := s.act x
  match s.copyTake sh x act with
  | .error e => s.settle x (.error e)
  | .ok t =>
    let dg := m.dir == .gs
    s.pieces m x t dg none (act.map fun l =>
      ⟨l, baseOff dg (s.opVal t x sh.a.regs l x.a) dof, 0, n.toNat * copyBytesW m.width, s.fillBytes t x m.width l,
        if x.c = .zero then none else some (s.opVal t x 1 l x.c)⟩)

/-! ### `TCPY` (R290, R291, Table 15-10) -/

def lrExt (r k : Nat) : Nat := bits r (167 + 24 * k) (144 + 24 * k)
def lrStride (r k : Nat) : Int := sext 48 (bits r (311 + 48 * k) (264 + 48 * k))
def lrOrder (r k : Nat) : Nat := bits r (14 + 3 * k) (12 + 3 * k)
def lrElem (r : Nat) : Nat := 2 ^ bits r 2 0
def lrBC (r : Nat) : Nat := 2 ^ bits r 32 30
def lrBR (r : Nat) : Nat := 2 ^ bits r 29 27
def lrSwz (r : Nat) : Nat := bits r 35 33
def lrCount (r : Nat) : Nat := lrExt r 0 * lrExt r 1 * lrExt r 2 * lrExt r 3 * lrExt r 4

/-- How many blocks stand along a dimension. -/
def lrDim (r k : Nat) : Nat :=
  if k = 0 then lrExt r 0 / lrBC r else if k = 1 then lrExt r 1 / lrBR r else lrExt r k

/-- The coordinates of the `n`-th element written. -/
def lrCoords (r n : Nat) : List Nat :=
  let i := n % (lrBR r * lrBC r)
  let t0 := n / (lrBR r * lrBC r)
  let digits := ((List.range 5).foldl (fun (a : Nat × List (Nat × Nat)) k =>
    let d := lrOrder r k
    (a.1 / lrDim r d, a.2 ++ [(d, a.1 % lrDim r d)])) (t0, [])).2
  let dig (d : Nat) : Nat := ((digits.find? fun e => e.1 == d).map (·.2)).getD 0
  [dig 0 * lrBC r + i % lrBC r, dig 1 * lrBR r + i / lrBC r, dig 2, dig 3, dig 4]

/-- The source address of the `n`-th element written. -/
def lrSrc (r : Nat) (global : Bool) (src n : Nat) : Nat :=
  let a : Int := (lrCoords r n).zipIdx.foldl (fun (a : Int) c => a + (c.1 : Int) * lrStride r c.2) (src : Int)
  (a % ((if global then 2 ^ 64 else 2 ^ 32 : Nat) : Int)).toNat

/-- Its place in the destination. -/
def lrOff (r n : Nat) : Nat :=
  let o := n * lrElem r
  o ^^^ ((o / 128 &&& lrSwz r) * 16)

/-- The validity of a record (R290), but for the pages its source touches. -/
def lrValid (r : Nat) : Bool :=
  bits r 511 504 == 0 && bits r 143 112 == 0 && bits r 78 36 == 0 && bits r 11 3 == 0 && decide (bits r 2 0 ≤ 4) &&
    (r.testBit 79 || bits r 111 80 == 0) && bits r 111 80 % 8 == 0 &&
    ((List.range 5).all fun d => (List.range 5).any fun k => lrOrder r k == d) &&
    ((List.range 5).all fun k => decide (1 ≤ lrExt r k)) &&
    decide (bits r 32 30 ≤ 6) && decide (bits r 29 27 ≤ 6) &&
    lrExt r 0 % lrBC r == 0 && lrExt r 1 % lrBR r == 0 &&
    ((List.range 5).all fun k => lrStride r k % (lrElem r : Int) == 0) &&
    decide (lrCount r * lrElem r ≤ 2 ^ 20) && (lrSwz r == 0 || lrCount r * lrElem r % 128 == 0)

/-- The page of an address, of 64 MiB where its translation is known to be of one (R369). -/
def State.pageOf (s : State) (a : Nat) : Nat × Bool :=
  if (s.tlbFind s.cur.core (s.asidOf s.ref) a).any Tlb.large then (a / 2 ^ 26, true) else (a / 2 ^ 16, false)

/-- Whether the source touches at most 64 pages, as far as their sizes are known. -/
def State.lrPages (s : State) (r : Nat) (global : Bool) (src : Nat) : Bool :=
  !global || decide ((((List.range (lrCount r)).map fun n => s.pageOf (lrSrc r global src n)).eraseDups).length ≤ 64)

/-- The places of a record's source elements. -/
def State.lrSources (s : State) (r : Nat) (global : Bool) (lane src : Nat) : Res (List (Nat × Place × List Tlb)) :=
  let as := (List.range (lrCount r)).map fun n => lrSrc r global src n
  if global then
    (s.xlateAll s.ref .read (as.map fun a => (lane, a, lrElem r))).map fun xs =>
      (as.zip xs).map fun e => (e.1, e.2.2.place, e.2.2.es)
  else as.mapM fun a => (s.scrRange lane a (lrElem r)).map fun p => (a, p.1, p.2)

/-- The places of a record's destination and source elements, traps before faults (R49, R290). -/
def State.tcpyPlaces (s : State) (dg sg : Bool) (l dst src r : Nat) :
    Res ((Place × List Tlb) × List (Nat × Place × List Tlb)) :=
  let n := lrElem r
  let srcBad := ((List.range (lrCount r)).map fun i => lrSrc r sg src i).findSome? fun a => s.segvOf sg a n
  let rcBad := if r.testBit 79 then s.segvOf false (bits r 111 80) 8 else none
  match (s.segvOf dg dst (lrCount r * n)).or (srcBad.or rcBad) with
  | some i => .error (.trap (maskOf [l]) i)
  | none =>
    match s.range dg .write l dst (lrCount r * n) with
    | .error e => .error e
    | .ok dp => (s.lrSources r sg l src).map fun sps => (dp, sps)

/-- The issue of a valid record. A record names no width, so that source and destination are multiples of the element (DESIGN
CHOICE, assumption 57). -/
def State.tcpyIssue (s : State) (m : CopyMod) (x : Args) (t : Taken) (l dst src r : Nat) : Out :=
  let act := s.act x
  let dg := m.dir.dstGlobal; let sg := m.dir.srcGlobal
  let e := lrElem r
  match forAll act (alignAll [(l, dst, e, dg), (l, src, e, sg)]) with
  | .error e => s.settle x (.error e)
  | .ok _ =>
    match forAll act (s.tcpyPlaces dg sg l dst src r) with
    | .error e => s.settle x (.error e)
    | .ok (dp, sps) =>
      match forAll act (s.receiptPlaces (if r.testBit 79 then [(l, bits r 111 80)] else [])) with
      | .error e => s.settle x (.error e)
      | .ok rps =>
        let shares := s.copyShares t x m.weight [l]
        let low := s.short s.ref shares
        if !low.isEmpty then .next (s.awaitWeight x low)
        else
          let units := sps.zipIdx.map fun p =>
            let d := dp.1.drop (lrOff r p.2)
            (⟨l, some p.1.2.1, [], (match d with
              | .phys cs va uns far => .phys (cs.take e) va uns far
              | d => d), e, p.1.1⟩ : CUnit)
          let es := dp.2 ++ sps.flatMap fun p => p.2.2
          .next (s.enterCopy m x t shares es
            ⟨m.full, sps.any fun p => p.2.2.any Tlb.far, units,
              [⟨l, (rps.head?).map (·.2), ((shares.head?).map (·.2)).getD 0, (s.lane s.ref l).wd.toNat⟩], [], [], 0, e,
              modByte m, some (BitVec.ofNat 512 r),
              [⟨l, src, dst, lrCount r * e, if r.testBit 79 then bits r 111 80 else 0⟩]⟩)

/-- A valid record whose source may touch too many pages: which it does is known once every page's translation is. -/
def State.tcpyCheck (s : State) (m : CopyMod) (x : Args) (t : Taken) (l dst src r : Nat) : Out :=
  let bad : Stop := .trap (maskOf (s.act x)) (fmtdiv 3)
  if !lrValid r then s.settle x (.error bad)
  else if s.lrPages r m.dir.srcGlobal src then s.tcpyIssue m x t l dst src r
  else
    match forAll (s.act x) (s.lrSources r m.dir.srcGlobal l src) with
    | .error (.fault f ls) => s.settle x (.error (.fault f ls))
    | _ => s.settle x (.error bad)

/-- `TCPY` (R290). -/
def execTcpy (m : CopyMod) (x : Args) (s : State) : Out :=
  let sh := (Instr.tcpy m x).shape.getD default
  let act := s.act x
  match act with
  | [] => .next (s.finish x true)
  | l :: _ =>
    match s.copyTake sh x act with
    | .error e => s.settle x (.error e)
    | .ok t =>
      let lr := s.opVal t x 1 l x.c
      if lr % 64 ≠ 0 then s.settle x (.error (.trap (maskOf act) ⟨4, BitVec.ofNat 32 lr, 0, 0, 0⟩))
      else
        match forAll act (s.scrAll s.ref true [(l, BitVec.ofNat 32 lr, 64)]) with
        | .error e => s.settle x (.error e)
        | .ok ts =>
          s.readRecord [] (ts.flatMap fun p => s.scrParts l p.2.1 p.2.2.1 p.2.2.2 64 plain none (s.unOf l) [])
            (fun s1 r => s1.tcpyCheck m x t l (s.opVal t x sh.a.regs l x.a) (s.opVal t x sh.b.regs l x.b) r) x

/-! ### Landing (R183, R289) -/

/-- The bytes of a unit that lie in its first destination line. -/
def CUnit.firstLen (u : CUnit) : Nat :=
  match u.dst with
  | .phys cs _ _ _ => ((List.range (min u.n 128)).takeWhile fun i => cs.getD i 0 / 128 == cs.getD 0 0 / 128).length
  | .scr _ _ off => min u.n (128 - off % 128)
  | .matrix => u.n

/-- Whether a unit still writes a byte of a destination line. -/
def CUnit.touches (u : CUnit) (l : Nat × Nat × Nat) : Bool :=
  match u.dst with
  | .phys cs _ _ _ => l.1 == 0 && cs.any fun c => c / 128 == l.2.2
  | .scr c k off => l.1 == 1 + c && l.2.1 == k && (linesTouched off u.n).contains l.2.2
  | .matrix => false

/-- The bytes that the first `n` bytes of a unit write. -/
def State.unitBytes (s : State) (r : Reader) (u : CUnit) (n : Nat) : List Byte :=
  match u.src with
  | some p => s.placeRead r p n
  | none => (List.range n).map fun i => u.fill.getD (i % u.fill.length) 0

def CUnit.held (s : State) (u : CUnit) : Bool := (u.src.map fun p => s.placeHeld p u.n).getD false
def CUnit.bad (s : State) (u : CUnit) : Bool := (u.src.map fun p => s.placeBad p u.n).getD false
/-- Whether an open slot stalls a unit, or the page it writes is being promoted (R384, Table 09-4). -/
def CUnit.stalled (s : State) (core : Nat) (u : CUnit) : Bool :=
  s.placeStalls core u.firstLen u.dst || s.placeBusy u.dst u.firstLen || u.src.any (s.placeStalls core u.n)

/-- The source line of a far unit: a transfer makes one request of the limiter for each that it reads (R180). -/
def CUnit.farLine (u : CUnit) : Option (Nat × Nat × Nat) := u.src.bind fun p => if p.far then some (p.line 0) else none
/-- A copy's queue asks the limiter for the source line of its next unit, unless the unit before it has read that line. -/
def State.farUnit (s : State) (core queue : Nat) (last : Option (Nat × Nat × Nat)) (u : CUnit) : State × Bool :=
  if u.farLine.isNone || u.farLine == last then (s, true) else s.farAsk core (.copy queue)

/-- The bytes of a place that lie in lines carried as poison. -/
def State.poisonedCells (s : State) (p : Place) (n : Nat) : List Nat := (p.cells.take n).filter s.cellPoison

/-- A transfer as far as it is made: the state, the units left, each lane's bytes, and `Copy.over`. -/
structure Landing where
  st : State
  units : List CUnit
  got : List (Nat × Nat)
  cured : List Nat

/-- The units of one transfer are written in order: those at the front that stand in one destination line, up to one that
something holds, whose source is poisoned, or that waits at the limiter; `last` is the far line read last. Each lane's bytes are
counted. -/
def Landing.go (q : Nat) (c : Cmd) (line : Nat × Nat × Nat) : Option (Nat × Nat × Nat) → Landing → List CUnit → Landing
  | _, a, [] => { a with units := [] }
  | last, a, u :: r =>
    if u.dst.line 0 != line || u.bad a.st || u.held a.st || u.stalled a.st c.ref.core then { a with units := u :: r }
    else
      let f := a.st.farUnit c.ref.core q last u
      if !f.2 then { a with st := f.1, units := u :: r }
      else
        let n := u.firstLen
        let s1 := f.1.placeWrite (f.1.cmdWriter q c) a.cured u.dst (f.1.unitBytes (f.1.cmdReader q c) u n)
        let b : Landing := ⟨s1, [], a.got ++ [(u.lane, n)], (a.cured ++ f.1.poisonedCells u.dst n).filter s1.cellPoison⟩
        if n < u.n then
          { b with units := { u with dst := u.dst.drop n, src := u.src.map fun p => p.drop n, n := u.n - n } :: r }
        else Landing.go q c line u.farLine b r

/-- The bytes of each lane in a transfer. -/
def laneBytes (got : List (Nat × Nat)) (l : Nat) : Nat := got.foldl (fun a e => if e.1 = l then a + e.2 else a) 0

/-- What a command of a queue has done, and what happened before it: the release of its arrivals, full marks and completion
(R87, R90, R108). -/
def State.cmdDone (s : State) (q : Nat) (c : Cmd) : View := (s.cmdView q c).bump (s.cmdWriter q c false) (s.clock + 1)

/-- Arrivals at receipt words, in lane order, each ordering `v` (R90); those whose line is empty stay owed. An arrival at a word
whose line has become poisoned since the issue is made (DESIGN CHOICE: the spec says nothing of it, assumption 17). -/
def State.arriveAll (s : State) (v : View) (as : List (Nat × Nat × Nat × Nat)) : State × List (Nat × Nat × Nat × Nat) :=
  as.foldl (fun (a : State × List (Nat × Nat × Nat × Nat)) r =>
    if a.2.isEmpty && a.1.line r.1 r.2.1 (r.2.2.1 / 128) != .empty then
      ((a.1.rwAdd r.1 r.2.1 r.2.2.1 v).arrive r.1 r.2.1 r.2.2.1 r.2.2.2, [])
    else (a.1, a.2 ++ [r])) (s, [])

/-- R289: a line all of whose bytes that the copy writes have landed is marked full, where it was empty (Table 04-4). -/
def Landing.fullMark (a : Landing) (c : Copy) (line : Nat × Nat × Nat) (v : View) : State :=
  if c.full && line.1 != 0 && !a.got.isEmpty && !a.units.any (fun u => u.touches line) &&
      a.st.line (line.1 - 1) line.2.1 line.2.2 == .empty then a.st.markLine (line.1 - 1) line.2.1 line.2.2 .full v
  else a.st

/-- The arrivals that a transfer makes: each lane's bytes at its receipt word. -/
def Landing.due (a : Landing) (c : Copy) : List (Nat × Nat × Nat × Nat) :=
  c.lanes.filterMap fun q => q.receipt.bind fun p =>
    if laneBytes a.got q.lane = 0 then none else some (p.1, p.2.1, p.2.2, laneBytes a.got q.lane)

/-- One transfer of a copy, which is command `c` of queue `q` or stands in it: what is owed first; then the bytes, the full marks,
and the arrivals. -/
def State.landCopy (s : State) (q : Nat) (c : Cmd) (y : Copy) : State × Copy :=
  if !y.owed.isEmpty then
    let r := s.arriveAll (s.cmdDone q c) y.owed
    (r.1, { y with owed := r.2 })
  else
    match y.units with
    | [] => (s, y)
    | u :: _ =>
      let a := Landing.go q c (u.dst.line 0) none ⟨s, [], [], y.cured⟩ y.units
      let v := a.st.cmdDone q c
      let r := (a.fullMark y (u.dst.line 0) v).arriveAll v (a.due y)
      (r.1, { y with units := a.units, owed := r.2, cured := a.cured, landed := y.landed + a.got.foldl (fun n e => n + e.2) 0 })

/-- R183: what a copy stopped by poison leaves: every line of its destination not yet written is poisoned. -/
def State.poisonDst (s : State) (us : List CUnit) : State :=
  us.foldl (fun s u =>
    match u.dst with
    | .phys cs _ _ _ => { s with poison := (cs.map lineOf).foldl (fun p l => if p.contains l then p else l :: p) s.poison }
    | .scr c k off => (linesTouched off u.n).foldl (fun s l => s.setLine c k l .poisoned) s
    | .matrix => s) s

/-- The copy fault record (R183). Its weight stays with the work until that is ended (R375). -/
def copyFault (queue : Nat) (c : Copy) (u : CUnit) : TrapInfo :=
  ⟨6, BitVec.ofNat 32 c.landed, BitVec.ofNat 32 queue, BitVec.ofNat 32 u.sva, BitVec.ofNat 32 (bits u.sva 55 32)⟩

/-- The shares of a performed copy return to their domains (Table 06-2), covering what `v` does (R131). -/
def State.returnShares (s : State) (v : View) (c : Copy) : State := c.lanes.foldl (fun s q => s.giveBack q.dom q.share v) s

/-- R183: a copy stops at a poisoned source and counts as performed; the weight of its lanes stays with the work until that is
ended (R375). -/
def State.stopCopy (s : State) (core queue : Nat) (c : Cmd) (y : Copy) (u : CUnit) : State :=
  let s1 := (s.poisonDst y.units).poisonLater c.ref.core c.ref.slot (copyFault queue y u)
  let n := (s.crew c.ref.core c.ref.slot).lseq
  let w := y.lanes.foldl (fun a q => a + q.share) 0
  ({ s1 with stopWt := setD s1.stopWt n (findD s1.stopWt n 0 + w) 0 }.popHead core queue).complete queue c

/-- `COPY_TRANSFER_LAND` (R183, R289): the next transfer of the copy at the head of a queue. -/
def execCopyTransferLand (core queue : Nat) (s : State) : Out :=
  if 4 ≤ queue then .next s
  else
    match s.headCmd core queue with
    | none => .next s
    | some c =>
      match c.body with
      | .copy y =>
        if c.suspended || (!c.started && (!s.mayStart core c.duration || s.cmdOwed c)) then .next s
        else
          match if y.owed.isEmpty then y.units.head?.filter (CUnit.bad s) else none with
          | some u => .next (s.stopCopy core queue c y u)
          | none =>
            let r := s.landCopy queue c y
            if r.2.units.isEmpty && r.2.owed.isEmpty then
              .next (((r.1.returnShares (r.1.cmdDone queue c) r.2).popHead core queue).complete queue c)
            else .next (r.1.setHead core queue { c with started := true, body := .copy r.2 })
      | _ => .next s

end Sys2Proof.Machine
end

