-- ==== Sys2Proof/Machine/Restore.lean ====
section
/-!
DEFINITION. What a core has free for a crew, and how a crew that was saved or displaced comes to stand on a core again: its blocks,
its commands and what names its old place (R25, R26, R30, R91, R327-R330, R378).
-/

namespace Sys2Proof.Machine

/-! ### What a core has free (R11, R25, R30, R37) -/

def Core.freeSlot (x : Core) : Option Nat :=
  (List.range 64).find? fun k => (find x.crews k).isNone && !x.holds.any fun h => h.slot == k
def Core.bundleCount (x : Core) : Nat :=
  x.crews.foldl (fun a e => a + e.2.bundles.length) 0 + x.holds.foldl (fun a h => a + h.nbundles) 0
def Core.linesUsed (x : Core) : Nat :=
  x.crews.foldl (fun a e => a + e.2.slines) 0 + x.holds.foldl (fun a h => a + h.slines) 0
def Core.tilesUsed (x : Core) : Nat :=
  x.crews.foldl (fun a e => a + e.2.ntiles) 0 + x.holds.foldl (fun a h => a + h.ntiles) 0
/-- Blocks neither reserved, held nor promised, ascending (R91). -/
def Core.accFree (x : Core) : List Nat :=
  (List.range 16).filter fun b => (find x.accRes b).isNone && (find x.accHeld b).isNone && !x.holds.any fun h => h.accs.contains b

/-- Whether a core can take a crew of so much storage. -/
def Core.fits (x : Core) (nbundles rf slines ntiles nacc : Nat) : Bool :=
  x.freeSlot.isSome && decide (x.bundleCount + nbundles ≤ 64) && decide (x.rfUse + rf ≤ rfBytes) &&
    decide (x.linesUsed + slines ≤ 8192) && decide (x.tilesUsed + ntiles ≤ 16) && decide (nacc ≤ x.accFree.length)

/-- A crew is admitted to a slot of a core: its bundles take their admission numbers, and its reserved blocks are those
it already holds and the lowest that are free (R91). -/
def State.takeIn (s : State) (core slot : Nat) (k : Crew) : State :=
  let x := s.core core
  let bs := k.bundles.zipIdx.map fun (e : (Nat × Bundle) × Nat) => (e.1.1, { e.1.2 with adm := x.admNext + e.2 })
  s.setCore core { x with
    crews := put x.crews slot { k with bundles := bs },
    admNext := x.admNext + k.bundles.length,
    accRes := ((((x.accHeld.filter fun e => e.2.1 == slot).map (·.1)) ++ x.accFree).take k.nacc).foldl (fun m b => put m b slot) x.accRes }

/-! ### Accumulator blocks of a save area (R327, R330) -/

/-- The handles an area names, and the blocks under each. -/
def areaHandles (rd : Nat → Nat → Nat) : List Nat :=
  ((List.range 16).map fun i => rd (192 + 4 * i) 4).filter fun h => h != 0
def areaBlocks (rd : Nat → Nat → Nat) : List (Nat × Word) :=
  (List.range 16).filterMap fun b => ((areaHandles rd).find? fun h => h.testBit b).map fun h => (b, BitVec.ofNat 32 h)
def Core.blocksOpen (x : Core) (bs : List (Nat × Word)) : Bool := bs.all fun e => x.accFree.contains e.1

/-- The blocks of an area, under their own numbers, for a slot. -/
def State.loadBlocks (s : State) (core slot : Nat) (rd : Nat → Nat → Nat) (keep : Crew) : State :=
  let x := s.core core
  let bs := areaBlocks rd
  s.setCore core { x with
    accHeld := bs.foldl (fun m e => put m e.1 (slot, e.2)) x.accHeld,
    acc := bs.zipIdx.foldl (fun m e => put m e.1.1 (readBlock rd keep e.2)) x.acc,
    accPoison := bs.foldl (fun a e => if (rd 256 2).testBit e.1 then a ||| (1#16 <<< e.1) else a) x.accPoison }

/-! ### A crew's commands apart from its core -/

/-- A crew's commands by queue, in order, with the `QFENCE` markers among them (R109, R329). -/
def State.cmdsBy (s : State) (core slot : Nat) : SMap (List QEnt) :=
  ((s.core core).queues.map fun (q : Nat × List QEnt) => (q.1, q.2.filter fun e =>
    match e with
    | .cmd c => c.ownOf == (core, slot)
    | .fence _ => true)).filter fun q => !(cmdsIn q.2).isEmpty
def State.takeCmds (s : State) (core slot : Nat) : State :=
  let x := s.core core
  s.setCore core { x with queues := (x.queues.map fun (q : Nat × List QEnt) => (q.1, q.2.filter fun e =>
    match e with
    | .cmd c => c.ownOf != (core, slot)
    | .fence _ => true)).filter fun q => !q.2.isEmpty }

/-! ### What names a crew by where it stood -/

/-- Places that name a crew by where it stood follow it to where it stands. -/
def Place.move (f : Nat × Nat → Nat × Nat) (p : Place) : Place :=
  match p with
  | .scr c k off => .scr (f (c, k)).1 (f (c, k)).2 off
  | p => p
def Copy.move (f : Nat × Nat → Nat × Nat) (c : Copy) : Copy :=
  { c with
    units := c.units.map fun u => { u with src := u.src.map (Place.move f), dst := u.dst.move f },
    lanes := c.lanes.map fun q => { q with receipt := q.receipt.map fun r => ((f (r.1, r.2.1)).1, (f (r.1, r.2.1)).2, r.2.2) },
    owed := c.owed.map fun r => ((f (r.1, r.2.1)).1, (f (r.1, r.2.1)).2, r.2.2) }
def MatBody.move (f : Nat × Nat → Nat × Nat) (b : MatBody) : MatBody :=
  match b with
  | .tld n c k off len => .tld n (f (c, k)).1 (f (c, k)).2 off len
  | .tst n c k off len => .tst n (f (c, k)).1 (f (c, k)).2 off len
  | .gpart c i j a d o => .gpart c i j (f a) (f d) (f o)
  | b => b
def Body.move (f : Nat × Nat → Nat × Nat) (b : Body) : Body :=
  match b with
  | .copy y => .copy (y.move f)
  | .mat b => .mat (b.move f)
  | .attn a => .attn { a with out := ((f (a.out.1, a.out.2.1)).1, (f (a.out.1, a.out.2.1)).2, a.out.2.2) }
  | b => b
def Cmd.move (f : Nat × Nat → Nat × Nat) (c : Cmd) : Cmd :=
  let r := f (c.ref.core, c.ref.slot)
  { c with ref := ⟨r.1, r.2, c.ref.bundle⟩, body := c.body.move f }
def Why.move (f : Nat × Nat → Nat × Nat) (w : Why) : Why :=
  match w with
  | .receipt c k o g => .receipt (f (c, k)).1 (f (c, k)).2 o g
  | w => w
def WqEnt.move (f : Nat × Nat → Nat × Nat) (e : WqEnt) : WqEnt :=
  match e with
  | .push p => .push { p with els := p.els.map fun t => (t.1, t.2.1.move f, t.2.2) }
  | e => e
def Bundle.move (f : Nat × Nat → Nat × Nat) (y : Bundle) : Bundle :=
  { y with
    ports := y.ports.map fun q => (q.1, { q.2 with wq := q.2.wq.map (WqEnt.move f) }),
    parked := y.parked.map fun p => { p with waits := p.waits.map fun w => (w.1, w.2.move f) } }
def Crew.move (f : Nat × Nat → Nat × Nat) (k : Crew) : Crew := { k with bundles := k.bundles.map fun e => (e.1, e.2.move f) }

/-! ### `QFENCE` markers that come back take new numbers -/

def QEnt.marks (e : QEnt) : List Nat :=
  match e with
  | .fence i => [i]
  | .cmd _ => []
def WqEnt.marks (e : WqEnt) : List Nat :=
  match e with
  | .fence i => [i]
  | .push _ => []
/-- The markers of a crew's queues. -/
def Crew.marks (k : Crew) (qs : SMap (List QEnt)) : List Nat :=
  (qs.flatMap (fun q => q.2.flatMap QEnt.marks) ++
    k.bundles.flatMap fun y => y.2.ports.flatMap fun p => p.2.wq.flatMap WqEnt.marks).eraseDups
/-- New numbers from `base` on. -/
def renumber (old : List Nat) (base i : Nat) : Nat := if old.contains i then base + old.idxOf i else i
def QEnt.renumber (g : Nat → Nat) (e : QEnt) : QEnt :=
  match e with
  | .fence i => .fence (g i)
  | e => e
def WqEnt.renumber (g : Nat → Nat) (e : WqEnt) : WqEnt :=
  match e with
  | .fence i => .fence (g i)
  | e => e
def Crew.renumber (g : Nat → Nat) (k : Crew) : Crew :=
  { k with bundles := k.bundles.map fun y => (y.1, { y.2 with
      ports := y.2.ports.map fun q => (q.1, { q.2 with wq := q.2.wq.map (WqEnt.renumber g) }) }) }

/-! ### Engine records (R329) -/

/-- Whether a command has an engine record. -/
def Cmd.recorded (c : Cmd) : Bool := !(engineRecord 0 0 c).isEmpty

/-- A command as its record has it; the rest, a copy's landed bytes among it, is what the device keeps (DESIGN CHOICE,
assumption 20). -/
def Cmd.fromRecord (rd : Nat → Nat → Nat) (at_ : Nat) (c : Cmd) : Cmd :=
  match c.body with
  | .mat (.mloop _) => { c with body := .mat (.mloop (readMat rd at_).1), step := (readMat rd at_).2 }
  | .mat (.gpart _ i j a b o) => { c with body := .mat (.gpart (readMat rd at_).1 i j a b o), step := (readMat rd at_).2 }
  | .attn a => { c with body := .attn (readAttn rd at_ a a.q.length []) }
  | _ => c

/-- A queue's entries with the records of the queue, in order. -/
def withRecords (rd : Nat → Nat → Nat) : List (Nat × Nat × Nat × Nat × Nat) → List QEnt → List QEnt
  | _, [] => []
  | [], es => es
  | r :: rs, .cmd c :: es =>
    if c.recorded then .cmd (c.fromRecord rd r.2.2.2.2) :: withRecords rd rs es else .cmd c :: withRecords rd (r :: rs) es
  | rs, e :: es => e :: withRecords rd rs es

/-- The commands of an area: what the device keeps, with the area's engine records. A matrix record with no such command makes
one. -/
def areaCmds (rd : Nat → Nat → Nat) (core slot id : Nat) (kept : SMap (List QEnt)) : SMap (List QEnt) :=
  let recs := readEngine rd 8192 (bits (rd 0 64) 319 288)
  let of (q : Nat) : List (Nat × Nat × Nat × Nat × Nat) := recs.filter fun r => r.1 == q
  if kept.isEmpty then
    let ms := ((of qMat).filter fun r => r.2.2.2.1 == 1).map fun r =>
      QEnt.cmd ⟨id, ⟨core, slot, r.2.2.1⟩, 15, [], false, false, none, (readMat rd r.2.2.2.2).2, false, [], [],
        .mat (.mloop (readMat rd r.2.2.2.2).1)⟩
    if ms.isEmpty then [] else [(qMat, ms)]
  else kept.map fun q => (q.1, withRecords rd (of q.1) q.2)

/-! ### Coming back -/

/-- A command that comes back: nothing of its old core suspends it, and a window that a fault held faults afresh (R373). -/
def Cmd.back (s : State) (core : Nat) (c : Cmd) : Cmd :=
  { c with
    suspended := c.started && !s.mayStart core 0,
    fault := none,
    body := match c.body with
      | .attn a => .attn { a with poison := false }
      | b => b }

/-- A part of a `GMLOOP` that comes back pins its blocks again (R283). -/
def State.pinBack (s : State) (core : Nat) (c : Cmd) : State :=
  match c.body with
  | .mat (.gpart m _ _ _ _ own) => s.setCore core { s.core core with pins := (c.id, own.2, m.handle) :: (s.core core).pins }
  | _ => s

/-- Entries come to stand in the queues of cores again, in order. -/
def State.enterAll (s : State) (f : Nat × Nat → Nat × Nat) (es : List (Nat × Nat × QEnt)) : State :=
  es.foldl (fun s e =>
    match e.2.2 with
    | .cmd c =>
      let d := (c.move f).back s e.1
      (s.enter e.1 e.2.1 d).pinBack e.1 d
    | .fence i => s.setQueue e.1 e.2.1 (s.queue e.1 e.2.1 ++ [.fence i])) s

/-- A crew with the blocks of its area takes a slot; its commands' entries, with new numbers for their markers. -/
def State.seat (s : State) (core slot : Nat) (rd : Nat → Nat → Nat) (k : Crew) (qs : SMap (List QEnt)) :
    State × List (Nat × Nat × QEnt) :=
  let old := k.marks qs
  let g := renumber old s.opSeq
  let s1 := (s.loadBlocks core slot rd k).takeIn core slot (k.renumber g)
  ({ s1 with opSeq := s.opSeq + old.length }, qs.flatMap fun q => q.2.map fun e => (core, q.1, e.renumber g))

/-- Waits of a crew that has come back and whose instructions have done their part are armed anew (R45). -/
def State.rearm (s : State) (core slot : Nat) : State :=
  (s.crew core slot).bundles.foldl (fun s e =>
    let b : BRef := ⟨core, slot, e.1⟩
    let s1 := e.2.parked.foldl (fun s p => p.waits.foldl (fun s w =>
      match w.2 with
      | .quiet d _ => s.toRoot .arm d 0 b w.1 []
      | _ => s) s) s
    let ends (w : Why) : Bool := match w with
      | .receipt c k o g => decide (rwGen (s1.rw c k o) ≠ g.toNat)
      | _ => false
    let gain (w : Why) (z : Lane) : Lane := match w with
      | .receipt c k o _ => { z with mind := z.mind.learn s1.opSeq (findD (s1.crew c k).rwView o ([], [])).2 }
      | _ => z
    (s1.setBundle b ((s1.bundle b).release (fun _ w => ends w) gain)).wakePorts b) s

end Sys2Proof.Machine
end

