-- ==== Sys2Proof/Machine/Roots.lean ====
section
/-!
DEFINITION. The roots of quiet domains (R123-R136, R172, R380, R381): what each message does there.
-/

namespace Sys2Proof.Machine

/-- Whether roots live in the firmware (Table 23-13). -/
def State.rootsHosted (s : State) : Bool := s.funcBit 2
def State.dom (s : State) (d : Nat) : Dom := findD s.doms d default
def State.setDom (s : State) (d : Nat) (x : Dom) : State := { s with doms := put s.doms d x }

/-- The largest count of a root. -/
def countMax : Nat := 2 ^ 64 - 1

/-! ### Waking -/

/-- Lanes of `WAITQ` go on with their predicate written; a wake that sets it acquires what the returns cover (R134). -/
def State.wakeQuiet (s : State) (ws : List (BRef × Nat)) (dom : Nat) (v : Bool) : State :=
  ws.foldl (fun s w =>
    if s.hasBundle w.1 then
      s.setBundle w.1 ((s.bundle w.1).release
        (fun l y => l == w.2 && (match y with
          | .quiet d _ => d == dom
          | _ => false))
        fun y z =>
          let z1 := if v then { z with mind := z.mind.learn s.opSeq (s.dom dom).view } else z
          match y with
          | .quiet _ (.p n) => z1.setPred n v
          | _ => z1)
    else s) s

/-- R172: repairs that waited for a domain are published when it becomes quiet, for `.gated` commands to acquire (R173). -/
def State.publish (s : State) (dom : Nat) : State :=
  { s with ctxs := s.ctxs.map fun (e : Nat × Ctx) =>
      if e.2.pending && e.2.rdom == dom then
        (e.1, { e.2 with pubgen := (e.2.pubgen + 1) % 2 ^ 32, pending := false, pubView := e.2.pubView.join (s.dom dom).view })
      else e }

/-- A message that a root has taken. -/
def State.dropMsg (s : State) (idx : Nat) : State := { s with qmsgs := s.qmsgs.eraseIdx idx }

/-- R136: the domain becomes CORRUPT, with machine check QD corrupt. -/
def State.corrupt (s : State) (d : Nat) : State :=
  (s.setDom d { s.dom d with st := .corrupt }).postTrap (coreless (trapOf 0x42 (BitVec.ofNat 32 d)))

/-- A return applied at a root (Table 06-1), with what it covers. -/
def State.applyReturn (s : State) (d n : Nat) (v : View) : State :=
  let x := { s.dom d with view := (s.dom d).view.join v }
  match x.st with
  | .corrupt => s.setDom d { x with heldBack := x.heldBack ++ [n] }
  | .closed => s.corrupt d
  | .opened =>
    if x.t < x.h + n then s.corrupt d
    else if x.h + n = x.t then
      ((s.setDom d { x with h := x.t, waiters := [] }).publish d).wakeQuiet x.waiters d true
    else s.setDom d { x with h := x.h + n }

/-- A mint (R126); none where T would pass its limit. -/
def State.applyMint (s : State) (d m : Nat) : Option State :=
  let x := s.dom d
  if x.st = .opened ∧ x.t + m ≤ countMax then some (s.setDom d { x with t := x.t + m }) else none

/-- `QOPEN` at a root: the status. -/
def State.applyOpen (s : State) (d : Nat) : State × Nat :=
  let x := s.dom d
  if x.st = .closed then (s.setDom d { x with st := .opened, t := 0, h := 0, view := [] }, 0) else (s, 1)
/-- `QCLOSE` at a root: the status. -/
def State.applyClose (s : State) (d : Nat) : State × Nat :=
  let x := s.dom d
  match x.st with
  | .closed => (s, 0)
  | .opened => if x.h = x.t then (s.setDom d { x with st := .closed, t := 0, h := 0 }, 0) else (s, 1)
  | .corrupt => (s, 1)

/-- R381: whether a domain is assigned to an account. -/
def State.assigned (s : State) (d acct : Nat) : Bool :=
  let e := s.mem.readNat ((s.supReg 0x12A).toNat + 4 * d) 4
  bits e 31 17 == 0 && e.testBit 16 && bits e 15 0 == acct

/-- A course that waits takes a trap instead, its marks withdrawn. -/
def State.trapPark (s : State) (b : BRef) (k : Park) (lanes : Word) (i : TrapInfo) : State :=
  let y := s.bundle b
  let s1 := s.setBundle b { y with parked := y.parked.filter fun p => p != k }
  let x : Args := { noArgs with sched := { noArgs.sched with setr := k.setr, setw := k.setw } }
  { s1 with cur := ⟨b.core, b.slot, b.bundle, k.mask, k.pc, 0, true⟩ }.takeTrap x lanes i

/-! ### Steps of the roots in hardware mode -/

/-- The message an event is about, where it is of a kind and the roots are the hardware's. -/
def State.rootMsg (s : State) (idx : Nat) (k : QKind → Bool) : Option QMsg :=
  match s.qmsgs[idx]? with
  | some m => if k m.kind && !s.rootsHosted then some m else none
  | none => none

/-- `QD_BORROW` (R129, R136): at an open domain the grant is sent; one that would carry T past its limit traps the
lane; elsewhere the lane stays in its wait. -/
def execQdBorrow (idx : Nat) (s : State) : Out :=
  match s.rootMsg idx fun k => k == .borrow with
  | none => .next s
  | some m =>
    let x := s.dom m.dom
    let s1 := s.dropMsg idx
    match x.st with
    | .opened =>
      if countMax < x.t + 2 ^ 20 then
        match (s.bundle m.ref).parked.find? fun p => p.waits.any fun w => w.1 == m.lane with
        | some p => .next (s1.trapPark m.ref p (maskOf [m.lane]) (trapOf 0x0B (BitVec.ofNat 32 m.dom)))
        | none => .next s1
      else
        let g := min (2 ^ 20) (2 ^ 32 - 1 - m.amount)
        let s2 := s1.setDom m.dom { x with t := x.t + 2 ^ 20, h := x.h + (2 ^ 20 - g) }
        .next { s2 with grants := s2.grants ++ [(m.ref, m.lane, g)] }
    | _ => .next s1

/-- `BORROW_GRANT_ARRIVE` (R127, R129). -/
def execBorrowGrantArrive (at_ : BRef) (lane : Nat) (s : State) : Out :=
  match s.grants.find? fun g => g.1 == at_ && g.2.1 == lane with
  | none => .next s
  | some g => .next ({ s with grants := s.grants.erase g }.grantTo at_ lane g.2.2)

/-- `QD_RETURN` (R123, R136). -/
def execQdReturn (idx : Nat) (s : State) : Out :=
  match s.rootMsg idx fun k => k == .ret with
  | none => .next s
  | some m => .next ((s.dropMsg idx).applyReturn m.dom m.amount m.view)

/-- `QD_ARM` (R124, R134). -/
def execQdArm (idx : Nat) (s : State) : Out :=
  match s.rootMsg idx fun k => k == .arm with
  | none => .next s
  | some m =>
    let x := s.dom m.dom
    let s1 := s.dropMsg idx
    match x.st with
    | .closed => .next (s1.wakeQuiet [(m.ref, m.lane)] m.dom false)
    | .opened =>
      if x.h = x.t then .next (s1.wakeQuiet [(m.ref, m.lane)] m.dom true)
      else .next (s1.setDom m.dom { x with waiters := x.waiters ++ [(m.ref, m.lane)] })
    | .corrupt => .next (s1.setDom m.dom { x with waiters := x.waiters ++ [(m.ref, m.lane)] })

/-! ### Host-assisted mode and the acting registers (R380) -/

def QKind.code (k : QKind) : Nat :=
  match k with
  | .mint _ => 1 | .borrow => 2 | .ret => 3 | .arm => 4 | .opening => 5 | .closing => 6

/-- A root message as its ring record (Table 24-7). -/
def QMsg.number (m : QMsg) (seq : Nat) : Nat :=
  let who := match m.kind with
    | .borrow | .arm | .opening | .closing =>
      m.ref.core % 1024 * 2 ^ 38 + m.ref.slot % 64 * 2 ^ 32 + m.ref.bundle % 32 * 2 ^ 27 + m.lane % 32 * 2 ^ 22
    | _ => 1023 * 2 ^ 38
  seq % 2 ^ 64 * 2 ^ 128 + m.amount % 2 ^ 64 * 2 ^ 64 + m.kind.code * 2 ^ 60 + m.dom % 4096 * 2 ^ 48 + who

/-- Whether the firmware answers a kind through QREPLY. -/
def QKind.answered (k : QKind) : Bool :=
  match k with
  | .borrow | .arm | .opening | .closing => true
  | _ => false

/-- `ROOT_MESSAGE_POST` (R380): the oldest message that has not been posted goes to the root ring while it has room. -/
def execRootMessagePost (idx : Nat) (s : State) : Out :=
  match s.qmsgs[idx]? with
  | none => .next s
  | some m =>
    if !s.rootsHosted || m.posted || (s.qmsgs.take idx).any (fun e => !e.posted) || !s.ringRoom s.rqSeq 0x124 then .next s
    else
      let s1 := s.storePhysL ((s.supReg 0x123).toNat + 32 * (s.rqSeq % 4096)) (leBytes (m.number (s.rqSeq + 1)) 32)
      let s2 := if m.kind.answered then { s1 with qmsgs := s1.qmsgs.set idx { m with posted := true } }
        else (s1.setDom m.dom { s1.dom m.dom with view := (s1.dom m.dom).view.join m.view }).dropMsg idx
      .next ({ s2 with rqSeq := s.rqSeq + 1 }.notify 0x125)

/-- The posted message that a reply answers. -/
def State.replyTo (s : State) (k : QKind) (at_ : BRef) (lane : Nat) : Option Nat :=
  if !s.rootsHosted then none
  else s.qmsgs.findIdx? fun m => m.posted && m.kind == k && m.ref == at_ && m.lane == lane

/-- `QREPLY` to a borrow. Table 24-7 gives the answer a grant and no way to say that T would pass its limit, so a firmware that
applies no borrow grants 0, and the lane, still short, borrows again (R136; DESIGN CHOICE, assumption 54). -/
def execQreplyBorrow (at_ : BRef) (lane : Nat) (grant : Word) (s : State) : Out :=
  match s.replyTo .borrow at_ lane with
  | none => .next s
  | some i => .next ((s.dropMsg i).grantTo at_ lane grant.toNat).wakeSave

/-- `QREPLY` to an arming. -/
def execQreplyArm (at_ : BRef) (lane : Nat) (value : Bool) (s : State) : Out :=
  match s.replyTo .arm at_ lane with
  | none => .next s
  | some i => .next ((s.dropMsg i).wakeQuiet [(at_, lane)] ((s.qmsgs.map QMsg.dom).getD i 0) value).wakeSave

/-- The lane that waits for a root's answer takes its status and goes on. -/
def State.rootAnswer (s : State) (isOpen : Bool) (at_ : BRef) (lane v : Nat) : State :=
  let mine (l : Nat) (w : Why) : Bool := l == lane && (match w with
    | .engine (.root o _ _) => o == isOpen
    | _ => false)
  let dsts := (s.bundle at_).parked.flatMap fun k => k.waits.filterMap fun w =>
    match w.2 with
    | .engine (.root o d id) => if w.1 = lane ∧ o = isOpen then some (d, id) else none
    | _ => none
  match dsts with
  | d :: _ =>
    let s1 := s.land at_ d.2 d.1 [(lane, [BitVec.ofNat 32 v])]
    s1.setBundle at_ ((s1.bundle at_).release mine fun _ z => z)
  | [] => s

/-- `QREPLY` to an open: the state that the module keeps of the domain follows the answer. -/
def execQreplyOpen (at_ : BRef) (lane : Nat) (value : Bool) (s : State) : Out :=
  match s.replyTo .opening at_ lane with
  | none => .next s
  | some i =>
    let d := (s.qmsgs.map QMsg.dom).getD i 0
    let s1 := s.dropMsg i
    let s2 := if value then s1 else s1.setDom d { s1.dom d with st := .opened }
    .next (s2.rootAnswer true at_ lane (if value then 1 else 0)).wakeSave

/-- `QREPLY` to a close. -/
def execQreplyClose (at_ : BRef) (lane : Nat) (value : Bool) (s : State) : Out :=
  match s.replyTo .closing at_ lane with
  | none => .next s
  | some i =>
    let d := (s.qmsgs.map QMsg.dom).getD i 0
    let s1 := s.dropMsg i
    let s2 := if value then s1 else s1.setDom d { s1.dom d with st := .closed }
    .next (s2.rootAnswer false at_ lane (if value then 1 else 0)).wakeSave

/-- `QRESET` (R380): a CORRUPT domain becomes CLOSED, and its `WAITQ` waiters wake with the predicate cleared. -/
def execQreset (dom : BitVec 12) (s : State) : Out :=
  let d := dom.toNat
  let x := s.dom d
  if s.rootsHosted || x.st != .corrupt then .next s
  else .next ((s.setDom d { (default : Dom) with st := .closed }).wakeQuiet x.waiters d false)

/-- `QPUB` (R380): discarded in hardware mode. -/
def execQpub (dom : BitVec 12) (s : State) : Out := .next (if s.rootsHosted then s.publish dom.toNat else s)

end Sys2Proof.Machine
end

