-- ==== Sys2Proof/Machine/Office.lean ====
section
/-!
DEFINITION. The sorting office of a die (R33-R37, R309, R382) and the admission of ready bundles to cores (R25, R26, R37,
R137).
-/

namespace Sys2Proof.Machine

/-! ### Kernels as crews (R209, Table 12-3) -/

def Kernel.h (k : Kernel) : Nat := k.header.toNat
def Kernel.ver (k : Kernel) : Nat := bits k.h 1 0
def Kernel.det (k : Kernel) : Bool := k.h.testBit 2
def Kernel.nreg (k : Kernel) : Nat := 8 * bits k.h 7 3
def Kernel.nbundles (k : Kernel) : Nat := bits k.h 13 8
def Kernel.slines (k : Kernel) : Nat := bits k.h 27 14
def Kernel.ntiles (k : Kernel) : Nat := bits k.h 32 28
def Kernel.nacc (k : Kernel) : Nat := bits k.h 37 33
def Kernel.gw (k : Kernel) : Nat := bits k.h 39 38 + 1
def Kernel.gh (k : Kernel) : Nat := bits k.h 41 40 + 1

/-- A bundle at its launch: its ports bound as the kernel declares (R137, R208). -/
def Kernel.bundle (k : Kernel) (live : Word) (lanes : SMap Lane) : Bundle :=
  { (default : Bundle) with
    live := live, lanes := lanes,
    ports := k.ports.map fun (e : Nat × BitVec 512) => (e.1, (default : Port).bindTo e.2.toNat) }

/-- A crew of a kernel, without bundles. -/
def Kernel.crew (k : Kernel) (kid : Nat) : Crew :=
  { (default : Crew) with
    acct := k.acct, kid := kid, ver := k.ver, nreg := k.nreg, slines := k.slines, ntiles := k.ntiles, nacc := k.nacc,
    nbundles := k.nbundles }

/-! ### Pigeonholes (Table 02-2) -/

def State.spillHosted (s : State) : Bool := s.funcBit 1
/-- The pigeonhole registered on a die for an entry address. -/
def Die.phOf (d : Die) (e : DWord) : Option Nat := (d.phs.find? fun p => p.2.entry == e).map (·.1)
/-- Records on their way to a pigeonhole. -/
def Die.coming (d : Die) (ph : Nat) : Nat := (d.arriving.filter fun a => a.ph == ph).length

/-- Records of a die that stand, or will stand, in its spill area. -/
def Die.spillUse (d : Die) : Nat :=
  d.phs.foldl (fun a p => a + p.2.spilled.length + (p.2.recs.length + d.coming p.1 - 32)) 0

/-- Whether one more record for a pigeonhole finds room, in hardware mode (R382). -/
def State.phRoom (s : State) (die ph : Nat) : Bool :=
  let d := s.die die
  let p := findD d.phs ph default
  (decide (p.recs.length + d.coming ph < 32) && p.spilled.isEmpty) || decide (d.spillUse < (s.supReg 0x129).toNat / 64)

/-- A record as it stands in a spill area (R382). -/
def TRec.bytes (r : TRec) (entry : DWord) : List Byte :=
  (List.range 8).flatMap (fun i => leBytes (r.words.getD i 0).toNat 4) ++
    packBytes 32 [(96, r.dom), (64, r.share), (0, entry.toNat)]
/-- A record read back from its slot; its order is what the device keeps. -/
def State.spillRec (s : State) (at_ : Nat) (r : TRec) : TRec :=
  { r with words := (List.range 8).map (fun i => BitVec.ofNat 32 (s.mem.readNat (at_ + 4 * i) 4)),
           share := s.mem.readNat (at_ + 40) 4, dom := s.mem.readNat (at_ + 44) 4 % 4096 }

/-- The slot of a die's spill area that a record takes: the lowest free one (DESIGN CHOICE, assumption 44). -/
def State.spillSlot (s : State) (die : Nat) : Nat :=
  let base := (s.supReg 0x128).toNat + die * (s.supReg 0x129).toNat
  let used := (s.die die).phs.flatMap fun p => p.2.spilled.map (·.1)
  (((List.range (used.length + 1)).map fun i => base + 64 * i).find? fun a => !used.contains a).getD base

/-- A record is stored: in the office, or in the spill area. -/
def State.storeRec (s : State) (die ph : Nat) (r : TRec) : State :=
  let d := s.die die
  let p := findD d.phs ph default
  if p.recs.length < 32 ∧ p.spilled.isEmpty then
    let n := p.recs.length + 1
    let p1 := { p with
      recs := p.recs ++ [r],
      due := p.due || decide (p.c ≤ n),
      restart := if p.recs.isEmpty then d.dcyc else p.restart }
    s.setDie die { d with phs := put d.phs ph p1 }
  else
    let at_ := s.spillSlot die
    (s.setDie die { d with phs := put d.phs ph { p with spilled := p.spilled ++ [(at_, r)] } }).storePhysL at_ (r.bytes p.entry)

/-- The lane of a waiting `SPAWN` takes its status and goes on (R309). -/
def State.spawnAnswer (s : State) (a : Arriving) (v : Word) : State :=
  let mine (l : Nat) (w : Why) : Bool := l == a.lane && (match w with
    | .engine (.spill _ _) => true
    | _ => false)
  let dst := (s.bundle a.ref).parked.findSome? fun k => k.waits.findSome? fun w =>
    match w.2 with
    | .engine (.spill d id) => if w.1 = a.lane then some (d, id) else none
    | _ => none
  match dst with
  | none => s
  | some d =>
    let s1 := s.land a.ref d.2 d.1 [(a.lane, [v])]
    s1.setBundle a.ref ((s1.bundle a.ref).release mine fun _ z => z)

/-- A record is accepted. A lane that waited for it gives its share, and goes on with status 0 (R309). -/
def State.accept (s : State) (die : Nat) (a : Arriving) : State :=
  let s1 := s.storeRec die a.ph a.rec_
  if a.answer then (s1.takeShares a.ref [(a.lane, a.rec_.share)]).spawnAnswer a 0 else s1

/-- Host-assisted refusal: status 1, and the lane keeps its share (R309). -/
def State.refuseSpawn (s : State) (a : Arriving) : State := s.spawnAnswer a 1

/-- A lane's place in the order of R35. -/
def Arriving.key (a : Arriving) : Nat := (a.ref.core * 32 + a.ref.bundle) * 32 + a.lane

/-- `PH_RECORD_ARRIVE` (R35, R309): records of one bundle for one pigeonhole keep their order, and those of one die cycle are
stored in ascending core, bundle and lane, so that a record from before one stored in this cycle does not arrive in it. -/
def execPhRecordArrive (die idx : Nat) (s : State) : Out :=
  let d := s.die die
  match d.arriving[idx]? with
  | none => .next s
  | some a =>
    if ((d.arriving.take idx).any fun e => e.ph == a.ph && e.ref == a.ref) ||
        d.lastArr.any (fun t => t.1 == d.dcyc && decide (a.key < t.2)) then .next s
    else
      let s1 := s.setDie die { d with arriving := d.arriving.eraseIdx idx, lastArr := some (d.dcyc, a.key) }
      let full := decide (32 ≤ (findD d.phs a.ph default).recs.length)
      if s.spillHosted && full then .next (s1.refuseSpawn a).wakeSave else .next (s1.accept die a).wakeSave

/-- `PH_TIMER_EXPIRE` (R35): a count of 0 expires at the next die cycle. -/
def execPhTimerExpire (die ph : Nat) (s : State) : Out :=
  let d := s.die die
  match find d.phs ph with
  | none => .next s
  | some p =>
    if p.recs.isEmpty || p.due || !p.spilled.isEmpty || decide (d.dcyc < p.restart + max p.t 1) then .next s
    else .next (s.setDie die { d with phs := put d.phs ph { p with due := true } })

/-- The lane of a formed bundle that takes a record (R36). -/
def recLane (pc : DWord) (r : TRec) : Lane :=
  { (default : Lane) with
    pc := pc, v := r.words.zipIdx.foldl (fun m w => put m w.2 w.1) [], wt := BitVec.ofNat 32 r.share,
    wd := BitVec.ofNat 12 r.dom, mind := (default : Mind).learn 0 r.view }

/-- The crew of one that records form (R11, R36, R355). -/
def State.formCrew (s : State) (p : Pigeon) (rs : List TRec) : Crew :=
  let k := findD s.kernels p.kid default
  let lanes := rs.zipIdx.map fun e => (e.2, recLane p.entry e.1)
  let y := k.bundle (maskOf (lanes.map (·.1))) lanes
  let tags := (List.range 64).map fun i => (i, Tag.general)
  { k.crew p.kid with
    queued := true, lseq := s.nextLseq, agent := s.agentNext, nbundles := 1, bundles := [(0, y.setTags tags)] }

/-- The state of a pigeonhole after a bundle has taken records (Table 02-2). -/
def State.phTaken (s : State) (p : Pigeon) (n dcyc : Nat) : Pigeon :=
  let rest := p.recs.drop n
  let recs := rest ++ (p.spilled.take (32 - rest.length)).map fun e => s.spillRec e.1 e.2
  { p with
    recs := recs,
    spilled := p.spilled.drop (32 - rest.length),
    due := decide (p.c ≤ recs.length),
    restart := if recs.length < p.c then dcyc else p.restart }

/-- Lanes that wait for spill room, oldest first, while there is room (R382). -/
def State.takeSpills (s : State) (die : Nat) : List Arriving → State
  | [] => s
  | a :: r =>
    let waits := (s.die die).spillWait
    let first := (waits.find? fun w => w.ph == a.ph) == some a
    if first && s.phRoom die a.ph then
      State.takeSpills ((s.setDie die { s.die die with spillWait := waits.erase a }).accept die a) die r
    else State.takeSpills s die r

/-- `LINK`s of a die whose repair records had no room execute again. -/
def State.wakeLinks (s : State) (die : Nat) : State :=
  s.cores.foldl (fun s x =>
    if dieOf x.1 = die then (s.bundlesOf x.1).foldl (fun s b => s.resume b fun w => w == .engine .office) s else s) s

/-- `BUNDLE_FORM` (R35, R36, R355): a DUE pigeonhole forms a bundle while the ready queue has a free entry. -/
def execBundleForm (die ph : Nat) (s : State) : Out :=
  let d := s.die die
  match find d.phs ph with
  | none => .next s
  | some p =>
    if !p.due || decide (4096 ≤ d.ready.length) then .next s
    else
      let n := min p.c p.recs.length
      let s1 := s.setDie die { d with
        ready := d.ready ++ [.formed (s.formCrew p (p.recs.take n))],
        phs := put d.phs ph (s.phTaken p n d.dcyc) }
      let s2 := { s1 with nextLseq := s.nextLseq + 1, agentNext := s.agentNext + 1 }
      .next ((s2.takeSpills die d.spillWait).wakeLinks die)

/-! ### The ready queue (R37) -/

/-- The crew of an entry, as it will stand on a core, and its commands. -/
def State.readyCrew (s : State) (e : ReadyEnt) : Crew × SMap (List QEnt) :=
  match e with
  | .formed k => (k, [])
  | .displaced keep _ addr _ cmds =>
    let rd (o n : Nat) : Nat := s.mem.readNat (addr + o) n
    ({ readCrew rd keep with run := .running }, areaCmds rd 0 0 s.opSeq cmds)

/-- The area of an admitted entry is free again. -/
def State.freeArea (s : State) (e : ReadyEnt) : State :=
  match e with
  | .formed _ => s
  | .displaced _ core addr _ _ =>
    let x := s.core core
    s.setCore core { x with disp := x.disp.filter fun u => x.cfg.dispBase.toNat + u.1 != addr }

def Core.takes (x : Core) (k : Crew) : Bool := x.fits k.bundles.length k.rfUse k.slines k.ntiles k.nacc

/-- A core that may ask for an entry. -/
def State.mayPop (s : State) (die core : Nat) : Bool :=
  let x := s.core core
  decide (core < 768) && dieOf core == die && !x.popHeld && x.freeSlot.isSome && decide (x.bundleCount < 64)

/-- Reading the area of an entry. -/
def State.entryRd (s : State) (e : ReadyEnt) : Nat → Nat → Nat :=
  match e with
  | .formed _ => fun _ _ => 0
  | .displaced _ _ addr _ _ => fun o n => s.mem.readNat (addr + o) n

/-- Lanes of a crew that has come back go on waiting for spill room, on the die where it stands now (R382). -/
def State.spillBack (s : State) (core slot : Nat) : State :=
  let k := s.crew core slot
  let die := dieOf core
  let as := k.spills.map fun a => { a with ref := ⟨core, slot, a.ref.bundle⟩ }
  if as.isEmpty then s
  else
    let s1 := s.setCrew core slot { k with spills := [] }
    (s1.setDie die { s1.die die with spillWait := (s1.die die).spillWait ++ as }).takeSpills die as

/-- A displaced or formed crew takes its slot; outside a gang nothing names another crew, so that all its places are its own. -/
def State.standAgain (s : State) (core slot : Nat) (rd : Nat → Nat → Nat) (k : Crew) (qs : SMap (List QEnt)) : State :=
  let here (_ : Nat × Nat) : Nat × Nat := (core, slot)
  let r := s.seat core slot rd (k.move here) qs
  (((r.1.enterAll here r.2).rearm core slot).spillBack core slot).settleQueues core 4096

/-- One core's popped entry: admitted, or returned with the core held from asking again. -/
def State.popOne (s : State) (core : Nat) (e : ReadyEnt) : State × List ReadyEnt :=
  let k := s.readyCrew e
  let x := s.core core
  let rd := s.entryRd e
  match x.freeSlot, x.takes k.1 && x.blocksOpen (areaBlocks rd) with
  | some slot, true => ((s.freeArea e).standAgain core slot rd k.1 k.2, [])
  | _, _ => (s.setCore core { x with popHeld := true }, [e])

def sortNats (l : List Nat) : List Nat :=
  l.foldl (fun a x => (a.filter fun y => decide (y < x)) ++ [x] ++ a.filter fun y => decide (x < y)) []

/-- `READY_QUEUE_POP` (R37): the requests of one die cycle, in ascending core number. -/
def execReadyQueuePop (die : Nat) (cores : List Nat) (s : State) : Out :=
  let d := s.die die
  let ask := (sortNats cores).filter fun c => s.mayPop die c
  let got := ask.zip d.ready
  let s1 := s.setDie die { d with ready := d.ready.drop got.length }
  let r := got.foldl (fun (a : State × List ReadyEnt) g =>
    let q := a.1.popOne g.1 g.2
    (q.1, a.2 ++ q.2)) (s1, [])
  let d1 := r.1.die die
  .next (r.1.setDie die { d1 with ready := r.2 ++ d1.ready })

end Sys2Proof.Machine
end

