-- ==== Sys2Proof/Machine/Barriers.lean ====
section
/-!
DEFINITION. `JOIN`, crew barriers and gang barriers: when they release (R41-R43, R263, R264, R314).
-/

namespace Sys2Proof.Machine

/-! ### JOIN -/

/-- Where each lane parked at a `JOIN` stands. -/
def Bundle.joins (y : Bundle) : List (Nat × DWord) :=
  y.parked.flatMap fun k => (k.waits.filter fun w => w.2 == .join).map fun w => (w.1, k.pc)

/-- R41-R43: once every live lane is parked at some `JOIN`, those at the lowest address go on; when all stand at one
address this is its own release. -/
def Bundle.joinCheck (y : Bundle) : Bundle :=
  let js := y.joins
  let live := lanesOf y.live
  if live.isEmpty || !live.all (fun l => js.any fun j => j.1 == l) then y
  else
    let low := js.foldl (fun a j => min a j.2.toNat) (2 ^ 64)
    y.release (fun l w => w == .join && js.any fun j => j.1 == l && j.2.toNat == low) (fun _ z => z)

/-! ### Barriers -/

/-- Whether a live lane stands at a wait that `p` accepts. -/
def Bundle.standsAt (y : Bundle) (p : Why → Bool) (l : Nat) : Bool :=
  y.parked.any fun k => k.waits.any fun w => w.1 == l && p w.2
def Bundle.allAt (y : Bundle) (p : Why → Bool) : Bool := (lanesOf y.live).all (y.standsAt p)
def Bundle.someAt (y : Bundle) (p : Why → Bool) : Bool := (lanesOf y.live).any (y.standsAt p)
def Crew.allAt (k : Crew) (p : Why → Bool) : Bool := k.bundles.all fun e => e.2.allAt p
def Crew.someAt (k : Crew) (p : Why → Bool) : Bool := k.bundles.any fun e => e.2.someAt p

/-- One step of a barrier's combination (R264). -/
def cbarStep (op : CbarOp) (t : ATy) (r a : Word) : Word :=
  match op with
  | .none => r
  | .add => if t = .f32 then BitVec.ofNat 32 (rneAdd r.toNat a.toNat) else r + a
  | .min => if r.sle a then r else a
  | .max => if a.sle r then r else a
  | .and => r &&& a
  | .or => r ||| a

/-- Arrivals in ascending (bundle, lane) order. -/
def Arrival.key (a : Arrival) : Nat := 32 * a.bundle + a.lane
def insertArrival (a : Arrival) : List Arrival → List Arrival
  | [] => [a]
  | b :: r => if a.key < b.key then a :: b :: r else b :: insertArrival a r
def sortArrivals (l : List Arrival) : List Arrival := l.foldl (fun acc a => insertArrival a acc) []

/-- The payload of a barrier (R264): the operation in force is that of the first arrival that carries one. -/
def barrierPayload (l : List Arrival) : Word :=
  match l.filter fun a => a.op != .none with
  | [] => 0
  | a :: rest => rest.foldl (fun r b => cbarStep a.op a.ty r b.a) a.a

/-- The payload is written for the lanes that arrived with an operation, those of one course together (R264). -/
def State.deliverBarrier (s : State) (core slot : Nat) (r : Word) (l : List Arrival) : State :=
  ((l.map Arrival.id).eraseDups).foldl (fun s i =>
    match l.filter fun a => a.id == i with
    | [] => s
    | a :: rest => s.land ⟨core, slot, a.bundle⟩ i a.dst ((a :: rest).map fun a => (a.lane, [r]))) s

/-- The live lanes of a crew that stand at a wait that `p` accepts. -/
def Crew.standing (k : Crew) (p : Why → Bool) : List (Nat × Nat) :=
  k.bundles.flatMap fun e => ((lanesOf e.2.live).filter (e.2.standsAt p)).map fun l => (e.1, l)

/-- Whether accesses that lanes of a crew made before they arrived are still outstanding (R111). -/
def State.standOwes (s : State) (core slot : Nat) (p : Why → Bool) : Bool :=
  ((s.crew core slot).standing p).any fun e =>
    s.owes ⟨core, slot, e.1⟩ (s.unsOf ⟨core, slot, e.1⟩ [e.2]) s.opSeq

/-- What happens before a release of the lanes of a crew that stand at it (R111). -/
def State.standView (s : State) (core slot : Nat) (p : Why → Bool) : View :=
  ((s.crew core slot).standing p).foldl (fun (v : View) e => v.join (s.before ⟨core, slot, e.1⟩ e.2 s.opSeq)) []

/-- The lanes of a crew that stand at a wait go on, each having acquired `v`. -/
def State.letGo (s : State) (core slot : Nat) (p : Why → Bool) (v : View) : State :=
  let k := s.crew core slot
  s.setCrew core slot { k with bundles := k.bundles.map fun e => (e.1, e.2.release (fun _ w => p w) fun _ z =>
    { z with mind := z.mind.learn s.opSeq v }) }

/-- R263, R111: barrier `id` of a crew releases when every live lane of the crew stands at it and has performed what it did
before. -/
def State.cbarCheck (s : State) (core slot id : Nat) : State :=
  let k := s.crew core slot
  let p : Why → Bool := fun w => w == .barrier id
  if k.allAt p && k.someAt p && !s.standOwes core slot p then
    let as := sortArrivals (findD k.barriers id [])
    let v := s.standView core slot p
    let s1 := s.deliverBarrier core slot (barrierPayload as) (as.filter fun a => a.op != .none)
    let k1 := s1.crew core slot
    (s1.setCrew core slot { k1 with barriers := del k1.barriers id }).letGo core slot p v
  else s

/-- The crews over which a crew's gang barriers act: its gang, or itself (R314). -/
def State.gangCrews (s : State) (core slot : Nat) : List (Nat × Nat) :=
  match (s.crew core slot).gang with
  | some g => (findD s.gangs g default).members.map fun e => e.2
  | none => [(core, slot)]

/-- Whether a crew of a gang is saved, so that its lanes cannot be looked at (R377). -/
def State.gangAway (s : State) (core slot : Nat) : Bool :=
  match (s.crew core slot).gang with
  | some g => !(findD s.gangs g default).saved.isEmpty
  | none => false

/-- R314, R111: a gang barrier releases when every live lane of every crew of the gang stands at it and has performed what it
did before. -/
def State.gbarCheck (s : State) (core slot id : Nat) : State :=
  let ms := s.gangCrews core slot
  let p : Why → Bool := fun w => w == .gbar id
  if !s.gangAway core slot && ms.all (fun m => (s.crew m.1 m.2).allAt p) &&
      ms.any (fun m => (s.crew m.1 m.2).someAt p) && !ms.any fun m => s.standOwes m.1 m.2 p then
    let v := ms.foldl (fun (v : View) m => v.join (s.standView m.1 m.2 p)) []
    ms.foldl (fun s m => s.letGo m.1 m.2 p v) s
  else s

/-- A lane has left a live set, a bundle has retired, or accesses have been performed: every barrier of its crew and gang is looked at again. -/
def State.leaveCheck (s : State) (core slot : Nat) : State :=
  (List.range 8).foldl (fun s id => (s.cbarCheck core slot id).gbarCheck core slot id) s

end Sys2Proof.Machine
end

