-- ==== Sys2Proof/Machine/Sync.lean ====
section
/-!
DEFINITION. Class 0x6, atomics and synchronisation (Table 14-4, R258-R266), all but `QFENCE`: one meaning for each form.
-/

namespace Sys2Proof.Machine

/-- Bytes of an atomic type. -/
def atomBytes (t : ATy) : Nat := 4 * t.regs

/-- R54: the lanes of a deterministic launch whose atomic traps DETVIOL. -/
def State.detBad (s : State) (act : List Nat) (bad : Nat → Bool) : Res Unit :=
  let ls := act.filter bad
  if s.curCrew.det && !ls.isEmpty then .error (trapLanes ls 0x0E 0) else .ok ()

/-- R85, R260: an atomic or receipt word that is not naturally aligned. -/
def alignCheck (as : List (Nat × Nat)) (n : Nat) (global : Bool) : Res Unit :=
  let bad := as.filter fun a => a.2 % n != 0
  match bad with
  | a :: _ =>
    .error (.trap (maskOf (bad.map (·.1)))
      ⟨4, BitVec.ofNat 32 a.2, 0, if global then BitVec.ofNat 32 (bits a.2 55 32) else 0, 0⟩)
  | [] => .ok ()

/-- What one lane's atomic makes of the value it finds: the new value, or nothing written. -/
abbrev AtomStep := LIn → Nat → Option Nat

def opStep (op : AtomOp) (t : ATy) : AtomStep := fun e old => some (atomNew op t old (e.b.toNat % 2 ^ (32 * t.regs)))
def casStep (t : ATy) : AtomStep := fun e old =>
  if old = e.b.toNat % 2 ^ (32 * t.regs) then some (e.c.toNat % 2 ^ (32 * t.regs)) else none

/-- One lane's atomic: an indivisible read and write of one part, as operation `n` (R96, R258). -/
def State.atomPart (s : State) (n : Nat) (p : Part) (f : List Byte → Option (List Byte)) : State × List Byte :=
  (if (f ((s.partCur p).map (·.2))).isSome then s.wrotePart p else s).updatePart s.ref n p f

/-- Atomics of `w` bytes applied in ascending lane order: the state after, and the value each lane found. -/
def State.applyParts (s : State) (n w : Nat) (step : AtomStep) : List (LIn × Part) → State × List (Nat × List Byte)
  | [] => (s, [])
  | (e, p) :: r =>
    let a := s.atomPart n p fun old => (step e (leNat old)).map fun v => leBytes v w
    let q := State.applyParts a.1 n w step r
    (q.1, (e.lane, a.2) :: q.2)

/-- The pops of an instruction and the check of its addresses, in the order of Table 02-5: an address that no pop supplies is
misaligned whether or not the pops can be made. -/
def State.takeAligned (s : State) (i : Instr) (x : Args) (sgn : Bool) (n : Nat) (global : Bool) (ea : LIn → Nat) : Res (Taken × List LIn) :=
  let sh := i.shape.getD default
  let act := s.act x
  let r := s.take s.ref sh x act
  let t := match r with
    | .ok t => t
    | .error _ => ⟨[], none⟩
  let ins := act.map (s.laneIn s.ref t sh x sgn act)
  let popped := match x.a with
    | .q _ | .peek _ => true
    | _ => false
  let known := !popped || (match r with
    | .ok _ => true
    | .error _ => false)
  match if known then alignCheck (ins.map fun e => (e.lane, ea e)) n global else .ok () with
  | .error e => .error e
  | .ok _ => r.map fun t => (t, ins)

/-- The words of a lane among atomics' results. -/
def wordsFound (rs : List (Nat × List Byte)) (l : Nat) : List Word :=
  loadWords false (((rs.find? fun e => e.1 == l).map (·.2)).getD [])

/-- Atomics with a result whose checks have passed are performed at issue (DEDUCED, assumption 7). A result for registers
returns later where `later` says so. -/
def State.finishAtom (s : State) (sh : Shape) (x : Args) (tk : Taken) (act : List Nat) (es : List Tlb) (w : Nat) (step : AtomStep)
    (ops : List (LIn × Part)) (later : Option (Option AtomOp × ATy)) : Out :=
  let b := s.ref
  let tags := dstTags act x.d sh.d.regs (fun _ _ => .general) fun _ => []
  let run (s : State) : State × List (Nat × List Byte) :=
    let r := ((((s.commitPops b act tk).fillUsed b.core es).giveTags b tags).noteOp act true true).applyParts s.opSeq w step ops
    ({ r.1 with opSeq := max r.1.opSeq (s.opSeq + 1) }, r.2)
  if act.isEmpty then .next ((s.commitPops b act tk).finish x true)
  else
    s.pushOr x act sh.d.regs (wordsFound (run s).2) fun _ =>
      s.withRoom x act tags fun s0 =>
        let r := run s0
        match later with
        | some (op, t) =>
          if pushes x act then .next ((r.1.writeDst b x tk act sh.d.regs (wordsFound r.2)).finish x false)
          else if x.d = .zero then .next (r.1.finish x true)
          else
            let p : Pend := ⟨s0.opSeq, b, .atom op t, [], x.d, x.sched.setw, (r.1.core b.core).cyc, r.2.map (fun e => (e.1, 0, e.2)), []⟩
            .next (((r.1.addPend b.core p).markPend b act x.d sh.d.regs).finish x false)
        | none => .next ((r.1.writeDst b x tk act sh.d.regs (wordsFound r.2)).finish x (!pushes x act))

/-- The whole of a global atomic with a result (R194, R258-R260). The poison is looked for once the lane's own earlier writes
have been performed. -/
def State.atomG (s : State) (i : Instr) (x : Args) (o : Order) (t : ATy) (op : Option AtomOp) (ea : LIn → Nat) (step : AtomStep) :
    Out :=
  let act := s.act x
  let n := atomBytes t
  match s.detBad act fun _ => true with
  | .error e => s.settle x (.error e)
  | .ok _ =>
    match s.takeAligned i x (litSext .b64) n true ea with
    | .error e => s.settle x (.error e)
    | .ok (tk, ins) =>
      match s.xlateAll s.ref .atomic (ins.map fun e => (e.lane, ea e, n)) with
      | .error e => s.settle x (.error e)
      | .ok xs =>
        let ops := (ins.zip xs).flatMap fun e =>
          (e.2.2.parts e.1.lane n true true o (s.relOf e.1.lane) (s.unOf e.1.lane) []).map fun p => (e.1, p)
        match firstOf [s.awaitParts (ops.map (·.2)), s.refetchWait xs] with
        | .error e => s.settle x (.error e)
        | .ok _ =>
          let pois := xs.filter fun e => e.2.cells.any s.cellPoison
          if !pois.isEmpty then s.settle x (.error (trapLanes (pois.map (·.1)) 6 0))
          else s.finishAtom (i.shape.getD default) x tk act (xs.flatMap fun e => e.2.es) n step ops (some (op, t))

/-- The whole of a scratchpad atomic; its result is written at issue (DESIGN CHOICE, assumption 8). -/
def State.atomS (s : State) (i : Instr) (x : Args) (o : Order) (t : ATy) (ea : LIn → Word) (step : AtomStep) : Out :=
  let act := s.act x
  let n := atomBytes t
  let away (e : LIn) : Bool := (ea e).getLsbD 24 && bits (ea e).toNat 23 20 != s.curCrew.grank
  let far := act.filter fun l => away (s.laneIn s.ref (match s.take s.ref (i.shape.getD default) x act with
    | .ok t => t
    | .error _ => ⟨[], none⟩) (i.shape.getD default) x (litSext .b64) act l)
  match s.detBad act far.contains with
  | .error e => s.settle x (.error e)
  | .ok _ =>
    match s.takeAligned i x (litSext .b64) n false fun e => (ea e).toNat with
    | .error e => s.settle x (.error e)
    | .ok (tk, ins) =>
      match s.scrAll s.ref true (ins.map fun e => (e.lane, ea e, n)) with
      | .error e => s.settle x (.error e)
      | .ok ts =>
        let ops := (ins.zip ts).flatMap fun e =>
          (s.scrParts e.1.lane e.2.2.1 e.2.2.2.1 e.2.2.2.2 n o (s.relOf e.1.lane) (s.unOf e.1.lane) []).map fun p => (e.1, p)
        match s.awaitParts (ops.map (·.2)) with
        | .error e => s.settle x (.error e)
        | .ok _ => s.finishAtom (i.shape.getD default) x tk act [] n step ops none

/-- `ATOMG` (R258, R260). -/
def execAtomg (op : AtomOp) (t : ATy) (o : Order) (off : BitVec 28) (x : Args) (s : State) : Out :=
  s.atomG (.atomg op t o off x) x o t (some op) (fun e => gEa e.a (off.signExtend 32)) (opStep op t)

/-- `ATOMS` (R258, R260). -/
def execAtoms (op : AtomOp) (t : ATy) (o : Order) (off : BitVec 20) (x : Args) (s : State) : Out :=
  s.atomS (.atoms op t o off x) x o t (fun e => sEa e.a off) (opStep op t)

/-- `CASG` (R259, R260). -/
def execCasg (t : ATy) (o : Order) (off : Word) (x : Args) (s : State) : Out :=
  s.atomG (.casg t o off x) x o t none (fun e => gEa e.a off) (casStep t)

/-- `CASS` (R259, R260). -/
def execCass (t : ATy) (o : Order) (off : BitVec 20) (x : Args) (s : State) : Out :=
  s.atomS (.cass t o off x) x o t (fun e => sEa e.a off) (casStep t)

/-- `REDG` (R258, R260): outstanding until it is applied; in a deterministic launch FP32 addition is buffered until
the launch ends (R55). -/
def execRedg (op : AtomOp) (t : ATy) (o : Order) (off : BitVec 28) (x : Args) (s : State) : Out :=
  let i : Instr := .redg op t o off x
  let act := s.act x
  let n := atomBytes t
  let ea (e : LIn) : Nat := gEa e.a (off.signExtend 32)
  let buffered := s.curCrew.det && op == .add && t == .f32
  match s.detBad act fun _ => !buffered with
  | .error e => s.settle x (.error e)
  | .ok _ =>
    match s.takeAligned i x false n true ea with
    | .error e => s.settle x (.error e)
    | .ok (tk, ins) =>
      match s.xlateAll s.ref .atomic (ins.map fun e => (e.lane, ea e, n)) with
      | .error e => s.settle x (.error e)
      | .ok xs =>
        let b := s.ref
        let k := s.curCrew
        let s1 := (s.commitPops b act tk).fillUsed b.core (xs.flatMap fun e => e.2.es)
        if act.isEmpty then .next (s1.finish x true)
        else if buffered then
          let adds := (ins.zip xs).map fun e =>
            (⟨k.lseq, k.replica, k.grank, b.bundle, e.1.lane, e.2.2.cells.headD 0, BitVec.ofNat 32 (e.1.b.toNat % 2 ^ 32)⟩ : DetAdd)
          .next ({ s1 with detBuf := s1.detBuf ++ adds }.finish x true)
        else
          let ps := (ins.zip xs).flatMap fun e =>
            e.2.2.parts e.1.lane n true true o (s.relOf e.1.lane) (s.unOf e.1.lane) (leBytes e.1.b.toNat n)
          .next (((s1.noteOp act true true).startPend s.opSeq (.redg op t) ps .none x.sched.setw).finish x false)

/-! ### `FENCE` (R99, R101, R104, R261) -/

/-- A lane's fence as operation `n`: `.rel` and `.ar` make its next store or atomic a release; a fence of scope .sys, of any
kind, covers its UN accesses. -/
def Mind.fence (m : Mind) (o : Order) (n unAuthor : Nat) : Mind :=
  let m1 := if o.kind = .rel ∨ o.kind = .ar then { m with relNext := scopeMax m.relNext (some o.scope) } else m
  if o.scope = .sys then { m1.learn n [(unAuthor, n)] with un := n } else m1

/-- The lane's last load or atomic becomes an acquire: the parts of it that are outstanding, and what it has read. -/
def State.fenceAcq (s : State) (b : BRef) (lane : Nat) (c : Scope) : State :=
  match (s.lane b lane).mind.last with
  | none => s
  | some (i, rs) =>
    let x := s.core b.core
    let s1 := s.setCore b.core { x with pend := x.pend.map fun p =>
      if p.ref == b && p.id == i then { p with parts := p.parts.map fun a =>
        if a.lane = lane then { a with acq := scopeMax a.acq (some c) } else a } else p }
    s1.syncWith b lane i (some c) rs

/-- `FENCE` (R261): it does not wait. A `.ar` stands among the lanes' accesses, and takes its place in the fence order when those
before it have been performed (DEDUCED, assumption 7). A fence is an ordering point at which POISON is taken (R182). -/
def execFence (o : Order) (x : Args) (s : State) : Out :=
  let act := s.act x
  let b := s.ref
  let n := s.opSeq
  if act.isEmpty then .next (s.finish x true)
  else
    let s1 := s.mapLanes b act fun l z => { z with mind := z.mind.fence o n (laneAuthor (s.agentOf b) b.bundle l true) }
    let s2 := if o.kind = .acq ∨ o.kind = .ar then act.foldl (fun s l => s.fenceAcq b l o.scope) s1 else s1
    let ps := act.map fun l => (⟨l, 0, [], [], 0, 1, .rc, false, some o.scope, some o.scope, s2.unOf l, none⟩ : Part)
    let s3 := if o.kind = .ar then (s2.startPend n (.fence o.scope) ps .none 15).passOwnFences b.core 64
      else { s2 with opSeq := n + 1 }
    .next ((s3.finish x true).orderPoint b.core b.slot)

/-! ### `CBAR` (R263, R264) -/

def execCbar (op : CbarOp) (t : ATy) (x : Args) (s : State) : Out :=
  let sh := (Instr.cbar op t x).shape.getD default
  let act := s.act x
  let bar := if x.b = .imm then x.lit.toNat else 0
  match s.take s.ref sh x act with
  | .error e => s.settle x (.error e)
  | .ok tk =>
    s.pushOr x act 1 (fun _ => [0]) fun _ =>
      let tags := dstTags act x.d sh.d.regs (fun _ _ => .general) fun _ => []
      s.withRoom x act tags fun s0 =>
        let b := s.ref
        let n := s0.opSeq
        let arrivals := act.map fun l => (⟨n, b.bundle, l, op, t, (s.rd b tk x false 1 l x.a).setWidth 32, x.d⟩ : Arrival)
        let s1 := (s0.commitPops b act tk).giveTags b tags
        let s2 := match x.d with
          | .q q => s1.commitPushOf b q.val 4 act act (tk.push.getD ⟨[], []⟩) x.sched.setw act fun _ => 0
          | _ => s1
        let k := s2.crew b.core b.slot
        let s3 := { s2.setCrew b.core b.slot { k with barriers := put k.barriers bar (findD k.barriers bar [] ++ arrivals) } with
          opSeq := max s2.opSeq (n + 1) }
        .next ((s3.parkOwed x (act.map fun l => (l, .barrier bar)) (pushes x act)).cbarCheck b.core b.slot bar)

/-! ### Receipt words (R265, R266) -/

/-- The pops and the checks of R265 on receipt words: where they lie; and the update waits for what the lanes have outstanding
before it. -/
def State.receipts (s : State) (i : Instr) (x : Args) : Res (Taken × List (LIn × Nat × Nat × Nat)) :=
  match s.takeAligned i x false 8 false fun e => ux 32 e.a with
  | .error e => .error e
  | .ok (tk, ins) =>
    match s.scrAll s.ref true (ins.map fun e => (e.lane, e.a.setWidth 32, 8)) with
    | .error e => .error e
    | .ok ts =>
      (s.awaitParts (ts.flatMap fun e => s.scrParts e.1 e.2.1 e.2.2.1 e.2.2.2 8 plain none (s.unOf e.1) [])).map fun _ =>
        (tk, (ins.zip ts).map fun e => (e.1, e.2.2))

/-- `EXPECT` on one lane's word, or nothing where its count would pass the limit (R88). -/
def State.expect1 (s : State) (c k off n : Nat) : Option State :=
  let w := s.rw c k off
  if rwMax < rwExpected w + n then none
  else if n = 0 then some s
  else some (s.rwSet c k off (rwMatch (rwMake (rwArrived w) (rwExpected w + n) (rwGen w))))

/-- `EXPECT` in ascending lane order: what results, and the lanes whose word would pass the limit. A word that one lane
would take past it stays past it for the lanes behind (R265). -/
def State.expectAll (s : State) (past : List (Nat × Nat × Nat)) : List (LIn × Nat × Nat × Nat) → State × List Nat
  | [] => (s, [])
  | (e, c, k, off) :: r =>
    match if past.contains (c, k, off) then none else s.expect1 c k off (ux 32 e.b) with
    | none =>
      let q := s.expectAll ((c, k, off) :: past) r
      (q.1, e.lane :: q.2)
    | some s1 => s1.expectAll past r

/-- `EXPECT` (R265). -/
def execExpect (x : Args) (s : State) : Out :=
  match s.receipts (.expect x) x with
  | .error e => s.settle x (.error e)
  | .ok (tk, ts) =>
    let q := (s.commitPops s.ref (s.act x) tk).expectAll [] ts
    match q.2 with
    | l :: ls =>
      s.settle x (.error (trapLanes (l :: ls) 0x0A (((ts.find? fun e => e.1.lane == l).map fun e => e.1.a.setWidth 32).getD 0)))
    | [] => .next (q.1.finish x true)

/-- `ARRIVE` (R265): a release at .gang, then one arrival for each lane. -/
def execArrive (x : Args) (s : State) : Out :=
  let act := s.act x
  match s.receipts (.arrive x) x with
  | .error e => s.settle x (.error e)
  | .ok (tk, ts) =>
    match s.awaitOwn act with
    | .error e => s.settle x (.error e)
    | .ok _ =>
      let s1 := s.commitPops s.ref act tk
      let s2 := ts.foldl (fun s e =>
        (s.rwAdd e.2.1 e.2.2.1 e.2.2.2 (s.released s.ref [e.1.lane] s.opSeq)).arrive e.2.1 e.2.2.1 e.2.2.2 (ux 32 e.1.b)) s1
      .next (s2.finish x true)

/-- `WAITR` (R266): each lane waits by itself, unless GEN already differs, when it acquires at once. -/
def execWaitr (x : Args) (s : State) : Out :=
  let act := s.act x
  match s.receipts (.waitr x) x with
  | .error e => s.settle x (.error e)
  | .ok (tk, ts) =>
    let gen (e : LIn × Nat × Nat × Nat) : BitVec 16 := e.1.b.setWidth 16
    let held (e : LIn × Nat × Nat × Nat) : Bool := rwGen (s.rw e.2.1 e.2.2.1 e.2.2.2) == (gen e).toNat
    let ws := (ts.filter held).map fun e => (e.1.lane, Why.receipt e.2.1 e.2.2.1 e.2.2.2 (gen e))
    let s1 := (ts.filter fun e => !held e).foldl (fun s e =>
      s.learn s.ref e.1.lane s.opSeq (findD (s.crew e.2.1 e.2.2.1).rwView e.2.2.2 ([], [])).2) (s.commitPops s.ref act tk)
    let s2 := s1.parkTaken tk x ws
    .next (if ws.isEmpty && !act.isEmpty then s2.orderPoint s.cur.core s.cur.slot else s2)

end Sys2Proof.Machine
end

