-- ==== Sys2Proof/Machine/Tasks.lean ====
section
/-!
DEFINITION. Class 0xC, tasks and quiescence (Table 16-11, R309-R313): one meaning for each form.
-/

namespace Sys2Proof.Machine

/-! ### `SPAWN` (R33, R36, R309) -/

/-- The lanes of a `SPAWN`, in order, each placed at once or left to wait: records, each with what its lane releases to the lane
that it becomes, and the lanes that wait. -/
def State.spawnLanes (s : State) (x : Args) (t : Taken) (ls : List (Nat × Nat × Nat)) : State × List Nat :=
  let die := dieOf s.cur.core
  ls.foldl (fun (a : State × List Nat) e =>
    let s := a.1
    let d := s.die die
    let r : TRec := ⟨s.rdGroup s.ref t 8 e.1 x.a, e.2.1, (s.lane s.ref e.1).wd.toNat, s.released s.ref [e.1] s.opSeq⟩
    if s.spillHosted then
      (s.setDie die { d with arriving := d.arriving ++ [⟨s.ref, e.1, e.2.2, r, true⟩] }, a.2 ++ [e.1])
    else if s.phRoom die e.2.2 && !d.spillWait.any (fun w => w.ph == e.2.2) then
      ((s.takeShares s.ref [(e.1, e.2.1)]).setDie die { d with arriving := d.arriving ++ [⟨s.ref, e.1, e.2.2, r, false⟩] }, a.2)
    else
      (s.setDie die { d with spillWait := d.spillWait ++ [⟨s.ref, e.1, e.2.2, r, true⟩] }, a.2 ++ [e.1])) (s, [])

/-- The end of a `SPAWN` whose checks have passed: records are offered, and each lane's status is written now, or when its record
is taken; a port takes the statuses in one entry (R144, R309). -/
def State.offer (s : State) (x : Args) (t : Taken) (act : List Nat) (tags : List (Nat × Tag)) (ls : List (Nat × Nat × Nat)) :
    State :=
  let b := s.ref
  let id := s.opSeq
  let r := (s.commitPops b act t).spawnLanes x t ls
  let placed := act.filter fun l => !r.2.contains l
  let s1 := r.1.giveTags b tags
  let s2 := match x.d with
    | .q n => s1.commitPushOf b n.val 4 act act (t.push.getD ⟨[], []⟩) x.sched.setw r.2 fun _ => 0
    | _ => { s1.writeDst b x t placed 1 fun _ => [0] with opSeq := id + 1 }
  if r.2.isEmpty then s2.finish x (!pushes x act)
  else s2.parkOwed x (r.2.map fun l => (l, .engine (.spill x.d id))) (pushes x act)

/-- `SPAWN` (R309): a release of each lane's earlier accesses. -/
def execSpawn (x : Args) (s : State) : Out :=
  let sh := (Instr.spawn x).shape.getD default
  let act := s.act x
  match s.detBad act fun _ => true with
  | .error e => s.settle x (.error e)
  | .ok _ =>
    match s.take s.ref sh x act with
    | .error e => s.settle x (.error e)
    | .ok t =>
      let entry (l : Nat) : DWord := s.rd s.ref t x false 2 l x.b
      let ph (l : Nat) : Option Nat := (s.die (dieOf s.cur.core)).phOf (entry l)
      match act.filter fun l => (ph l).isNone with
      | l :: r => s.settle x (.error (.trap (maskOf (l :: r)) (segvInfo (entry l).toNat 0)))
      | [] =>
        s.pushOr x act 1 (fun _ => [0]) fun _ =>
          match s.awaitOwn act with
          | .error e => s.settle x (.error e)
          | .ok _ =>
            let shares := act.map fun l => (l, shareOf (s.opVal t x 1 l x.c))
            let low := s.short s.ref shares
            if !low.isEmpty then .next (s.awaitWeight x low)
            else
              let tags := dstTags act x.d 1 (fun _ _ => .general) fun _ => []
              s.withRoom x act tags fun s1 =>
                if act.isEmpty then .next (s1.finish x true)
                else .next (s1.offer x t act tags (shares.map fun e => (e.1, e.2, (ph e.1).getD 0)))

/-! ### `SPLITW` and `RETW` (R128, R310, R133) -/

/-- What a lane returns to its root before its operation `n` covers (R131). -/
def State.covers (s : State) (b : BRef) (l : Nat) : View := s.released b [l] s.opSeq

/-- One lane's transfer: the state after, and the amount that reached the receiver. -/
def State.split1 (s : State) (b : BRef) (l share dest : Nat) : State × Nat :=
  let z := s.lane b l
  let y := s.bundle b
  let q := y.lane dest
  let s1 := s.takeShares b [(l, share)]
  if !y.live.getLsbD dest || q.wd != z.wd || dest == l then (s1.giveBack z.wd.toNat share (s.covers b l), 0)
  else
    let got := min share (2 ^ 32 - 1 - q.wt.toNat)
    ((s1.mapLanes b [dest] fun _ w => { w with wt := w.wt + BitVec.ofNat 32 got }).giveBack z.wd.toNat (share - got)
      (s.covers b l), got)

/-- All lanes in ascending order, each seeing the earlier steps: the amounts that reached receivers, and the lanes that are short
at their turn, whose steps are taken as they will be once their borrows are granted (R128). -/
def State.splitAll (s : State) (b : BRef) : List (Nat × Nat × Nat) → State × List (Nat × Nat) × List (Nat × Nat)
  | [] => (s, [], [])
  | (l, share, dest) :: r =>
    let low := decide ((s.lane b l).wt.toNat ≤ share)
    let s0 := if low then s.mapLanes b [l] fun _ z => { z with wt := BitVec.ofNat 32 (share + 1) } else s
    let p := s0.split1 b l share dest
    let q := State.splitAll p.1 b r
    (q.1, (l, p.2) :: q.2.1, if low then (l, share) :: q.2.2 else q.2.2)

/-- Results computed with the pops already checked: destination, tags and storage as for any lane result. -/
def State.giveResults (s : State) (sh : Shape) (x : Args) (t : Taken) (act : List Nat) (outs : List (Nat × LOut))
    (after : State → State) : Out :=
  let tags := dstTags act x.d sh.d.regs (fun _ _ => .general) fun _ => []
  s.pushOr x act sh.d.regs (fun l => wordsOf sh.d.regs (outOf outs l).val) fun _ =>
    s.withRoom x act tags fun s1 => .next ((after s1).commit sh x t act tags outs 0)

/-- `SPLITW` (R310): a lane whose weight goes back to its root releases its earlier accesses (R131). -/
def execSplitw (x : Args) (s : State) : Out :=
  let sh := (Instr.splitw x).shape.getD default
  let act := s.act x
  match s.take s.ref sh x act with
  | .error e => s.settle x (.error e)
  | .ok t =>
    let ls := act.map fun l => (l, shareOf (s.opVal t x 1 l x.a), s.opVal t x 1 l x.b % 32)
    let r := s.splitAll s.ref ls
    if !r.2.2.isEmpty then .next (s.awaitWeight x r.2.2)
    else
      match s.awaitOwn ((ls.filter fun e => !r.2.1.contains (e.1, e.2.1)).map (·.1)) with
      | .error e => s.settle x (.error e)
      | .ok _ =>
        s.giveResults sh x t act (r.2.1.map fun e => (e.1, ({ val := BitVec.ofNat 64 e.2 } : LOut))) fun s1 =>
          (s1.splitAll s.ref ls).1

/-- `RETW` (R310): a release, then the amount goes back at once. -/
def execRetw (x : Args) (s : State) : Out :=
  let sh := (Instr.retw x).shape.getD default
  let act := s.act x
  match s.take s.ref sh x act with
  | .error e => s.settle x (.error e)
  | .ok t =>
    let amts := act.map fun l => (l, min (s.opVal t x 1 l x.a) ((s.lane s.ref l).wt.toNat - 1))
    match s.awaitOwn ((amts.filter fun e => e.2 != 0).map (·.1)) with
    | .error e => s.settle x (.error e)
    | .ok _ =>
      s.giveResults sh x t act (amts.map fun e => (e.1, ({ val := BitVec.ofNat 64 e.2 } : LOut))) fun s1 =>
        amts.foldl (fun s e => s.giveBack (s.lane s.ref e.1).wd.toNat e.2 (s.covers s.ref e.1)) (s1.takeShares s.ref amts)

/-- SEGV for a number that names no domain (Table 16-11). -/
def domTrap (ls : List (Nat × Nat)) : Res Unit :=
  match ls.filter fun e => decide (4096 ≤ e.2) with
  | [] => .ok ()
  | e :: r => .error (trapLanes ((e :: r).map (·.1)) 5 (BitVec.ofNat 32 e.2))

/-- PRIV in the lanes that may not act on their domain. -/
def privTrap (ls : List (Nat × Nat)) (bad : Nat → Bool) : Res Unit :=
  match ls.filter fun e => decide (e.2 < 4096) && bad e.2 with
  | [] => .ok ()
  | e :: r => .error (trapLanes ((e :: r).map (·.1)) 3 0)

/-- The domains that a form's lanes name, once PRIV, its pops and the numbers are checked (Table 02-5): a number that no pop
supplies is judged whether or not the pops can be made. `bad` are the domains on which it traps PRIV. -/
def State.withDoms (s : State) (i : Instr) (x : Args) (bad : Nat → Bool) (k : Taken → List (Nat × Nat) → Out) : Out :=
  let act := s.act x
  let r := s.take s.ref (i.shape.getD default) x act
  let named (t : Taken) : List (Nat × Nat) := act.map fun l => (l, s.opVal t x 1 l x.a)
  let popped := match x.a with
    | .q _ | .peek _ => true
    | _ => false
  match r with
  | .ok t =>
    match firstOf [privTrap (named t) bad, domTrap (named t)] with
    | .error e => s.settle x (.error e)
    | .ok _ => k t (named t)
  | .error e =>
    match if popped then .ok () else firstOf [privTrap (named ⟨[], none⟩) bad, domTrap (named ⟨[], none⟩)] with
    | .error g => s.settle x (.error (g.join e))
    | .ok _ => s.settle x (.error e)

/-- `RETW.sv` (R133, R310): one return message, whatever the amount, which releases the lane's earlier accesses (R131). -/
def execRetwSv (x : Args) (s : State) : Out :=
  s.withDoms (.retwSv x) x (fun _ => false) fun t ds =>
    match s.awaitOwn (s.act x) with
    | .error e => s.settle x (.error e)
    | .ok _ =>
      let s1 := s.commitPops s.ref (s.act x) t
      .next ((ds.foldl (fun s1 e => s1.toRoot .ret e.2 (s.opVal t x 2 e.1 x.b) ⟨0, 0, 0⟩ 0 (s.covers s.ref e.1)) s1).finish x true)

/-! ### Domain forms (R311) -/

/-- `WAITQ` (R134, R311): an ordering point (R182). -/
def execWaitq (x : Args) (s : State) : Out :=
  s.withDoms (.waitq x) x (fun _ => false) fun t ds =>
    let s1 := ds.foldl (fun s1 e => s1.toRoot .arm e.2 0 s.ref e.1 []) (s.commitPops s.ref (s.act x) t)
    .next (s1.parkTaken t x (ds.map fun e => (e.1, .quiet e.2 x.d)))

/-- The status of an open or a close in each lane, applied in lane order at hardware roots. -/
def State.applyAll (s : State) (f : State → Nat → State × Nat) (ds : List (Nat × Nat)) : State × List (Nat × Nat) :=
  ds.foldl (fun (a : State × List (Nat × Nat)) e =>
    let r := f a.1 e.2
    (r.1, a.2 ++ [(e.1, r.2)])) (s, [])

/-- An open or a close that the firmware answers (R380): the statuses come with its replies; a port takes them in one entry. -/
def State.askRoots (s : State) (x : Args) (isOpen : Bool) (t : Taken) (tags : List (Nat × Tag)) (ds : List (Nat × Nat)) : State :=
  let act := s.act x
  let b := s.ref
  let id := s.opSeq
  let s1 := (s.commitPops b act t).giveTags b tags
  let s2 := match x.d with
    | .q n => s1.commitPushOf b n.val 4 act act (t.push.getD ⟨[], []⟩) x.sched.setw act fun _ => 0
    | _ => { s1 with opSeq := id + 1 }
  let s3 := ds.foldl (fun s e => s.toRoot (if isOpen then .opening else .closing) e.2 0 b e.1 []) s2
  s3.parkOwed x (ds.map fun e => (e.1, .engine (.root isOpen x.d id))) (pushes x act)

/-- The whole of `QOPEN` and `QCLOSE`. -/
def State.rootForm (s : State) (i : Instr) (x : Args) (isOpen : Bool) : Out :=
  s.withDoms i x (fun d => !isHouse s.cur.core && !s.assigned d s.curCrew.acct) fun t ds =>
    let act := s.act x
    let f : State → Nat → State × Nat := if isOpen then State.applyOpen else State.applyClose
    if s.rootsHosted then
      s.pushOr x act 1 (fun _ => [0]) fun _ =>
        let tags := dstTags act x.d 1 (fun _ _ => .general) fun _ => []
        s.withRoom x act tags fun s1 => .next (s1.askRoots x isOpen t tags ds)
    else
      let r := s.applyAll f ds
      s.giveResults (i.shape.getD default) x t act (r.2.map fun e => (e.1, ({ val := BitVec.ofNat 64 e.2 } : LOut))) fun s1 =>
        (s1.applyAll f ds).1

/-- `QOPEN` (R311, R381). -/
def execQopen (x : Args) (s : State) : Out := s.rootForm (.qopen x) x true
/-- `QCLOSE` (R311, R381). -/
def execQclose (x : Args) (s : State) : Out := s.rootForm (.qclose x) x false

/-- T and H of a domain, from one state of its root (R135, R380). -/
def State.counts (s : State) (d : Nat) : Nat × Nat :=
  if s.rootsHosted then
    let a := (s.supReg 0x123).toNat + 131072 + 16 * d
    (s.mem.readNat a 8, s.mem.readNat (a + 8) 8)
  else if (s.dom d).st = .closed then (0, 0) else ((s.dom d).t, (s.dom d).h)

/-- `QREAD` (R135, R311). -/
def execQread (x : Args) (s : State) : Out :=
  s.withDoms (.qread x) x (fun _ => false) fun t ds =>
    let act := s.act x
    let b := s.ref
    let val (l : Nat) : List Word :=
      let c := s.counts (((ds.find? fun e => e.1 == l).map (·.2)).getD 0)
      [BitVec.ofNat 32 c.1, BitVec.ofNat 32 (c.1 / 2 ^ 32), BitVec.ofNat 32 c.2, BitVec.ofNat 32 (c.2 / 2 ^ 32)]
    let tags := dstTags act x.d 4 (fun _ _ => .general) fun _ => []
    s.pushOr x act 4 val fun _ =>
      s.withRoom x act tags fun s1 =>
        .next ((((s1.commitPops b act t).giveTags b tags).writeDst b x t act 4 val).finish x (!pushes x act))

/-! ### `POSTRES` (R312) -/

/-- Lexicographic order of keys. -/
def keyLe : List Nat → List Nat → Bool
  | [], _ => true
  | _ :: _, [] => false
  | a :: r, b :: q => decide (a < b) || (a == b && keyLe r q)

/-- One lane's write to a launch's result word. -/
def Launch.post (y : Launch) (det : Bool) (key : List Nat) (v : DWord) : Launch :=
  if det then (if keyLe (y.detKey.getD []) key then { y with result := v, detKey := some key } else y)
  else { y with result := v }

/-- `POSTRES` (R312): PRIV, whatever the predicate (R49), for work that belongs to no launch. -/
def execPostres (x : Args) (s : State) : Out :=
  let act := s.act x
  let k := s.curCrew
  match find s.launches k.lseq with
  | none => s.settle x (.error (trapLanes (if act.isEmpty then s.lanes else act) 3 0))
  | some y =>
    match s.take s.ref ((Instr.postres x).shape.getD default) x act with
    | .error e => s.settle x (.error e)
    | .ok t =>
      let y1 := act.foldl (fun y l =>
        y.post k.det [k.replica, k.grank, s.cur.bundle, l] (s.rd s.ref t x false 2 l x.a)) y
      let s1 := { s with launches := put s.launches k.lseq y1 }
      .next ((s1.commitPops s.ref act t).finish x true)

/-! ### `MSEND` (R313) -/

/-- The parts of a message: one write, single-copy atomic over its 32 bytes, and a release at .dev (R313). -/
def State.msgParts (s : State) (l : Nat) (e : Xl) (data : List Byte) : List Part :=
  (e.parts l 32 false true ⟨.rel, .dev⟩ (s.relOf l) (s.unOf l) data).map fun p => { p with unit := 32 }

/-- `MSEND` (R313): one outstanding delivery, ordered after the lanes' earlier accesses. -/
def execMsend (x : Args) (s : State) : Out :=
  let act := s.act x
  let b := s.ref
  match s.detBad act fun _ => true with
  | .error e => s.settle x (.error e)
  | .ok _ =>
    match s.take b ((Instr.msend x).shape.getD default) x act with
    | .error e => s.settle x (.error e)
    | .ok t =>
      let addr (l : Nat) : Nat := (s.rd b t x false 2 l x.a).toNat
      match alignCheck (act.map fun l => (l, addr l)) 32 true with
      | .error e => s.settle x (.error e)
      | .ok _ =>
        match s.xlateAll b .write (act.map fun l => (l, addr l, 32)) with
        | .error e => s.settle x (.error e)
        | .ok xs =>
          match xs.filter fun e => e.2.es.any Tlb.far with
          | e :: r => s.settle x (.error (.trap (maskOf ((e :: r).map (·.1))) (segvInfo (addr e.1) 0)))
          | [] =>
            let shares := act.map fun l => (l, shareOf (s.opVal t x 1 l x.c))
            let low := s.short b shares
            if act.isEmpty then .next (s.finish x true)
            else if !low.isEmpty then .next (s.awaitWeight x low)
            else
              let s1 := ((s.takeShares b shares).commitPops b act t).fillUsed b.core (xs.flatMap fun e => e.2.es)
              let ps := xs.flatMap fun e => s.msgParts e.1 e.2 ((s.rdGroup b t 8 e.1 x.b).flatMap fun w => leBytes w.toNat 4)
              let ws := shares.map fun e => (e.2, (s.lane b e.1).wd.toNat)
              .next (((s1.noteOp act false true).startPend s.opSeq (.msend ws) ps .none x.sched.setw).finish x false)

/-! ### Outstanding accesses that are performed (R96, R194, R252, R258, R313) -/

/-- Outstanding accesses of a kind are performed, as far as they may be, and what waited for them is looked at again. -/
def State.performIf (s : State) (core idx : Nat) (kind : Pend → Bool) : State :=
  match (s.core core).pend[idx]? with
  | some p =>
    if kind p && s.eligible core idx && !p.parts.any (fun a => a.scr.isNone && s.slotStalls core a.far a.cells) then
      (((s.performAt core idx).leaveCheck core p.ref.slot).settleQueues core 4096).wakeSave
    else s
  | none => s

/-- Whether results are to come back to registers. -/
def Pend.returns (p : Pend) : Bool :=
  match p.kind with
  | .load _ _ => true
  | .atom _ _ => p.dst != .zero
  | _ => false

/-- `LOAD_RESULT_RETURN`: a load or an atomic's result, or the lines of a prefetch. -/
def execLoadResultReturn (core idx : Nat) (s : State) : Out := .next (s.performIf core idx fun p => p.returns || p.kind == .pref)
/-- `STORE_PERFORMED`: a plain store, or an atomic without a register result. -/
def execStorePerformed (core idx : Nat) (s : State) : Out :=
  .next (s.performIf core idx fun p => p.kind == .store || (!p.returns && (match p.kind with
    | .atom _ _ => true
    | _ => false)))
/-- `REDG_APPLY`. -/
def execRedgApply (core idx : Nat) (s : State) : Out :=
  .next (s.performIf core idx fun p => match p.kind with
    | .redg _ _ => true
    | _ => false)
/-- `MSEND_DELIVER`: the messages are written, and their weight goes back. -/
def execMsendDeliver (core idx : Nat) (s : State) : Out :=
  .next (s.performIf core idx fun p => match p.kind with
    | .msend _ => true
    | _ => false)

end Sys2Proof.Machine
end

