-- ==== Sys2Proof/Machine/Mesh.lean ====
section
/-!
DEFINITION. Class 0xD, mesh and gang (Table 16-12, R314-R319): one meaning for each form; and the routers of reduction
trees (R316, R317).
-/

namespace Sys2Proof.Machine

/-! ### Tree records (Tables 16-13, 16-14) -/

def treeTimeout (r : Nat) : Nat := bits r 639 608
def treeRoot (r : Nat) : Nat := bits r 595 592
def treeDest (r : Nat) : Nat := bits r 531 512
def treeEntry (r g : Nat) : Nat := bits r (32 * g + 31) (32 * g)
def entNin (e : Nat) : Nat := bits e 22 20
def entSlot (e k : Nat) : Nat := bits e (5 + 3 * k) (3 + 3 * k)
def entParent (e : Nat) : Nat := bits e 2 0
/-- The input ports of a router in combining order. -/
def entSlots (e : Nat) : List Nat := (List.range (entNin e)).map (entSlot e)

/-- The rank next to one through a port: 1 north, 2 east, 3 south, 4 west. -/
def neighbour (w : Nat) (rank port : Nat) : Nat :=
  if port = 1 then rank - w else if port = 2 then rank + 1 else if port = 3 then rank + w else rank - 1
/-- The port by which the neighbour sees this router. -/
def facing (port : Nat) : Nat := if port = 1 then 3 else if port = 2 then 4 else if port = 3 then 1 else 2

/-! ### State of trees -/

def State.gangOf (s : State) (gn : Nat) : Gang := findD s.gangs gn default
def State.setGang (s : State) (gn : Nat) (g : Gang) : State := { s with gangs := put s.gangs gn g }
def Gang.router (g : Gang) (tree rank : Nat) : Router := findD g.routers (16 * tree + rank) default
def Gang.setRouter (g : Gang) (tree rank : Nat) (r : Router) : Gang := { g with routers := put g.routers (16 * tree + rank) r }
def Gang.treeRec (g : Gang) (tree : Nat) : Nat := ((find g.trees tree).getD 0).toNat
/-- The crew at a tree's root; a core that has no crews once it has retired. -/
def Gang.rootCrew (g : Gang) (tree : Nat) : Nat × Nat := findD g.members (treeRoot (g.treeRec tree)) (1024, 0)

/-- The status word of a tree (Table 16-15). -/
def State.treeStatus (s : State) (g : Gang) (tree : Nat) : Nat :=
  (s.scr (g.rootCrew tree).1 (g.rootCrew tree).2).readNat (treeDest (g.treeRec tree) + 128) 8

/-- The place in `Gang.treeView` of what the deliveries of a tree made so far order. -/
def deliveredKey (tree : Nat) : Nat := 2 ^ 20 + tree
/-- What the deliveries of a tree order (R318). -/
def Gang.delivered (g : Gang) (tree : Nat) : View := findD g.treeView (deliveredKey tree) []

/-- A status word as the registers of an `RRECV`. -/
def statusWords (st : Nat) : List Word := [BitVec.ofNat 32 st, BitVec.ofNat 32 (st / 2 ^ 32)]

/-- Lanes of a gang's `RRECV` whose round has come take the status word, acquire the delivery and go on; a course that pushes it
tries again once each of its lanes' rounds has come (R318). -/
def State.wakeRrecv (s : State) (gn : Nat) : State :=
  let g := s.gangOf gn
  let due (w : Why) : Bool := match w with
    | .engine (.rrecv t r _ _) => bits (s.treeStatus g t) 31 16 != r.toNat
    | _ => false
  g.members.foldl (fun s m => (s.bundlesOf m.2.1).foldl (fun s b =>
    if b.slot != m.2.2 then s
    else
      let y := s.bundle b
      let got := y.parked.flatMap fun k => if k.again then [] else k.waits.filter fun w => due w.2
      let s1 := got.foldl (fun s w =>
        match w.2 with
        | .engine (.rrecv t _ d id) => (s.land b id d [(w.1, statusWords (s.treeStatus g t))]).learn b w.1 s.opSeq (g.delivered t)
        | _ => s) s
      (s1.setBundle b ((s1.bundle b).release (fun _ w => due w) fun _ z => z)).resume b due) s) s

/-! ### Combining and delivering (R316, R317) -/

/-- The inputs a router holds, in slot order, without those that add nothing. -/
def Router.ordered (r : Router) (e : Nat) : List Packet :=
  (entSlots e).filterMap fun c => r.inputs.find? fun p => p.port == c && !p.empty

/-- Element by element, rounded to nearest in slot order. -/
def combine (ps : List Packet) : List Word :=
  match ps with
  | [] => List.replicate 32 0
  | p :: rest => rest.foldl (fun a q =>
      (List.range 32).map fun i => BitVec.ofNat 32 (rneAdd (a.getD i 0).toNat (q.vals.getD i 0).toNat)) p.vals
def unionBits (ps : List Packet) : BitVec 16 := ps.foldl (fun a p => a ||| p.bitmap) 0

/-- Whether a router may send: every input has come; or it has been flushed and every child has supplied or answered. -/
def Router.full (r : Router) (e : Nat) : Bool :=
  let has (c : Nat) : Bool := r.inputs.any fun p => p.port == c
  (entSlots e).all fun c => has c || (r.flushed && c == 0)

/-- Ranks of a tree whose bit is absent. -/
def missing (rec_ : Nat) (bm : BitVec 16) : Nat :=
  (List.range 16).foldl (fun a g => if entNin (treeEntry rec_ g) ≠ 0 ∧ !bm.getLsbD g then a + 2 ^ g else a) 0

/-- A root router writes its core's allocation, as a release at .gang of what the tree's deliveries order (R316, R317). -/
def State.rootWrite (s : State) (gn tree : Nat) (off : Nat) (bs : List Byte) : State :=
  let g := s.gangOf gn
  let c := g.rootCrew tree
  if !s.hasCrew c.1 c.2 then s
  else
    let k := s.crew c.1 c.2
    let a := queueAuthor k.agent qMesh false
    let v := (g.delivered tree).bump a (s.clock + 2)
    let s1 := s.setGang gn { g with treeView := put g.treeView (deliveredKey tree) v }
    (s1.note ⟨a, s.clock + 1, false, some (⟨c.1, k.agent, 0, 0, some gn⟩, .gang, v)⟩ (s.scrCur c.1 c.2 off bs.length)).storeScr
      c.1 c.2 off bs

/-- What the packets of a round order is part of what its delivery does (R318). -/
def Gang.roundOver (g : Gang) (tree round : Nat) : Gang :=
  let v := (g.delivered tree).join (findD g.treeView (roundKey tree round) [])
  { g with treeView := put (del g.treeView (roundKey tree round)) (deliveredKey tree) v }

/-- The root delivers the sum and the status word of its router's round (R316). -/
def State.deliver (s : State) (gn tree at_ : Nat) (ps : List Packet) (flushed bad : Bool) : State :=
  let s := s.setGang gn ((s.gangOf gn).roundOver tree at_)
  let g := s.gangOf gn
  let rec_ := g.treeRec tree
  let c := g.rootCrew tree
  let round := (findD g.rounds tree 0 + 1) % 65536
  let st := min (findD g.dead tree 0) 65535 * 2 ^ 48 + (if flushed then 2 else 1) * 2 ^ 32 + round * 2 ^ 16 + missing rec_ (unionBits ps)
  let s1 := s.rootWrite gn tree (treeDest rec_) ((combine ps).flatMap fun w => leBytes w.toNat 4)
  let s2 := if bad then s1.setLine c.1 c.2 (treeDest rec_ / 128) .poisoned else s1
  let s3 := s2.rootWrite gn tree (treeDest rec_ + 128) (leBytes st 8)
  (s3.setGang gn { s3.gangOf gn with rounds := put g.rounds tree round }).wakeRrecv gn

/-- A router that may send does so, and takes what waits for its next round. -/
def State.routerGo (s : State) (gn tree rank : Nat) : Nat → State
  | 0 => s
  | n + 1 =>
    let g := s.gangOf gn
    let e := treeEntry (g.treeRec tree) rank
    let r := g.router tree rank
    if r.inputs.isEmpty && !r.flushed || !r.full e || entNin e == 0 then s
    else
      let ps := r.ordered e
      let bad := r.inputs.any Packet.bad
      let next := (r.round + 1) % 65536
      let mine (p : Packet) : Bool := p.tree == tree && p.rank == rank && p.round == next
      let took := g.waiting.filter mine
      let core := (g.at_ rank).1
      let r1 : Router := ⟨next, took, false, if took.isEmpty then none else some (s.core core).cyc⟩
      let g1 := { g.setRouter tree rank r1 with waiting := g.waiting.filter fun p => !mine p }
      if entParent e = 0 then
        State.routerGo ((s.setGang gn g1).deliver gn tree r.round ps r.flushed bad) gn tree rank n
      else
        let p : Packet := ⟨tree, neighbour g.w rank (entParent e), facing (entParent e), r.round, combine ps, unionBits ps,
          ps.isEmpty, bad, false⟩
        State.routerGo (s.setGang gn { g1 with flight := g1.flight ++ [p] }) gn tree rank n

/-- A dead letter: DEAD rises, in the status word too (R317). -/
def State.deadLetter (s : State) (gn tree : Nat) : State :=
  let g := s.gangOf gn
  let n := min (findD g.dead tree 0 + 1) 65535
  ((s.count 1 1).setGang gn { g with dead := put g.dead tree n }).rootWrite gn tree (treeDest (g.treeRec tree) + 134) (leBytes n 2)

/-- Flushes go down a router's child slots that have supplied nothing. -/
def Gang.flushDown (g : Gang) (tree rank : Nat) : Gang :=
  let e := treeEntry (g.treeRec tree) rank
  let r := g.router tree rank
  let downs := (entSlots e).filter fun c => c != 0 && !r.inputs.any fun p => p.port == c
  let g1 := g.setRouter tree rank { r with flushed := true }
  { g1 with flight := g1.flight ++ downs.map fun c => ⟨tree, neighbour g.w rank c, facing c, r.round, [], 0, true, false, true⟩ }

/-- The packet an event is about, when no earlier one came on its channel. -/
def Gang.nextPacket (g : Gang) (idx : Nat) (flush : Bool) : Option Packet :=
  match g.flight[idx]? with
  | some p =>
    if p.flush == flush && !(g.flight.take idx).any fun q => q.tree == p.tree && q.rank == p.rank && q.port == p.port && q.flush == flush
    then some p else none
  | none => none

/-- How far a round lies ahead of another, modulo 2^16. -/
def roundsAhead (a b : Nat) : Nat := (a + 65536 - b % 65536) % 65536

/-- Whether the count of the root's round has reached TIMEOUT (R317). -/
def State.roundLate (s : State) (gang tree : Nat) : Bool :=
  let g := s.gangOf gang
  let r := g.router tree (treeRoot (g.treeRec tree))
  (find g.trees tree).isSome && treeTimeout (g.treeRec tree) != 0 && !r.flushed && (match r.since with
    | some c => decide (c + treeTimeout (g.treeRec tree) ≤ (s.core (g.at_ (treeRoot (g.treeRec tree))).1).cyc)
    | none => false)
/-- A count that has reached TIMEOUT makes the root flush its round. -/
def State.timeOut (s : State) (gang tree : Nat) : State :=
  let root := treeRoot ((s.gangOf gang).treeRec tree)
  if s.roundLate gang tree then (s.setGang gang ((s.gangOf gang).flushDown tree root)).routerGo gang tree root 65536 else s

/-- `REDUCTION_PACKET_ARRIVE` (R316, R317): a packet that comes after the root's count has run out finds the round flushed. -/
def execReductionPacketArrive (gang idx : Nat) (s : State) : Out :=
  match (s.gangOf gang).nextPacket idx false with
  | none => .next s
  | some p =>
    let s := s.timeOut gang p.tree
    let g := s.gangOf gang
    let g1 := { g with flight := g.flight.eraseIdx idx }
    let r := g.router p.tree p.rank
    let ahead := roundsAhead p.round r.round
    if 32768 ≤ ahead then .next ((s.setGang gang g1).deadLetter gang p.tree)
    else if ahead ≠ 0 then .next (s.setGang gang { g1 with waiting := g1.waiting ++ [p] })
    else
      let now := (s.core (g.at_ p.rank).1).cyc
      let r1 := { r with inputs := r.inputs ++ [p], since := some (r.since.getD now) }
      .next ((s.setGang gang (g1.setRouter p.tree p.rank r1)).routerGo gang p.tree p.rank 65536)

/-- `REDUCTION_TIMEOUT` (R317): the count of the root's round has reached TIMEOUT. -/
def execReductionTimeout (gang tree : Nat) (s : State) : Out := .next (s.timeOut gang tree)

/-- `REDUCTION_FLUSH_ARRIVE` (R317): a router that has not yet sent for the round forwards the flush; one that has
ignores it. -/
def execReductionFlushArrive (gang idx : Nat) (s : State) : Out :=
  let g := s.gangOf gang
  match g.nextPacket idx true with
  | none => .next s
  | some p =>
    let g1 := { g with flight := g.flight.eraseIdx idx }
    let r := g.router p.tree p.rank
    if p.round != r.round || r.flushed then .next (s.setGang gang g1)
    else .next ((s.setGang gang (g1.flushDown p.tree p.rank)).routerGo gang p.tree p.rank 65536)

/-! ### Forms -/

/-- `GBAR` (R314): the lanes that arrive wait, and the barrier releases once their earlier accesses are performed (R111). -/
def execGbar (x : Args) (s : State) : Out :=
  let act := s.act x
  let id := if x.b = .imm then x.lit.toNat else 0
  .next ((s.parkDone x (act.map fun l => (l, .gbar id))).gbarCheck s.cur.core s.cur.slot id)

/-- A tree of the crew's gang: its number and record; none for an id that names none (R315). -/
def State.treeAt (s : State) (id : Nat) : Option (Nat × Nat) :=
  if 16 ≤ id then none
  else
    match s.curCrew.gang with
    | none => none
    | some gn => (find (s.gangOf gn).trees id).map fun r => (gn, r.toNat)

/-- `RSEND` (R316). -/
def execRsend (x : Args) (s : State) : Out :=
  s.course1 (.rsend x) x fun t l =>
    let id := s.opVal t x 1 l x.a
    let act := s.act x
    let stop := s.settle x (.error (trapLanes act 5 (BitVec.ofNat 32 id)))
    match s.treeAt id with
    | none => stop
    | some (gn, r) =>
      let rank := s.curCrew.grank
      if !(entSlots (treeEntry r rank)).contains 0 then stop
      else
        let g := s.gangOf gn
        let n := findD g.sends (16 * id + rank) 0
        let vals := (List.range 32).map fun i => if act.contains i then BitVec.ofNat 32 (s.opVal t x 1 i x.b) else (0 : Word)
        let s1 := s.setGang gn { g with sends := put g.sends (16 * id + rank) ((n + 1) % 65536) }
        .next ((s1.issueCmd x t qMesh [] (.rsend id n vals)).settleQueues s.cur.core 4096)

/-- `RRECV` (R318): each lane by itself, or the course as a whole when it pushes. -/
def execRrecv (x : Args) (s : State) : Out :=
  let sh := (Instr.rrecv x).shape.getD default
  let act := s.act x
  match s.take s.ref sh x act with
  | .error e => s.settle x (.error e)
  | .ok t =>
    let ids := act.map fun l => (l, s.opVal t x 1 l x.a)
    match ids.filter fun e => (s.treeAt e.2).isNone with
    | e :: r => s.settle x (.error (trapLanes ((e :: r).map (·.1)) 5 (BitVec.ofNat 32 e.2)))
    | [] =>
      let g := s.gangOf (s.curCrew.gang.getD 0)
      let info := ids.map fun e => (e.1, e.2, s.treeStatus g e.2, (BitVec.ofNat 16 (s.opVal t x 1 e.1 x.b) : BitVec 16))
      let waits := info.filter fun e => bits e.2.2.1 31 16 == e.2.2.2.toNat
      let val (l : Nat) : List Word :=
        match info.find? fun e => e.1 == l with
        | some e => statusWords e.2.2.1
        | none => []
      let why := waits.map fun e => (e.1, Why.engine (.rrecv e.2.1 e.2.2.2 x.d s.opSeq))
      if pushes x act && !waits.isEmpty then .next (s.parkAgain x why)
      else
        let tags := dstTags act x.d 2 (fun _ _ => .general) fun _ => []
        s.pushOr x act 2 val fun _ =>
          s.withRoom x act tags fun s1 =>
            let b := s.ref
            let now := info.filter fun e => !waits.any fun w => w.1 == e.1
            let s2 := now.foldl (fun s e => s.learn b e.1 s.opSeq (g.delivered e.2.1)) ((s1.commitPops b act t).giveTags b tags)
            let s3 := { s2.writeDst b x t (now.map (·.1)) 2 val with opSeq := s.opSeq + 1 }
            if pushes x act then .next ((s3.finish x false).orderPoint s.cur.core s.cur.slot)
            else if why.isEmpty && !act.isEmpty then .next ((s3.finish x true).orderPoint s.cur.core s.cur.slot)
            else .next (s3.parkTaken t x why)

/-! ### `MCAST` (R319) -/

/-- The members that a course's crew may name, by rank. -/
def State.mcastMember (s : State) (rank : Nat) : Option (Nat × Nat) :=
  match s.curCrew.gang with
  | some gn => find (s.gangOf gn).members rank
  | none => if rank = 0 then some (s.cur.core, s.cur.slot) else none

/-- The copy to one member: pieces of 16 B. -/
def mcastCopy (own dest : Nat × Nat) (a b n lane : Nat) (full : Bool) : Copy :=
  let units := (List.range (n / 16)).map fun i =>
    (⟨lane, some (.scr own.1 own.2 (b + 16 * i)), [], .scr dest.1 dest.2 (a + 16 * i), 16, b + 16 * i⟩ : CUnit)
  ⟨full, false, units, [], [], [], 0, 16, 0, none, [⟨lane, b, a, n, 0⟩]⟩

/-- `MCAST` (R319). -/
def execMcast (x : Args) (s : State) : Out :=
  s.course1 (.mcast x) x fun t l =>
    let a := s.opVal t x 1 l x.a
    let b := s.opVal t x 1 l x.b
    let w := s.opVal t x 2 l x.c
    let n := w % 2 ^ 32
    let m := w / 2 ^ 32
    let act := s.act x
    let segv (v : Nat) : Out := s.settle x (.error (.trap (maskOf act) (scrSegv (BitVec.ofNat 32 v))))
    let ranks := (List.range 16).filter fun r => m.testBit r
    let ms := ranks.filterMap s.mcastMember
    match forAll act (alignAll [(l, a, 16, false), (l, b, 16, false)]) with
    | .error e => s.settle x (.error e)
    | .ok _ =>
      if 2 ^ 20 ≤ a then segv a
      else if 2 ^ 20 ≤ b then segv b
      else if n % 16 ≠ 0 ∨ n = 0 ∨ 2 ^ 20 < n ∨ m / 2 ^ 17 ≠ 0 then segv a
      else if ms.length ≠ ranks.length then segv a
      else if s.curCrew.slines * 128 < b + n then segv b
      else if ms.any fun q => decide ((s.crew q.1 q.2).slines * 128 < a + n) then segv a
      else
        let cs := ms.map fun q => (q.1, mcastCopy (s.cur.core, s.cur.slot) q a b n l (m.testBit 16))
        .next (s.issueCmd x t qMesh [] (.mcast cs))

/-- One transfer of the first copy that has any left before a poisoned source byte. -/
def State.landFirst (s : State) (c : Cmd) : List (Nat × Copy) → State × List (Nat × Copy)
  | [] => (s, [])
  | (q, y) :: r =>
    if y.units.head?.all (CUnit.bad s) then
      let p := State.landFirst s c r
      (p.1, (q, y) :: p.2)
    else
      let p := s.landCopy qMesh c y
      (p.1, (q, p.2) :: r)

/-- `MCAST_PERFORM` (R319): the next transfer of the multicast at the head of the mesh queue. A poisoned source stops it once
every destination has the bytes before it (R183); its copy fault record gives the bytes completed in each (DESIGN CHOICE,
assumption 63). -/
def execMcastPerform (core : Nat) (s : State) : Out :=
  match s.headCmd core qMesh with
  | none => .next s
  | some c =>
    match c.body with
    | .mcast cs =>
      let left := (cs.flatMap fun e => e.2.units.take 1)
      if c.suspended || (!c.started && (!s.mayStart core c.duration || s.cmdOwed c)) then .next s
      else
        match left with
        | [] => .next ((s.popHead core qMesh).complete qMesh c)
        | u :: _ =>
          if left.all (CUnit.bad s) then
            let s1 := cs.foldl (fun s e => s.poisonDst e.2.units) s
            .next (((s1.poisonLater c.ref.core c.ref.slot (copyFault 0 ((cs.map (·.2)).headD default) u)).popHead core
              qMesh).complete qMesh c)
          else
            let r := s.landFirst c cs
            .next (r.1.setHead core qMesh { c with started := true, body := .mcast r.2 })
    | _ => .next s

end Sys2Proof.Machine
end

