-- ==== Sys2Proof/Machine/Control.lean ====
section
/-!
DEFINITION. Class 0x4, control (Table 14-1, R243-R248): one meaning for each form.
-/

namespace Sys2Proof.Machine

/-- ALIGN at a global address (R186, Table 02-7). -/
def alignInfo (a : DWord) : TrapInfo := ⟨4, a.setWidth 32, 0, BitVec.ofNat 32 (bits a.toNat 55 32), 0⟩

/-- `BRA` (R243). -/
def execBra (disp : Word) (x : Args) (s : State) : Out :=
  let act := s.act x
  .next (s.finishTo x true fun l => if act.contains l then s.cur.pc + disp.signExtend 64 else s.cur.pc + 16)

/-- The target of an indirect branch in each lane (R243). -/
def State.target (s : State) (x : Args) (l : Nat) : DWord := s.rd s.ref ⟨[], none⟩ x false 2 l x.a

/-- R244: the vote on a convergent target, over the lanes predicated on, or the whole course when none is; then the
check of R186 in the lanes predicated on. -/
def State.targetCheck (s : State) (x : Args) (conv : Bool) : Res Unit :=
  let act := s.act x
  let voters := if act.isEmpty then s.lanes else act
  let t0 := s.target x (voters.headD 0)
  if conv && !voters.all (fun l => s.target x l == t0) then
    .error (.trap (maskOf voters) ⟨7, 2, 0, t0.setWidth 32, (t0 >>> 32).setWidth 32⟩)
  else
    let bad := act.filter fun l => (s.target x l).toNat % 16 != 0
    match bad with
    | l :: _ => .error (.trap (maskOf bad) (alignInfo (s.target x l)))
    | [] => .ok ()

/-- `BRX` (R243, R244). -/
def execBrx (conv : Bool) (x : Args) (s : State) : Out :=
  let act := s.act x
  match s.targetCheck x conv with
  | .error e => s.settle x (.error e)
  | .ok _ => .next (s.finishTo x true fun l => if act.contains l then s.target x l else s.cur.pc + 16)

/-! ### Calls (R245, R246) -/

/-- Bytes of one depth's band: 256 for each bundle the crew was placed with. -/
def Crew.band (k : Crew) : Nat := 256 * k.nbundles
/-- slot(k, b, L) of R245. -/
def Crew.slotOff (k : Crew) (depth b l : Nat) : Nat := k.slines * 128 - k.band * (depth + 1) + 8 * (32 * b + l)
/-- STACK's reason for a call at a depth, when it cannot be made. -/
def Crew.stackFault (k : Crew) (depth : Nat) : Option Nat :=
  if depth = 64 then some 0 else if k.slines * 128 < k.band * (depth + 1) then some 1 else none

/-- POISON on a call-stack slot (R86). -/
def State.slotPoison (s : State) (off : Nat) : Bool :=
  (linesTouched off 8).any fun n => s.line s.cur.core s.cur.slot n == .poisoned

/-- The checks of a call in every lane predicated on: POISON ranks above STACK (R49). -/
def State.callCheck (s : State) (act : List Nat) : Res Unit :=
  let k := s.curCrew
  let depth (l : Nat) : Nat := (s.lane s.ref l).cd
  let off (l : Nat) : Nat := k.slotOff (depth l) s.cur.bundle l
  let deep := act.filter fun l => (k.stackFault (depth l)).isSome
  let pois := act.filter fun l => (k.stackFault (depth l)).isNone && s.slotPoison (off l)
  match pois, deep with
  | l :: _, _ => .error (trapLanes pois 6 (BitVec.ofNat 32 (off l)))
  | [], l :: _ => .error (trapLanes deep 0x12 (BitVec.ofNat 32 ((k.stackFault (depth l)).getD 0)))
  | [], [] => .ok ()

/-- The plain access of a lane to its return slot at an offset. -/
def State.slotParts (s : State) (l off : Nat) (rel : Option Scope) (data : List Byte) : List Part :=
  s.scrParts l s.cur.core s.cur.slot off 8 plain rel (s.unOf l) data

/-- The return addresses are stored, at issue, once nothing outstanding of their lanes holds the stores (R102); each calling lane
is one deeper and at its target. -/
def State.doCall (s : State) (x : Args) (target : Nat → DWord) : Out :=
  let act := s.act x
  let ps := act.flatMap fun l =>
    s.slotParts l (s.curCrew.slotOff (s.lane s.ref l).cd s.cur.bundle l) (s.relOf l) (leBytes (s.cur.pc + 16).toNat 8)
  match s.awaitParts ps with
  | .error e => s.settle x (.error e)
  | .ok _ =>
    let s1 := ((s.noteOp act false true).storeNow ps).mapLanes s.ref act fun _ z => { z with cd := z.cd + 1 }
    .next (s1.finishTo x true fun l => if act.contains l then target l else s.cur.pc + 16)

/-- `CALL` (R246). -/
def execCall (disp : Word) (x : Args) (s : State) : Out :=
  match s.callCheck (s.act x) with
  | .error e => s.settle x (.error e)
  | .ok _ => s.doCall x fun _ => s.cur.pc + disp.signExtend 64

/-- `CALLX` (R244, R246). -/
def execCallx (conv : Bool) (x : Args) (s : State) : Out :=
  match s.targetCheck x conv with
  | .error e => s.settle x (.error e)
  | .ok _ =>
    match s.callCheck (s.act x) with
    | .error e => s.settle x (.error e)
    | .ok _ => s.doCall x (s.target x)

/-- The loads of a `RET` and their check (R246): the return addresses, by lane, and each lane's return. -/
def State.doRet (s : State) (x : Args) (ls flat : List Nat) (off : Nat → Nat) : Out :=
  let act := s.act x
  let ps := ls.flatMap fun l => s.slotParts l (off l) none []
  match s.awaitParts ps with
  | .error e => s.settle x (.error e)
  | .ok _ =>
    let r := (s.noteOp ls true false).readNow ps
    let addr (l : Nat) : DWord := BitVec.ofNat 64 (leNat ((r.2.filter fun e => e.1 == l).flatMap fun e => e.2))
    match ls.filter fun l => (addr l).toNat % 16 != 0, flat with
    | l :: ms, _ => s.settle x (.error (.trap (maskOf (l :: ms)) (alignInfo (addr l))))
    | [], _ :: _ => s.settle x (.error (trapLanes flat 0x12 2))
    | [], [] =>
      let s1 := r.1.mapLanes s.ref act fun _ z => { z with cd := z.cd - 1 }
      .next (s1.finishTo x true fun l => if act.contains l then addr l else s.cur.pc + 16)

/-- `RET` (R246): POISON and STACK; then the wait for an empty line; then the loads of all lanes, whose ALIGN ranks above STACK
(R49, R86). -/
def execRet (x : Args) (s : State) : Out :=
  let act := s.act x
  let k := s.curCrew
  let c := s.cur.core
  let deepOk := act.filter fun l => (s.lane s.ref l).cd != 0
  let flat := act.filter fun l => (s.lane s.ref l).cd == 0
  let off (l : Nat) : Nat := k.slotOff ((s.lane s.ref l).cd - 1) s.cur.bundle l
  let pois := deepOk.filter fun l => s.slotPoison (off l)
  let empt := deepOk.filter fun l => (linesTouched (off l) 8).any fun n => s.line c s.cur.slot n == .empty
  match pois, empt, flat with
  | l :: _, _, _ => s.settle x (.error (trapLanes pois 6 (BitVec.ofNat 32 (off l))))
  | [], _ :: _, _ :: _ => s.settle x (.error (trapLanes flat 0x12 2))
  | [], _ :: _, [] =>
    let lines := deepOk.flatMap fun l => (linesTouched (off l) 8).map fun n => (c, s.cur.slot, n)
    s.settle x (.error (.wait (empt.map fun l => (l, .line lines))))
  | [], [], _ => s.doRet x deepOk flat off

/-! ### JOIN, EXIT and SLEEP -/

/-- `JOIN` (R41-R43, R247). -/
def execJoin (x : Args) (s : State) : Out :=
  let s1 := s.parkDone x ((s.act x).map fun l => (l, .join))
  .next (s1.setBundle s.ref (s1.bundle s.ref).joinCheck)

/-- A lane leaves the live set: its weight goes to the bundle's return sums (R42, R131). -/
def Bundle.exitLane (y : Bundle) (l : Nat) : Bundle :=
  let z := y.lane l
  let y1 := y.setLane l { z with wt := 0 }
  { y1 with live := y1.live &&& ~~~(1#32 <<< l),
            rsums := put y1.rsums z.wd.toNat (findD y1.rsums z.wd.toNat 0 + z.wt.toNat) }

/-- `EXIT` (R42, R131, R247). -/
def execExit (x : Args) (s : State) : Out :=
  let act := s.act x
  let s1 := s.finish x true
  let y := act.foldl Bundle.exitLane (s1.bundle s.ref)
  let s2 := s1.setBundle s.ref y.joinCheck
  .next (s2.leaveCheck s.cur.core s.cur.slot)

/-- `SLEEP` (R248). -/
def execSleep (n : Word) (x : Args) (s : State) : Out :=
  let until_ := (s.core s.cur.core).cyc + max n.toNat 1
  .next (s.parkDone x ((s.act x).map fun l => (l, .sleep until_)))

end Sys2Proof.Machine
end

