-- ==== Sys2Proof/Machine/System.lean ====
section
/-!
DEFINITION. Class 0xE, system (Table 16-17): control registers (R17-R19, R320, R367), traps of programs (R321), the
return from a handler (R368) and the calendar query (R322); the supervisor registers that act, as steps (R371, R383).
-/

namespace Sys2Proof.Machine

/-! ### What a write may hold -/

/-- R17, Table 11-7: a tile shape that a tile can hold; ELEM 0 from version 2 on. -/
def tshOk (ver : Nat) (v : Word) : Bool :=
  let e := bits v.toNat 2 0
  let rows := bits v.toNat 10 4
  let cols := bits v.toNat 17 11
  let width := if e = 0 then 4 else if e = 1 then 6 else if e = 2 then 9 else 16
  bits v.toNat 31 18 == 0 && !v.getLsbD 3 && decide (e ≤ 4) && (e != 0 || decide (2 ≤ ver)) && decide (1 ≤ cols) && decide (cols ≤ 64) &&
    decide (1 ≤ rows) && decide (rows ≤ 64) && (decide (3 ≤ e) || cols % 16 == 0) && decide (rows * cols * width ≤ 36864)

/-- The fields of a notification register that are zero (Table 24-1). -/
def noteOk (v : Nat) : Bool := bits v 30 22 == 0

/-- QREPLY's fields (Table 24-8): a kind that a reply can have, and no grant but a borrow's. -/
def replyOk (v : Nat) : Bool :=
  let k := bits v 28 26
  bits v 31 30 == 0 && (k == 2 || ((k == 4 || k == 5 || k == 6) && bits v 63 32 == 0))

/-- R19, R367: whether a control register takes a value: zero fields are zero and no code of an acting register is a
reserved one. TVEC takes multiples of 16 only (DESIGN CHOICE, assumption 35). -/
def ctlOk (ver k v : Nat) : Bool :=
  if k < 0x010 then tshOk ver (BitVec.ofNat 32 v)
  else if k = 0x100 then v % 16 == 0
  else if k = 0x012 then decide (v < 2 ^ 5)
  else if k = 0x013 then decide (v < 2 ^ 2)
  else if k = 0x015 ∨ k = 0x107 ∨ k = 0x11F then decide (v < 2)
  else if k = 0x101 ∨ k = 0x119 then decide (v < 2 ^ 8)
  else if k = 0x108 ∨ k = 0x121 ∨ k = 0x12B then decide (v < 2 ^ 16)
  else if k = 0x10B then decide (v < 2 ^ 7)
  else if k = 0x10F then decide (v < 2 ^ 19) && bits v 17 16 != 3
  else if k = 0x111 then decide (v < 2 ^ 18) && bits v 17 16 != 3
  else if k = 0x114 ∨ k = 0x117 ∨ k = 0x125 then noteOk v
  else if k = 0x118 then decide (v < 2 ^ 22)
  else if k = 0x11D then decide (v < 2 ^ 10)
  else if k = 0x122 then decide (v < 2 ^ 14) && bits v 1 0 != 0
  else if k = 0x126 then replyOk v
  else if k = 0x127 ∨ k = 0x12C then decide (v < 2 ^ 12)
  else true

/-- Registers that take writes only until the first record window opens (R364, R367). -/
def isBoot (k : Nat) : Bool :=
  [0x10A, 0x10B, 0x10D, 0x112, 0x115, 0x123, 0x11C, 0x121, 0x128, 0x129, 0x12A, 0x12B].contains k
/-- Registers marked "acts", and SEED, whose write reloads the shift registers (R383). -/
def ctlActs (k : Nat) : Bool :=
  [0x10F, 0x111, 0x118, 0x11A, 0x11D, 0x11F, 0x122, 0x126, 0x127, 0x12B, 0x12C].contains k

/-! ### Reading -/

/-- A control register of a house core (Table 24-1). -/
def House.reg (h : House) (k : Nat) : Option DWord :=
  if k = 0x100 then some h.tvec
  else if k = 0x101 then some (h.tcause.setWidth 64)
  else if k = 0x102 then some h.tpc
  else if k = 0x103 then some (h.tinfo0.setWidth 64)
  else if k = 0x104 then some (h.tinfo1.setWidth 64)
  else if k = 0x105 then some (h.tinfo2.setWidth 64)
  else if k = 0x106 then some (h.tinfo3.setWidth 64)
  else if k = 0x107 then some (if h.inh then 1 else 0)
  else if k = 0x108 then some (h.asid.setWidth 64)
  else if k = 0x109 then some h.ptbase
  else none

/-- A control register read by a lane (Tables 01-3, 24-1). -/
def State.ctl (s : State) (b : BRef) (l k : Nat) : DWord :=
  let y := s.bundle b
  if k < 0x010 then ((s.crew b.core b.slot).tshAll.getD k 0).setWidth 64
  else if k = 0x010 then (y.lane l).wt.setWidth 64
  else if k = 0x011 then (y.lane l).wd.setWidth 64
  else if k = 0x012 then y.fstat.setWidth 64
  else if k = 0x013 then y.fmode.setWidth 64
  else if k = 0x014 then BitVec.ofNat 64 (s.core b.core).cyc
  else if k = 0x015 then (if y.htrap then 1 else 0)
  else if k = 0x016 then y.hintMiss.setWidth 64
  else ((s.houseOf b.core).reg k).getD (s.supReg k)

/-- `MOVR` (R18, R320). -/
def execMovr (k : BitVec 10) (x : Args) (s : State) : Out :=
  s.alu (.movr k x) x false .general fun i => { val := s.ctl s.ref i.lane k.toNat }

/-! ### Writing -/

/-- The core and bundle of a word [9:0] core, [15:10] crew slot, [20:16] bundle. -/
def refOf (v : Nat) : BRef := ⟨bits v 9 0, bits v 15 10, bits v 20 16⟩

/-- The step that a write to an acting register is (R371, R373, R375, R376, R380, R383, R384, R386). -/
def State.actOf (s : State) (k v : Nat) : Option Instr :=
  let va := s.supReg 0x10E
  if k = 0x10F then
    some (if bits v 17 16 = 0 then .tlbiPage (bits v 15 0) va (v.testBit 18)
      else if bits v 17 16 = 1 then .tlbiAsid (bits v 15 0) else .tlbiAll)
  else if k = 0x111 then
    some (if bits v 17 16 = 0 then .freplayReplay (bits v 9 0) (bits v 15 10)
      else if bits v 17 16 = 1 then .freplayRefuse (bits v 9 0) (bits v 15 10)
      else .freplayFill (bits v 9 0) (bits v 15 10))
  else if k = 0x118 then some (.tresume (refOf v) (v.testBit 21))
  else if k = 0x11A then some (.lend v)
  else if k = 0x11D then some (.cctsync (bits v 9 0))
  else if k = 0x11F then (if v = 1 then some .calctlInstall else none)
  else if k = 0x122 then
    some (if bits v 1 0 = 1 then .slotcmdNotice (bits v 7 2) (bits v 13 8)
      else if bits v 1 0 = 2 then .slotcmdOpen (bits v 7 2) (bits v 13 8)
      else .slotcmdClose (bits v 7 2) (bits v 13 8))
  else if k = 0x126 then
    let at_ : BRef := ⟨bits v 25 16, bits v 15 10, bits v 9 5⟩
    let l := bits v 4 0
    some (if bits v 28 26 = 2 then .qreplyBorrow at_ l (BitVec.ofNat 32 (v / 2 ^ 32))
      else if bits v 28 26 = 4 then .qreplyArm at_ l (v.testBit 29)
      else if bits v 28 26 = 5 then .qreplyOpen at_ l (v.testBit 29)
      else .qreplyClose at_ l (v.testBit 29))
  else if k = 0x127 then some (.qreset (BitVec.ofNat 12 v))
  else if k = 0x12B then some (.seedWrite (BitVec.ofNat 32 v))
  else if k = 0x12C then some (.qpub (BitVec.ofNat 12 v))
  else none

/-- A house core's own register written. -/
def House.setReg (h : House) (k v : Nat) : House :=
  let w : Word := BitVec.ofNat 32 v
  let d : DWord := BitVec.ofNat 64 v
  if k = 0x100 then { h with tvec := d }
  else if k = 0x101 then { h with tcause := w }
  else if k = 0x102 then { h with tpc := d }
  else if k = 0x103 then { h with tinfo0 := w }
  else if k = 0x104 then { h with tinfo1 := w }
  else if k = 0x105 then { h with tinfo2 := w }
  else if k = 0x106 then { h with tinfo3 := w }
  else if k = 0x107 then { h with inh := v == 1 }
  else if k = 0x108 then { h with asid := BitVec.ofNat 16 v }
  else if k = 0x109 then { h with ptbase := d }
  else h

/-- A supervisor register is written with a value it takes: one of the house core's own; a boot register after the
first window has opened, which discards it; any other, with the act that the write is. -/
def State.writeSup (s : State) (core k v : Nat) : State :=
  if k < 0x10A then s.setHouse core ((s.houseOf core).setReg k v)
  else if isBoot k && s.windowOpened then s
  else
    let s1 := s.setSup k (BitVec.ofNat 64 v)
    let s2 := { s1 with agenda := s1.agenda ++ (s.actOf k v).toList }
    if k = 0x116 then s2.drainTraps 4096 else s2

/-- TSHn is written: of two bundles' writes in one cycle the higher-numbered one's remains (R112, R320). -/
def Crew.putTsh (k : Crew) (cyc bundle n : Nat) (w : Word) : Crew :=
  match find k.cBy (4096 + n) with
  | some (t, b) => if t = cyc ∧ bundle < b then k
    else { k with tsh := put k.tsh n w, cBy := put k.cBy (4096 + n) (cyc, bundle) }
  | none => { k with tsh := put k.tsh n w, cBy := put k.cBy (4096 + n) (cyc, bundle) }

/-- A register of the user space is written (Table 01-3); flags raised in the same cycle stay in FSTAT (R64). -/
def State.writeUser (s : State) (k v : Nat) : State :=
  let b := s.ref
  let y := s.bundle b
  if k < 0x010 then
    s.setCrew b.core b.slot (s.curCrew.putTsh (s.core b.core).cyc b.bundle k (BitVec.ofNat 32 v))
  else if k = 0x012 then
    let now := (s.core b.core).cyc
    s.setBundle b { y with fstat := BitVec.ofNat 5 v ||| (if y.raised.1 = now then y.raised.2 else 0) }
  else if k = 0x013 then s.setBundle b { y with fmode := BitVec.ofNat 2 v }
  else if k = 0x015 then s.setBundle b { y with htrap := v == 1 }
  else if k = 0x016 then s.setBundle b { y with hintMiss := BitVec.ofNat 32 v }
  else s

/-- What the writer of an acting register waits for (R367): an invalidation that is complete (R371), a slot that has opened
(R386), or the act, which is the next event of the machine. -/
def State.actWait (s : State) (k v : Nat) : EngWait :=
  if k = 0x10F then
    (if bits v 17 16 = 0 then .tlbi 0 (bits v 15 0) (s.supReg 0x10E).toNat (v.testBit 18)
      else if bits v 17 16 = 1 then .tlbi 1 (bits v 15 0) 0 false else .tlbi 2 0 0 false)
  else if k = 0x122 ∧ bits v 1 0 = 2 then .slotOpen (bits v 7 2) (bits v 13 8)
  else .act

/-- `MOVK` (R17-R19, R320, R367): the value of the highest-numbered lane predicated on. -/
def execMovk (k : BitVec 10) (x : Args) (s : State) : Out :=
  let n := k.toNat
  let act := s.act x
  match s.take s.ref ((Instr.movk k x).shape.getD default) x act with
  | .error e => s.settle x (.error e)
  | .ok t =>
    match act.getLast? with
    | none => .next (s.finish x true)
    | some l =>
      let v := s.opVal t x (ctlRegs k) l x.a
      if !ctlOk s.curCrew.ver n v then s.settle x (.error (trapLanes act 2 0))
      else
        let s1 := s.commitPops s.ref act t
        if n < 0x100 then .next ((s1.writeUser n v).finish x true)
        else if ctlActs n && (s.actOf n v).isSome && !(isBoot n && s.windowOpened) then
          .next ((s1.parkDone x (act.map fun l => (l, .engine (s.actWait n v)))).writeSup s.cur.core n v)
        else .next ((s1.finish x true).writeSup s.cur.core n v)

/-- `SUPERVISOR_REGISTER_WRITE` (R363, R364, R367): a write, by house core `house`, to a register with no behaviour of
its own. -/
def execSupervisorRegisterWrite (house : Nat) (k : BitVec 10) (v : DWord) (s : State) : Out :=
  let n := k.toNat
  let v1 := if ctlWide n then v.toNat else v.toNat % 2 ^ 32
  if 16 ≤ house ∨ n < 0x100 ∨ 0x12C < n ∨ ctlActs n ∨ [0x10C, 0x11B, 0x120].contains n ∨ !ctlOk 3 n v1 then .next s
  else .next (s.writeSup (768 + house) n v1)

/-- `SEED_WRITE` (R383): every shift register is loaded anew. -/
def execSeedWrite (v : Word) (s : State) : Out :=
  if s.windowOpened then .next s
  else .next { s.setSup 0x12B ((v.setWidth 16).setWidth 64) with lfsr := [] }

/-! ### Traps and the return -/

/-- `TRAP` (R321). -/
def execTrap (n : Word) (x : Args) (s : State) : Out :=
  let act := s.act x
  if act.isEmpty then .next (s.finish x true) else s.settle x (.error (trapLanes act 0x10 n))

/-- `SVC` (R321). -/
def execSvc (n : Word) (x : Args) (s : State) : Out :=
  let act := s.act x
  if act.isEmpty then .next (s.finish x true) else s.settle x (.error (trapLanes act 0x11 n))

/-- `ERET` (R321, R368): the house core goes on at TPC, outside its handler; a TPC that is no multiple of 16 is a return that
traps ALIGN (R186). -/
def execEret (x : Args) (s : State) : Out :=
  let act := s.act x
  if !isHouse s.cur.core then s.settle x (.error (trapLanes (if act.isEmpty then s.lanes else act) 3 0))
  else
    let h := s.houseOf s.cur.core
    if act.isEmpty then .next (s.finish x true)
    else if h.tpc.toNat % 16 ≠ 0 then s.settle x (.error (.trap (maskOf act) (alignInfo h.tpc)))
    else .next ((s.setHouse s.cur.core { h with inh := false }).finishTo x true fun _ => h.tpc)

/-! ### The calendar query (R322, R384, R386) -/

/-- Fields of a calendar entry (Table 24-9). -/
def calKind (e : Nat) : Nat := bits e 63 60
def calPeriod (e : Nat) : Nat := bits e 59 52
def calPhase (e : Nat) : Nat := bits e 51 44
def calRpt (e : Nat) : Nat := bits e 43 38
def calInterval (e : Nat) : Nat := bits e 37 27
def calMaxlen (e : Nat) : Nat := bits e 26 17
def calOffset (e : Nat) : Nat := bits e 16 0

/-- The entry of a calendar, as a number. -/
def calEntry (c : SMap DWord) (i : Nat) : Nat := (findD c i 0).toNat
/-- The entries that schedule slots. -/
def calUsed (c : SMap DWord) : List Nat := (List.range 64).filter fun i => calPeriod (calEntry c i) != 0

/-- Nanoseconds in a frame. -/
def frameNs : Nat := 1024000
/-- Die cycles in some nanoseconds (Table 24-11). -/
def leadCycles (ns : Nat) : Nat := ns * 9 / 4

/-- The first frame from `f` on in which an entry is used. -/
def calFrom (e f : Nat) : Nat := f + (calPhase e + 255 * calPeriod e - f % calPeriod e) % calPeriod e
/-- The nominal times at which a calendar's slots open, in the frames from `from_` on and below `to_` where one is given: of each
entry the first two frames. Each as nanoseconds from the start of frame 0, with its entry's number and contents. -/
def calTimes (c : SMap DWord) (from_ : Nat) (to_ : Option Nat) : List (Nat × Nat × Nat) :=
  (calUsed c).flatMap fun i =>
    let e := calEntry c i
    let f := calFrom e from_
    ([f, f + calPeriod e].filter fun g => to_.all fun t => decide (g < t)).flatMap fun g =>
      (List.range (calRpt e + 1)).map fun k => (g * frameNs + (calOffset e + k * calInterval e) * 8, i, e)
/-- The slots that are to come, those of a pending calendar from its frame of force on (R384, R392). -/
def State.slotTimes (s : State) : List (Nat × Nat × Nat) :=
  match s.calPending with
  | none => calTimes s.calendar s.frame none
  | some (c, n) => calTimes s.calendar s.frame (some (s.frame + n)) ++ calTimes c (s.frame + n) none

/-- The next slot in force and the die cycles to its nominal OPEN (R386): the one that the die counts to, or whose notice it
keeps; else the first of the calendar after the hub's time in the current frame, which is free (DESIGN CHOICE,
assumption 11). The die cycles, with the entry's number and contents. -/
def State.nextSlot (s : State) (core : Nat) : Option (Nat × Nat × Nat) :=
  let d := s.die (dieOf core)
  let named (t : Nat) (i : SlotId) : Nat × Nat × Nat := (t, i.entry, calEntry s.calendar i.entry)
  let told : Option (Nat × Nat × Nat) :=
    if s.funcBit 4 then none
    else match d.slot, d.kept with
      | .count u, _ => if d.dcyc < u then some (named (u - d.dcyc) d.slotId) else none
      | _, (i, lead, at_) :: _ => if d.dcyc < at_ + leadCycles lead then some (named (at_ + leadCycles lead - d.dcyc) i) else none
      | _, [] => none
  match told with
  | some t => some t
  | none =>
    let now := s.frame * frameNs + (Config.freeWord 1 s.opSeq).toNat % frameNs
    let best := (s.slotTimes.filter fun t => decide (now ≤ t.1)).foldl (fun (m : Option (Nat × Nat × Nat)) t => match m with
      | none => some t
      | some b => if t.1 < b.1 then some t else some b) none
    best.map fun b => (leadCycles (b.1 - now), b.2)

/-- BOUND of a lead (R386). -/
def leadBound (lead : Nat) : Nat := 64 + ceilDiv lead 1024
/-- LEAD for a true lead: any estimate that its own bound allows (R185). -/
def leadGuess (free lead : Nat) : Nat :=
  let b := leadBound lead + 1
  let g := min (lead + free % (2 * b + 1) - b) 0xFFFFFFFF
  if g ≤ lead + leadBound g ∧ lead ≤ g + leadBound g then g else min lead 0xFFFFFFFF

/-- The four words of Table 16-18. -/
def State.slotWords (s : State) (core : Nat) : List Word :=
  match s.nextSlot core with
  | none => [0xF00, 0xFFFFFFFF, 0x00400040, 0]
  | some (t, n, e) =>
    let lead := leadGuess (Config.freeWord 2 s.opSeq).toNat t
    [BitVec.ofNat 32 (calKind e * 256 + n), BitVec.ofNat 32 lead, BitVec.ofNat 32 (leadBound lead),
      BitVec.ofNat 32 (20 * calMaxlen e)]

/-- `SLOTQ` (R322). -/
def execSlotq (x : Args) (s : State) : Out :=
  let act := s.act x
  let b := s.ref
  let ws := s.slotWords b.core
  let tags := dstTags act x.d 4 (fun _ _ => .general) fun _ => ws
  s.withRoom x act tags fun s1 =>
    .next ({ (s1.giveTags b tags).writeDst b x ⟨[], none⟩ act 4 fun _ => ws with opSeq := s.opSeq + 1 }.finish x true)

/-! ### Invalidation (R371) -/

/-- Whether a translation is one that an invalidation drops. -/
def tlbiHits (scope asid va : Nat) (large : Bool) (t : Tlb) : Bool :=
  if scope = 0 then t.asid == asid && t.large == large && tlbHits asid va t
  else scope == 2 || t.asid == asid

/-- Whether a held translation, by account and page, is one of those. -/
def heldHits (scope asid va : Nat) (large : Bool) (h : Nat × Nat) : Bool :=
  if scope = 0 then h.1 == asid && (let n := if large then 2 ^ 26 else 2 ^ 16; h.2 / n == va / n)
  else scope == 2 || h.1 == asid

/-- The translations that an entry of a queue holds. -/
def QEnt.held (e : QEnt) : List (Nat × Nat) :=
  match e with
  | .cmd c => c.held
  | .fence _ => []
def WqEnt.held (e : WqEnt) : List (Nat × Nat) :=
  match e with
  | .push e => e.held
  | .fence _ => []
/-- The crews that stand apart from a core, saved or displaced, each with its commands. -/
def State.awayCrews (s : State) : List (Crew × SMap (List QEnt)) :=
  (s.saved.map fun e => (e.2.1, e.2.2)) ++ s.dies.flatMap fun d => d.2.ready.map fun e => match e with
    | .formed k => (k, [])
    | .displaced k _ _ _ cmds => (k, cmds)
/-- Whether something outstanding still holds a dropped translation: an access, an engine command, or a port's write (R371),
those of crews that are saved or displaced among them. -/
def State.stillHeld (s : State) (scope asid va : Nat) (large : Bool) : Bool :=
  let hit (h : Nat × Nat) : Bool := heldHits scope asid va large h
  let cmds (q : SMap (List QEnt)) : Bool := q.any fun e => e.2.any fun c => c.held.any hit
  let pushes (k : Crew) : Bool := k.bundles.any fun y => y.2.ports.any fun p => p.2.wq.any fun e => e.held.any hit
  (s.cores.any fun x =>
    x.2.pend.any (fun p => p.parts.any fun a => a.scr.isNone && hit (s.asidOf p.ref, a.va)) ||
      cmds x.2.queues || x.2.crews.any fun k => pushes k.2) ||
    (s.awayCrews.any fun k => pushes k.1 || cmds k.2) ||
    s.gangs.any fun g => g.2.heldCmds.any fun e => e.2.2.held.any hit

/-- The translations are dropped everywhere; the writers that wait go on once nothing holds them. -/
def State.invalidate (s : State) (scope asid va : Nat) (large : Bool) : State :=
  let keep (t : Tlb) : Bool := !tlbiHits scope asid va large t
  let s1 := { s with
    cores := s.cores.map fun (e : Nat × Core) => (e.1, { e.2 with tlb := e.2.tlb.filter keep }),
    l2 := s.l2.map fun (e : Nat × List Tlb) => (e.1, e.2.filter keep) }
  if s1.stillHeld scope asid va large then s1
  else s1.mapBundles fun _ y => y.release (fun _ w => w == .engine (.tlbi scope asid va large)) fun _ z => z

/-- `TLBI_PAGE` (R371). -/
def execTlbiPage (asid : Nat) (va : DWord) (large : Bool) (s : State) : Out := .next (s.invalidate 0 asid va.toNat large)
/-- `TLBI_ASID` (R371). -/
def execTlbiAsid (asid : Nat) (s : State) : Out := .next (s.invalidate 1 asid 0 false)
/-- `TLBI_ALL` (R371). -/
def execTlbiAll (s : State) : Out := .next (s.invalidate 2 0 0 false)

end Sys2Proof.Machine
end

