-- ==== Sys2Proof/Machine/Retire.lean ====
section
/-!
DEFINITION. How work ends: bundles and crews retire (R53, R131, R356), stopped bundles go on (R374, R375, R379), and the
firmware ends a launch or a pigeonhole bundle (R375).
-/

namespace Sys2Proof.Machine

/-! ### Retirement (R53) -/

/-- A crew that has gone is no longer a member of its gang; the last one takes the gang with it. -/
def State.leaveGang (s : State) (gang : Option Nat) (core slot : Nat) : State :=
  match gang with
  | none => s
  | some gn =>
    let g := s.gangOf gn
    let g1 := { g with members := g.members.filter fun m => m.2 != (core, slot) }
    if g1.members.isEmpty && g1.saved.isEmpty then { s with gangs := del s.gangs gn }
    else
      let s1 := s.setGang gn g1
      match g1.members with
      | m :: _ => s1.leaveCheck m.2.1 m.2.2
      | [] => s1

/-- One crew fewer of a replica; a replica with none left has retired. -/
def Launch.crewGone (y : Launch) (replica : Nat) : Launch :=
  let n := findD y.left replica 0 - 1
  if n = 0 then { y with left := del y.left replica, reps := put y.reps replica .retired }
  else { y with left := put y.left replica n }

/-- The die at which a replica of a launch starts (R356). -/
def firstDie (lseq : Nat) : Nat := lseq % 4
/-- Replicas that no die had room for are offered again when a crew retires (R356). -/
def State.wakeWaiting (s : State) : State :=
  { s with launches := s.launches.map fun (e : Nat × Launch) =>
      (e.1, { e.2 with reps := e.2.reps.map fun (r : Nat × RepSt) =>
        match r.2 with
        | .waiting fails => (r.1, .offered (firstDie e.1) fails 0)
        | _ => r }) }

/-- What freed storage lets go on at a core (R26, R92). -/
def State.freed (s : State) (core : Nat) : State := ((s.settleQueues core 4096).storageFreed core).blocksFreed core

/-- A crew whose last bundle has retired. -/
def State.retireCrew (s : State) (core slot : Nat) : State :=
  let k := s.crew core slot
  let s1 := (s.dropCrew core slot).leaveGang k.gang core slot
  let s2 := match find s1.launches k.lseq with
    | some y => { s1 with launches := put s1.launches k.lseq (y.crewGone k.replica) }
    | none => s1
  s2.wakeWaiting.freed core

/-- What happens before something that follows a bundle's retirement: what its lanes have done and acquired, and what the engines
and write queues that served it have done (R131); with `un` also on UN pages (R104, R113). The engines' writes are those of its
crew (DESIGN CHOICE, assumption 49). -/
def State.bundleView (s : State) (b : BRef) (un : Bool) : View :=
  let ls := (s.bundle b).lanes.map (·.1)
  let a := s.agentOf b
  let engines (u : Bool) : List Nat :=
    ((List.range 7).map fun q => queueAuthor a q u) ++ (List.range 8).map fun n => portAuthor a b.bundle n u
  let v := (engines false).foldl (fun (v : View) e => v.bump e (s.clock + 1)) (s.released b ls s.opSeq)
  if un then (engines true).foldl (fun (v : View) e => v.bump e (s.clock + 1))
      (ls.foldl (fun (v : View) l => v.bump (laneAuthor a b.bundle l true) s.opSeq) v)
  else v

/-- A launch's work has done something (R113). -/
def State.workDone (s : State) (lseq : Nat) (v : View) : State :=
  match find s.launches lseq with
  | some y => { s with launches := put s.launches lseq { y with view := y.view.join v } }
  | none => s

/-- `BUNDLE_RETIRE` (R53, R131): one combined return for each domain. -/
def execBundleRetire (at_ : BRef) (s : State) : Out :=
  let y := s.bundle at_
  if !s.hasBundle at_ || isHouse at_.core || y.live != 0 || s.busyBundle at_ || (s.crew at_.core at_.slot).run != .running then .next s
  else
    let s1 := y.rsums.foldl (fun s1 e => s1.giveBack e.1 e.2 (s.bundleView at_ false)) s
    let s2 := (s1.workDone (s.crew at_.core at_.slot).lseq (s.bundleView at_ true)).count 0 y.hintMiss.toNat
    let k := s2.crew at_.core at_.slot
    let k1 := { k with bundles := del k.bundles at_.bundle }
    let s3 := s2.setCrew at_.core at_.slot k1
    if k1.bundles.isEmpty then .next (s3.retireCrew at_.core at_.slot)
    else .next ((s3.leaveCheck at_.core at_.slot).freed at_.core)

/-! ### Going on after a trap (R374, R375, R379) -/

/-- Whether a wait has nothing more to come for it, so that its course may execute again. -/
def State.retryOk (s : State) (b : BRef) (w : Why) : Bool :=
  match w with
  | .line _ | .port | .storage | .blocks | .accesses | .fault none | .engine (.rrecv _ _ _ _) | .engine .office => true
  | .refetch l => !s.refetch.contains l
  | .fault (some i) => !((find (s.core b.core).fbuf i).any fun f => f.ref == b)
  | .engine .query => s.answered b.core b
  | .engine (.matrix ops) => ops.all fun o => !s.opOut o
  | _ => false

/-- Whether a bundle's trap record still waits to be posted. -/
def State.unposted (s : State) (b : BRef) : Bool :=
  s.trapWait.any fun m => m.core == b.core && m.slot == b.slot && m.bundle == b.bundle

/-- `TRESUME` (R375): a stopped bundle goes on at TPC or TPC + 16. In host-assisted poison recovery it also releases the
readers of a bundle (R379). -/
def execTresume (at_ : BRef) (adv : Bool) (s : State) : Out :=
  if !s.hasBundle at_ then .next s
  else
    let y := s.bundle at_
    match y.stopped with
    | none => .next (if s.funcBit 6 then s.resume at_ fun w => match w with
        | .refetch _ => true
        | _ => false else s)
    | some p =>
      if s.unposted at_ then .next s
      else
        let y1 := { y with stopped := none }.mapLanes (lanesOf p.course) fun _ z =>
          { z with pc := if adv then p.pc + 16 else p.pc }
        let s1 := s.setBundle at_ y1
        .next (s1.resume at_ (s1.retryOk at_))

/-! ### Ending work (R375) -/

/-- Weight that lanes and return sums of a crew hold. -/
def Crew.weight (k : Crew) : Nat :=
  k.bundles.foldl (fun a e => a + e.2.lanes.foldl (fun a l => if e.2.live.getLsbD l.1 then a + l.2.wt.toNat else a) 0 +
    e.2.rsums.foldl (fun a r => a + r.2) 0) 0
/-- The shares that a command carries. -/
def Cmd.shares (c : Cmd) : Nat :=
  match c.body with
  | .copy y => y.lanes.foldl (fun a q => a + q.share) 0
  | _ => 0
def QEnt.shares (e : QEnt) : Nat :=
  match e with
  | .cmd c => c.shares
  | .fence _ => 0

/-- The crews of a piece of work on their cores. -/
def State.workCrews (s : State) (lseq : Nat) : List (Nat × Nat) :=
  s.cores.flatMap fun x => (x.2.crews.filter fun k => !isHouse x.1 && k.2.lseq == lseq).map fun k => (x.1, k.1)

/-- The replicas whose mint has not been applied. -/
def State.unminted (s : State) (lseq replica : Nat) : Bool := s.qmsgs.any fun m => m.kind == .mint (some (lseq, replica))

def ReadyEnt.lseq (e : ReadyEnt) : Nat :=
  match e with
  | .formed k => k.lseq
  | .displaced k _ _ _ _ => k.lseq
def ReadyEnt.cmds (e : ReadyEnt) : SMap (List QEnt) :=
  match e with
  | .formed _ => []
  | .displaced _ _ _ _ cmds => cmds

/-- Whether an entry of a queue belongs to one of some crews. -/
def QEnt.ofAny (e : QEnt) (p : BRef → Bool) : Bool :=
  match e with
  | .cmd c => p c.ref
  | .fence _ => false

/-- An attention command leaves its context's count (R164). -/
def State.attnGone (s : State) (ctx : Nat) : State :=
  match find s.ctxs ctx with
  | some x => { s with ctxs := put s.ctxs ctx { x with inflight := x.inflight - 1 } }
  | none => s
def State.attnsGone (s : State) (es : List QEnt) : State :=
  es.foldl (fun s e => match e with
    | .cmd c => (match c.body with
      | .attn a => s.attnGone a.ctx
      | _ => s)
    | .fence _ => s) s

/-- The entries of some crews in the queues of cores, and those of a gang's restored members that stand back until the last of
them is restored. -/
def State.workEntries (s : State) (p : BRef → Bool) : List QEnt :=
  (s.cores.flatMap fun x => x.2.queues.flatMap fun q => q.2.filter fun e => e.ofAny p) ++
    s.gangs.flatMap fun g => (g.2.heldCmds.map fun e => e.2.2).filter fun e => e.ofAny p
def sharesIn (m : SMap (List QEnt)) : Nat := m.foldl (fun a q => q.2.foldl (fun a e => a + e.shares) a) 0

/-- Accesses of some crews that are still outstanding are performed (R47, R375). -/
def State.performAll (s : State) (p : BRef → Bool) : State :=
  s.cores.foldl (fun s x => (x.2.pend.filter fun e => p e.ref).foldl (fun s e =>
    let r := e.parts.foldl (fun (a : State × List (Nat × Nat × List Byte)) q =>
      let g := a.1.performPart e q
      (g.1, a.2 ++ [(q.lane, q.off, g.2)])) (s, [])
    r.1.pendDone { e with parts := [], got := e.got ++ r.2 }) s) s

/-- The weight of a piece of work, wherever it is held. -/
def State.workWeight (s : State) (lseq : Nat) : Nat :=
  let crews := s.workCrews lseq
  let p (b : BRef) : Bool := crews.contains (b.core, b.slot)
  let lanes := crews.foldl (fun a c =>
    if s.unminted lseq (s.crew c.1 c.2).replica then a else a + (s.crew c.1 c.2).weight) 0
  let cmds := (s.workEntries p).foldl (fun a e => a + e.shares) 0
  let coming := s.grants.foldl (fun a g => if p g.1 then a + g.2.2 else a) 0
  let saved := (s.saved.filter fun e => e.2.1.lseq == lseq).foldl (fun a e =>
    a + (readCrew (fun o n => s.mem.readNat (e.1 + o) n) e.2.1).weight + sharesIn e.2.2) 0
  let ready := s.dies.foldl (fun a d => (d.2.ready.filter fun e => e.lseq == lseq).foldl (fun a e =>
    a + (s.readyCrew e).1.weight + sharesIn e.cmds) a) 0
  lanes + cmds + coming + saved + ready + findD s.stopWt lseq 0

/-- Everything on its way for some crews' lanes is dropped, and their commands leave every queue, those of saved and displaced
crews of the work with them. -/
def State.dropWork (s : State) (lseq : Nat) (p : BRef → Bool) : State :=
  let away := ((s.saved.filter fun e => e.2.1.lseq == lseq).map fun e => e.2.2) ++
    s.dies.flatMap fun d => (d.2.ready.filter fun e => e.lseq == lseq).map ReadyEnt.cmds
  let gone := s.workEntries p ++ away.flatMap fun m => m.flatMap fun q => q.2
  let ids := gone.filterMap fun e => match e with
    | .cmd c => some c.id
    | .fence _ => none
  let s1 := (s.disarm p).attnsGone gone
  { s1 with
    cores := s1.cores.map fun (x : Nat × Core) => (x.1, { x.2 with
      queues := (x.2.queues.map fun (q : Nat × List QEnt) => (q.1, q.2.filter fun e => !e.ofAny p)).filter fun q => !q.2.isEmpty,
      queries := x.2.queries.filter fun q => !p q.ref,
      pins := x.2.pins.filter fun e => !ids.contains e.1,
      pend := x.2.pend.filter fun e => !p e.ref,
      holds := x.2.holds.filter fun h => h.lseq != lseq,
      matFaults := x.2.matFaults.filter fun e => !ids.contains e.1 }),
    grants := s1.grants.filter fun g => !p g.1,
    qmsgs := s1.qmsgs.filter fun m => !(m.kind.answered && p m.ref) && !(match m.kind with
      | .mint (some q) => q.1 == lseq
      | _ => false),
    issue := s1.issue.filter fun c => !p ⟨c.core, c.slot, c.bundle⟩,
    dies := s1.dies.map fun (d : Nat × Die) => (d.1, { d.2 with
      arriving := d.2.arriving.filter fun a => !(a.answer && p a.ref),
      spillWait := d.2.spillWait.filter fun a => !p a.ref,
      ready := d.2.ready.filter fun e => e.lseq != lseq }),
    saved := s1.saved.filter fun e => e.2.1.lseq != lseq }

/-- A launch that is ended: none of its replicas is left. -/
def Launch.end_ (y : Launch) (status cause : Nat) : Launch :=
  { y with ended := some (status, cause), left := [], reps := y.reps.map fun (r : Nat × RepSt) => (r.1, .retired) }

/-- `LEND` (R375): all the weight that the work holds goes to LENDW. -/
def execLend (lseq : Nat) (s : State) : Out :=
  let crews := s.workCrews lseq
  let saved := s.saved.filter fun e => e.2.1.lseq == lseq
  let ready := s.dies.flatMap fun d => d.2.ready.filter fun e => e.lseq == lseq
  let open_ := (find s.launches lseq).isSome
  if lseq = 0 ∨ (crews.isEmpty ∧ saved.isEmpty ∧ ready.isEmpty ∧ !open_) then .next s
  else
    let p (b : BRef) : Bool := crews.contains (b.core, b.slot)
    let s0 := s.performAll p
    let w := s0.workWeight lseq
    let gangs := (crews.filterMap fun c => (s0.crew c.1 c.2).gang) ++ saved.filterMap fun e => e.2.1.gang
    let s1 := ready.foldl (fun s e => s.freeArea e) (s0.dropWork lseq p)
    let s2 := crews.foldl (fun s c => s.dropCrew c.1 c.2) s1
    let s3 := { s2 with gangs := s2.gangs.filter fun g => !gangs.contains g.1, stopWt := del s2.stopWt lseq }
    let s4 := match find s3.launches lseq with
      | some y => { s3 with launches := put s3.launches lseq (y.end_ 1 (s3.supReg 0x119).toNat) }
      | none => s3
    let misses := crews.foldl (fun a c => (s0.crew c.1 c.2).bundles.foldl (fun a e => a + e.2.hintMiss.toNat) a) 0
    let s5 := (s4.setSup 0x11B (BitVec.ofNat 64 w)).count 0 misses
    .next ((crews.foldl (fun s c => s.freed c.1) s5).wakeMwait.wakeWaiting)

end Sys2Proof.Machine
end

