-- ==== Sys2Proof/Machine/Context.lean ====
section
/-!
DEFINITION. Segments, contexts, overlays and cache pages (R151-R181, R398): what the context manager keeps, and the
operations its forms share.
-/

namespace Sys2Proof.Machine

/-! ### Shapes and records (Tables 08-1, 08-2) -/

/-- The byte size of one vector, rounded up to 16 (R152). -/
def kbOf (fmt hdim : Nat) : Nat := (if fmt = 2 then 18 * hdim / 16 else 2 * hdim) + 15 - ((if fmt = 2 then 18 * hdim / 16 else 2 * hdim) + 15) % 16
/-- Tokens per page, from its code. -/
def tppOf (code : Nat) : Nat := 8 * 2 ^ code
def shapeOk (layers kvh hdim fmt tpp : Nat) : Bool :=
  decide (1 ≤ layers) && decide (1 ≤ kvh) && decide (2 ≤ hdim) && decide (hdim ≤ 256) && hdim % 2 == 0 &&
    (fmt == 2 || fmt == 3 || fmt == 4) && (fmt != 2 || hdim % 16 == 0) && decide (tppOf tpp * kbOf fmt hdim ≤ 8192)

def Seg.n (g : Seg) : Nat := g.record.toNat
def Seg.layers (g : Seg) : Nat := bits g.n 159 152
def Seg.kvh (g : Seg) : Nat := bits g.n 167 160
def Seg.hdim (g : Seg) : Nat := bits g.n 176 168
def Seg.fmt (g : Seg) : Nat := bits g.n 179 177
def Seg.tpp (g : Seg) : Nat := bits g.n 181 180
def Seg.state (g : Seg) : Nat := bits g.n 183 182
def Seg.ntok (g : Seg) : Nat := bits g.n 151 128
def Seg.name (g : Seg) : Nat := bits g.n 127 64
def Seg.postmark (g : Seg) : Nat := bits g.n 63 0
def Seg.tokAddr (g : Seg) : Nat := bits g.n 255 192
def Seg.maskAddr (g : Seg) : Nat := bits g.n 319 256
def Seg.plAddr (g : Seg) : Nat := bits g.n 383 320
def Seg.acct (g : Seg) : Nat := bits g.n 415 384
def Seg.ebase (g : Seg) : Nat := bits g.n 439 416
def Seg.ectx (g : Seg) : Nat := bits g.n 467 448
def Seg.ev (g : Seg) : Bool := g.n.testBit 468
/-- Pages of one layer and head. -/
def Seg.np (g : Seg) : Nat := ceilDiv g.ntok (tppOf g.tpp)
/-- Entries of the page list (R153). -/
def Seg.entries (g : Seg) : Nat := g.layers * g.kvh * g.np
/-- A field of the record set. -/
def Seg.set (g : Seg) (hi lo v : Nat) : Seg :=
  { g with record := BitVec.ofNat 512 (g.n - bits g.n hi lo * 2 ^ lo + v % 2 ^ (hi + 1 - lo) * 2 ^ lo) }

def Ctx.kb (x : Ctx) : Nat := kbOf x.fmt x.hdim
def Ctx.shape (x : Ctx) : Nat × Nat × Nat × Nat × Nat := (x.layers, x.kvh, x.hdim, x.fmt, x.tpp)
def Seg.shape (g : Seg) : Nat × Nat × Nat × Nat × Nat := (g.layers, g.kvh, g.hdim, g.fmt, g.tpp)
def State.ctx (s : State) (h : Nat) : Ctx := findD s.ctxs h default
def State.setCtx (s : State) (h : Nat) (x : Ctx) : State := { s with ctxs := put s.ctxs h x }
def State.seg (s : State) (h : Nat) : Seg := findD s.segs h default

/-- A context and its ancestors, nearest first: at most four (R156). -/
def State.chain (s : State) (h : Nat) : Nat → List Nat
  | 0 => []
  | n + 1 => h :: (match (s.ctx h).parent with
    | some p => State.chain s p n
    | none => [])

/-- The lowest number below 2^20 that no object has. -/
def freeHandle {α : Type} (m : SMap α) : Option Nat :=
  ((List.range (m.length + 1)).find? fun h => (find m h).isNone).bind fun h => if h < 2 ^ 20 then some h else none

/-! ### The identity of a context's content (R155) -/

/-- R155's mixing function. -/
def mix (x : DWord) : DWord :=
  let x := x ^^^ (x >>> 31)
  let x := x * 0x9FB21C651E98DF25#64
  let x := x ^^^ (x >>> 29)
  let x := x * 0xA24BAED4963EE407#64
  x ^^^ (x >>> 32)

/-- An item below a position: a link, or an appended token. -/
inductive Item
  | link (name base ntok : Nat)
  | tok (t p : Nat)
deriving DecidableEq, Repr

def Item.at_ (i : Item) : Nat :=
  match i with
  | .link _ b _ => b
  | .tok _ p => p
def Item.fold (h : DWord) (i : Item) : DWord :=
  match i with
  | .link name b n => mix (mix (h ^^^ BitVec.ofNat 64 name) ^^^ BitVec.ofNat 64 (b * 2 ^ 24 ||| n))
  | .tok t p => mix (h ^^^ BitVec.ofNat 64 (2 ^ 63 ||| t * 2 ^ 24 ||| p))

/-- Items in ascending position. -/
def sortItems (l : List Item) : List Item :=
  l.foldl (fun a x => (a.filter fun y => decide (y.at_ ≤ x.at_)) ++ [x] ++ a.filter fun y => decide (x.at_ < y.at_)) []

/-- The identity of a context below a position. -/
def State.ident (s : State) (h b : Nat) : DWord :=
  let links := ((s.ctx h).links.filter fun k => decide (k.base < b)).map fun k => Item.link k.name k.base k.ntok
  let toks := (s.chain h 4).flatMap fun c =>
    ((s.ctx c).toks.filter fun e => decide (e.1 < b) && decide (e.1 < (s.ctx c).len)).map fun e => Item.tok e.2 e.1
  let items := sortItems (links ++ toks)
  let r := items.foldl Item.fold 0
  if items.isEmpty then 0 else if r = 0 then 1 else r

/-! ### What the device reads and writes in an account's space (R153, R369) -/

/-- A fault of the device's own access, for the course or command that needs it. -/
def State.devFault (s : State) (b : BRef) (lane acct va : Nat) (acc : Acc) (reason : Nat) : FaultEnt :=
  { s.faultOf b lane va acc with asid := acct, reason := reason, walking := false }

/-- The cells of bytes within one 16 KiB page: by a cached translation, or by a walk in hardware mode. -/
def State.devCells (s : State) (core acct va n : Nat) (acc : Acc) : Except Nat (List Nat) :=
  let use (t : Tlb) : Except Nat (List Nat) :=
    if acc == .write && (!t.writable || t.farRefuses .write) then .error 1
    else .ok ((List.range n).map fun i => t.cellOf (va + i))
  match s.tlbFind core acct va with
  | some t => use t
  | none =>
    if s.funcBit 0 then .error 3
    else
      match s.walkRoot acct va (s.acctRoot acct) with
      | .leaf t => use t
      | .fault r => .error r

/-- Whether an address of an account's space lies in a far page, as `devCells` translates it. -/
def State.devFar (s : State) (core acct va : Nat) : Bool :=
  match s.tlbFind core acct va with
  | some t => t.far
  | none => match s.walkRoot acct va (s.acctRoot acct) with
    | .leaf t => t.far
    | .fault _ => false

/-- Global address of a cache page. -/
def State.pageVa (s : State) (n : Nat) : Nat := (s.supReg 0x10D).toNat + n * 0x4000

/-- Aligned words of an account's space, read one after another; the first that cannot be translated ends it, with the
reason and its address. -/
def State.devWords (s : State) (core acct va : Nat) : Nat → Except (Nat × Nat) (List Nat)
  | 0 => .ok []
  | n + 1 =>
    match s.devCells core acct va 4 .read with
    | .error r => .error (r, va)
    | .ok cs => (State.devWords s core acct (va + 4) n).map fun l => leNat (s.cells cs) :: l

/-- The page numbers of a segment's page list. -/
def State.pageList (s : State) (core : Nat) (g : Seg) : Except (Nat × Nat) (List Nat) :=
  s.devWords core g.acct g.plAddr g.entries

/-- Bits of a segment's sensitivity mask: the tokens that are flagged. -/
def State.flagged (s : State) (core : Nat) (g : Seg) : Except (Nat × Nat) (List Nat) :=
  if g.maskAddr = 0 then .ok []
  else
    let n := ceilDiv g.ntok 8
    ((List.range n).mapM fun i =>
      match s.devCells core g.acct (g.maskAddr + i) 1 .read with
      | .error r => Except.error (r, g.maskAddr + i)
      | .ok cs => .ok (leNat (s.cells cs))).map fun (bs : List Nat) =>
        (List.range g.ntok).filter fun j => (bs.getD (j / 8) 0).testBit (j % 8)

/-! ### Cache pages: references, charges and frames (R176, R177) -/

def State.page (s : State) (n : Nat) : Option Page := find s.pages n
def State.setPage (s : State) (n : Nat) (p : Page) : State := { s with pages := put s.pages n p }

/-- A page is freed, and its charges in every tier it occupies are credited. -/
def State.freePage (s : State) (n : Nat) : State :=
  match s.page n with
  | none => s
  | some p =>
    let s1 := if p.nearF.isSome then s.credit p.acct true 1 else s
    let s2 := if p.farF.isSome then s1.credit p.acct false 1 else s1
    { s2 with pages := del s2.pages n }

/-- One reference more; a count at 65,535 stays. -/
def State.addRef (s : State) (n : Nat) : State :=
  match s.page n with
  | some p => if p.rc < 65535 then s.setPage n { p with rc := p.rc + 1 } else s
  | none => s
/-- One reference less; a page whose count reaches 0 is freed. -/
def State.subRef (s : State) (n : Nat) : State :=
  match s.page n with
  | some p =>
    if p.rc = 65535 ∨ p.rc = 0 then s
    else if p.rc = 1 then s.freePage n else s.setPage n { p with rc := p.rc - 1 }
  | none => s

/-- Near frames: 256 channels of 98,304 (R176). -/
def nearFrames : Nat := 98304
/-- Far frames that the far tier may hold: 8 TiB (R366). -/
def farFrames : Nat := 2 ^ 29
def farBase : Nat := 0x02000000

/-- Whether a near frame is taken: a page stands in it, or has its number (a page keeps its number). -/
def State.nearTaken (s : State) (n : Nat) : Bool := s.pages.any fun p => p.1 == n || p.2.nearF == some n
def State.farTaken (s : State) (i : Nat) : Bool := s.pages.any fun p => p.1 == farBase + i || p.2.farF == some i

/-- The lowest free frame of a channel, as a page number. -/
def State.channelFree (s : State) (c : Nat) : Option Nat :=
  ((List.range (min nearFrames (2 * s.pages.length + 1))).find? fun f => !s.nearTaken (f * 256 + c)).map fun f => f * 256 + c
/-- The channel from which a near frame is taken, from the cursor on. -/
def State.nearFrame (s : State) (cursor : Nat) : Option Nat :=
  (List.range 256).findSome? fun i => s.channelFree ((cursor + i) % 256)
def State.farFrame (s : State) : Option Nat :=
  (List.range (min farFrames (2 * s.pages.length + 1))).find? fun i => !s.farTaken i

/-- Pages allocated one after another: the state, the cursor and the numbers; none when frames run out. -/
def State.allocGo (s : State) (near ofSeg : Bool) (acct owner cursor : Nat) : Nat → Option (State × Nat × List Nat)
  | 0 => some (s, cursor, [])
  | n + 1 =>
    if near then
      match s.nearFrame cursor with
      | none => none
      | some f =>
        let s1 := s.setPage f ⟨.near, acct, ofSeg, owner, 0, some f, none, false⟩
        (State.allocGo s1 near ofSeg acct owner ((f + 1) % 256) n).map fun r => (r.1, r.2.1, f :: r.2.2)
    else
      match s.farFrame with
      | none => none
      | some i =>
        let s1 := s.setPage (farBase + i) ⟨.far, acct, ofSeg, owner, 0, none, some i, false⟩
        (State.allocGo s1 near ofSeg acct owner cursor n).map fun r => (r.1, r.2.1, (farBase + i) :: r.2.2)

/-- R176: all pages or none; the status otherwise. -/
def State.allocPages (s : State) (near ofSeg : Bool) (acct owner cursor k : Nat) : Except Nat (State × Nat × List Nat) :=
  match s.charge acct near k with
  | none => .error 1
  | some s1 =>
    match s1.allocGo near ofSeg acct owner cursor k with
    | none => .error 2
    | some r => .ok r

/-! ### Overlays (R161, R398) -/

/-- The overlay page of a window, layer and head. -/
def Ctx.ovPage (x : Ctx) (w l h : Nat) : Option Nat := (x.ovPages.find? fun e => e.1 == (w, l, h)).map (·.2)
def Ctx.window (x : Ctx) (p : Nat) : Nat := p / tppOf x.tpp
def Ctx.hasSlot (x : Ctx) (p l h : Nat) : Bool := x.ovSlots.contains (p, l, h)
/-- Offset of a slot's key in its page; the value lies 8,192 further on. -/
def Ctx.slotOff (x : Ctx) (p : Nat) : Nat := p % tppOf x.tpp * x.kb

/-- The overlay page for a slot: the one there is, an unused page of the context, or a new one charged to its account;
the status otherwise. Of several unused pages the one allocated first is taken (DESIGN CHOICE, assumption 59). -/
def State.ovTake (s : State) (c w l h : Nat) : Except Nat (State × Nat) :=
  let x := s.ctx c
  match x.ovPage w l h, x.spare with
  | some n, _ => .ok (s, n)
  | none, n :: r => .ok (s.setCtx c { x with spare := r, ovPages := x.ovPages ++ [((w, l, h), n)] }, n)
  | none, [] =>
    match s.allocPages true false x.acct c x.cursor 1 with
    | .error st => .error st
    | .ok (s1, cur, ns) =>
      let n := ns.headD 0
      .ok (s1.setCtx c { s1.ctx c with cursor := cur, ovPages := x.ovPages ++ [((w, l, h), n)] }, n)

/-- The cells of a slot's key and value in its page. -/
def State.slotCells (s : State) (core c n p : Nat) (acc : Acc) : Except Nat (List Nat) :=
  let x := s.ctx c
  let va := s.pageVa n + x.slotOff p
  match s.devCells core x.acct va x.kb acc, s.devCells core x.acct (va + 8192) x.kb acc with
  | .ok k, .ok v => .ok (k ++ v)
  | .error r, _ => .error r
  | _, .error r => .error r

/-- A slot is written as one: key and value bytes, and it is present (R161, R171). -/
def State.slotWrite (s : State) (c n p l h : Nat) (cells : List Nat) (bs : List Byte) : State :=
  let s1 := (s.wrotePage (s.pageVa n)).storePhys (cells.zip bs)
  let x := s1.ctx c
  s1.setCtx c (if x.hasSlot p l h then x else { x with ovSlots := x.ovSlots ++ [(p, l, h)] })

/-- Slots that `keep` does not accept are discarded, and the overlay pages that hold none are freed. -/
def State.dropSlots (s : State) (c : Nat) (keep : Nat → Bool) : State :=
  let x := s.ctx c
  let slots := x.ovSlots.filter fun e => keep e.1
  let used (e : (Nat × Nat × Nat) × Nat) : Bool :=
    slots.any fun q => x.window q.1 == e.1.1 && q.2 == e.1.2
  let gone := (x.ovPages.filter fun e => !used e).map (·.2)
  gone.foldl State.freePage (s.setCtx c { x with ovSlots := slots, ovPages := x.ovPages.filter used })

/-! ### Where a position's entry stands (R161) -/

/-- The place of an entry: an overlay slot of a context, a slot of a segment's page, or nothing. -/
inductive Entry
  | hole
  | overlay (c n p : Nat)
  | linked (seg idx slot : Nat)
deriving DecidableEq, Repr

/-- Whether a context's overlay has a slot that translation finds: one that `SPECR` has left at or above LEN is not read (R161,
R175). -/
def Ctx.readSlot (x : Ctx) (p l h : Nat) : Bool := decide (p < x.len) && x.hasSlot p l h

/-- R161. -/
def State.translate (s : State) (c : Nat) (chain : List Nat) (p l h : Nat) : Entry :=
  match chain.find? fun x => (s.ctx x).readSlot p l h with
  | some x =>
    match (s.ctx x).ovPage ((s.ctx x).window p) l h with
    | some n => .overlay x n p
    | none => .hole
  | none =>
    match (s.ctx c).links.find? fun k => decide (k.base ≤ p) && decide (p < k.base + k.ntok) with
    | none => .hole
    | some k =>
      let g := s.seg k.seg
      let j := p - k.base
      .linked k.seg ((l * g.kvh + h) * g.np + j / tppOf g.tpp) (j % tppOf g.tpp)

/-- One past the highest position that a context's links and appended tokens occupy (Table 08-2). -/
def Ctx.reach (x : Ctx) : Nat :=
  (x.toks.filter fun e => decide (e.1 < x.len)).foldl (fun a e => max a (e.1 + 1))
    (x.links.foldl (fun a k => max a (k.base + k.ntok)) 0)

/-- Attention commands on a context that have started, wherever they are: the LEN each has taken. -/
def State.takenLens (s : State) (c : Nat) : List Nat :=
  let of (e : QEnt) : Option Nat := match e with
    | .cmd m => (match m.body with
      | .attn a => if a.ctx = c then a.started.map (·.1) else none
      | _ => none)
    | .fence _ => none
  (s.cores.flatMap fun x => (findD x.2.queues qAttn []).filterMap of) ++
  (s.awayCrews.flatMap fun e => (findD e.2 qAttn []).filterMap of) ++
  s.gangs.flatMap fun g => g.2.heldCmds.filterMap fun e => of e.2.2

end Sys2Proof.Machine
end

