-- ==== Sys2Proof/Machine/Shingles.lean ====
section
/-!
DEFINITION. Moves of a cache page between its near and its far frame (R178, R181): the frame of a far page as the device
writes it, and the bytes that a promotion brings back.
-/

namespace Sys2Proof.Machine

/-! ### Shingles (R181, Table 09-5) -/

/-- A shingle of a KIND: its header, with the check over its stored bytes, and those bytes. -/
def shingle (kind : Nat) (body : List Byte) : List Byte :=
  leBytes (kind * 2 ^ 30 + (body.length + 4) * 2 ^ 16 + (crc16 body).toNat) 4 ++ body

/-- The 128 elements of 256 bytes. -/
def elems16 (bs : List Byte) : List Nat := (List.range 128).map fun e => leNat ((bs.drop (2 * e)).take 2)
/-- Whether every exponent field lies within B_E - 8 to B_E + 7. -/
def deltaFits (mb eb : Nat) (xs : List Nat) : Bool :=
  let ex (x : Nat) : Nat := x / 2 ^ mb % 2 ^ eb
  let b := ex (xs.headD 0)
  xs.all fun x => decide (b ≤ ex x + 8) && decide (ex x ≤ b + 7)
/-- The stored bytes of an exponent-delta shingle. -/
def deltaBody (mb eb : Nat) (xs : List Nat) : List Byte :=
  let ex (x : Nat) : Nat := x / 2 ^ mb % 2 ^ eb
  let b := ex (xs.headD 0)
  let pack (w : Nat) (f : Nat → Nat) : Nat := xs.zipIdx.foldl (fun a e => a + f e.1 * 2 ^ (w * e.2)) 0
  leBytes b 1 ++ leBytes (pack 4 fun x => (ex x + 16 - b) % 16) 64 ++
    leBytes (pack (mb + 1) fun x => x / 2 ^ 15 * 2 ^ mb + x % 2 ^ mb) (16 * (mb + 1))

/-- The shingle of 256 bytes of a page; `fmt` is the format of the page's entries. -/
def shingleOf (fmt : Nat) (bs : List Byte) : List Byte :=
  let xs := elems16 bs
  if fmt = 3 ∧ deltaFits 10 5 xs then shingle 1 (deltaBody 10 5 xs)
  else if fmt = 4 ∧ deltaFits 7 8 xs then shingle 1 (deltaBody 7 8 xs)
  else shingle 0 bs

/-- A far frame: its directory, and its shingles one after another. -/
def frameOf (fmt : Nat) (page : List Byte) : List Byte :=
  let sh := (List.range 64).map fun i => shingleOf fmt ((page.drop (256 * i)).take 256)
  let dir := sh.foldl (fun (a : Nat × List Byte) b => (a.1 + b.length, a.2 ++ leBytes a.1 2)) (128, [])
  dir.2 ++ sh.flatten

/-! ### The bytes of a move (R178) -/

/-- The far copy is written from the near frame. A near line carried as poison leaves its shingle's lines so. -/
def State.writeFar (s : State) (fmt near far : Nat) : State :=
  let a := Config.nearAddr near
  let b := Config.farAddr far
  let s1 := s.storePhysL b (frameOf fmt (s.mem.readN a 16384))
  let bad := ((List.range 64).filter fun i => (linesOf (a + 256 * i) 256).any s.poison.contains).flatMap fun i =>
    shingleLines s1.mem b (256 * i)
  { s1 with poison := bad.foldl (fun l x => insertNat x l) s1.poison }

/-- The far copy is decoded into the near frame. A shingle that fails its check, or is carried as poison, leaves the four lines
it stands for so. -/
def State.readFar (s : State) (near far : Nat) : State :=
  let a := Config.nearAddr near
  let b := Config.farAddr far
  let s1 := s.storePhysL a ((List.range 64).flatMap fun i =>
    let f := (shingleBytes s.mem b i).getD fun _ => 0
    (List.range 256).map f)
  let bad := ((List.range 64).filter fun i =>
    (shingleBytes s.mem b i).isNone || (shingleLines s.mem b (256 * i)).any s.poison.contains).flatMap fun i =>
    linesOf (a + 256 * i) 256
  { s1 with poison := bad.foldl (fun l x => insertNat x l) s1.poison }

end Sys2Proof.Machine
end

