-- ==== Sys2Proof/Machine/Manager.lean ====
section
/-!
DEFINITION. The manager forms of class 0xA (Table 16-3, R293-R301, R305-R308): one meaning for each form.
-/

namespace Sys2Proof.Machine

/-! ### Answers (R294, R295) -/

/-- A manager form: one act for the course, once the lanes' earlier accesses have been performed, since it is a release of
theirs. -/
def State.mgr (s : State) (i : Instr) (x : Args) (k : State → Taken → Nat → Out) : Out :=
  match s.awaitOwn (s.act x) with
  | .error e => s.settle x (.error e)
  | .ok _ => s.course1 i x (k s)

/-- The acquire and the release at .dev that a manager form is: the manager's forms stand in one order, and each lane learns what
those before it have released. -/
def State.mgrSync (s : State) (act : List Nat) : State :=
  let s1 := s.learnAll s.ref act s.mgrView
  { s1 with mgrView := s1.mgrView.join (s1.released s1.ref act s1.opSeq), opSeq := s1.opSeq + 1 }

/-- The result word (Table 16-1). -/
def resultWord (st v : Nat) : Nat := st * 2 ^ 28 + if st = 0 then v % 2 ^ 24 else 0

/-- The answer of a form, with its effect. -/
def State.answer (s : State) (i : Instr) (x : Args) (t : Taken) (st v : Nat) (f : State → State) : Out :=
  let act := s.act x
  s.giveResults (i.shape.getD default) x t act
    (act.map fun l => (l, ({ val := BitVec.ofNat 64 (resultWord st v) } : LOut)))
    fun s1 => (if st = 1 then (f s1).count 7 1 else f s1).mgrSync act
/-- A refusal: nothing but the result word. -/
def State.refuse (s : State) (i : Instr) (x : Args) (t : Taken) (st : Nat) : Out := s.answer i x t st 0 id

/-- A parameter block in scratchpad, read as an ordinary load, as a number (R295). -/
def State.block (s : State) (x : Args) (l a n align : Nat) (k : State → Nat → Out) : Out :=
  match forAll (s.act x) (alignAll [(l, a, align, false)]) with
  | .error e => s.settle x (.error e)
  | .ok _ =>
    match forAll (s.act x) (s.scrAll s.ref true [(l, BitVec.ofNat 32 a, n)]) with
    | .error e => s.settle x (.error e)
    | .ok ts => s.readRecord [] (ts.flatMap fun t => s.scrParts l t.2.1 t.2.2.1 t.2.2.2 n plain none (s.unOf l) []) k x

/-- Words of 32 bits in global memory, read as ordinary loads of a lane, as a number. -/
def State.globalWords (s : State) (x : Args) (l a n : Nat) (k : State → Nat → Out) : Out :=
  match forAll (s.act x) (s.xlateAll s.ref .read ((List.range n).map fun i => (l, a + 4 * i, 4))) with
  | .error e => s.settle x (.error e)
  | .ok xs =>
    match s.refetchWait xs with
    | .error e => s.settle x (.error e)
    | .ok _ => s.readRecord (xs.flatMap fun e => e.2.es) (xs.flatMap fun e => e.2.parts l 4 true false plain none (s.unOf l) []) k x

/-- A handle of an operand: bits [19:0] (R295). -/
def State.handle (s : State) (t : Taken) (x : Args) (l : Nat) (o : Opnd) : Nat := s.opVal t x 1 l o % 2 ^ 20
/-- The account of the launch, or of the house core (Table 24-1). -/
def State.myAcct (s : State) : Nat := s.asidOf s.ref
def State.ownCtx (s : State) (h : Nat) : Bool := (find s.ctxs h).any fun x => x.acct == s.myAcct

/-- What keeps the manager from reading or writing what it needs. -/
inductive MStop
  | status (n : Nat)
  | fault (reason va acct : Nat) (acc : Acc)
  /-- a page that it writes is being promoted (Table 09-4) -/
  | busy
deriving DecidableEq, Repr

/-- The course waits for a page that the device needs (R95), or takes a status. -/
def State.mstop (s : State) (i : Instr) (x : Args) (t : Taken) (l : Nat) (e : MStop) : Out :=
  match e with
  | .status n => s.refuse i x t n
  | .busy => s.settle x (.error (.wait [(l, .fault none)]))
  | .fault r va acct acc => s.settle x (.error (.fault (s.devFault s.ref l acct va acc r) (s.act x)))

/-- The pages of some links, once for each page list entry (R177). -/
def State.linkPages (s : State) (core : Nat) : List Nat → Except MStop (List Nat)
  | [] => .ok []
  | g :: r =>
    match s.pageList core (s.seg g) with
    | .error e => .error (.fault e.1 e.2 (s.seg g).acct .read)
    | .ok ns => (State.linkPages s core r).map fun l => ns ++ l

/-! ### Segments (R296, R297) -/

/-- The image of a segment record that `SEGNEW` accepts, but for ECTX. -/
def segImageOk (v : Nat) : Bool :=
  bits v 127 0 == 0 && bits v 183 182 == 0 && bits v 415 384 == 0 && bits v 511 469 == 0 && bits v 191 184 == 0 &&
    bits v 447 440 == 0 && shapeOk (bits v 159 152) (bits v 167 160) (bits v 176 168) (bits v 179 177) (bits v 181 180) &&
    bits v 151 128 != 0 && bits v 255 192 % 4 == 0 && bits v 383 320 % 4 == 0 && bits v 255 248 == 0 &&
    bits v 319 312 == 0 && bits v 383 376 == 0

/-- `SEGNEW` (R151, R152, R296). -/
def execSegnew (x : Args) (s : State) : Out :=
  s.mgr (.segnew x) x fun s t l =>
    s.block x l (s.opVal t x 1 l x.a) 64 64 fun s v =>
      let g : Seg := ⟨BitVec.ofNat 512 v, 0, false⟩
      let ectxOk := if g.ev then s.ownCtx g.ectx && decide (g.ebase ≤ (s.ctx g.ectx).len) else g.ectx == 0 && g.ebase == 0
      if !segImageOk v || !ectxOk then s.refuse (.segnew x) x t 4
      else
        match freeHandle s.segs with
        | none => s.refuse (.segnew x) x t 5
        | some h =>
          let g1 := (g.set 415 384 s.myAcct).set 127 64 (s.serial * 2 ^ 20 + h)
          s.answer (.segnew x) x t 0 h fun s =>
            { s with segs := put s.segs h { g1 with cursor := h % 256 }, serial := (s.serial + 1) % 2 ^ 44 }

/-- The 64 KiB pages of a range, by account. -/
def roPages (acct va n : Nat) : List (Nat × Nat) :=
  if n = 0 then [] else (List.range ((va + n - 1) / 65536 - va / 65536 + 1)).map fun i => (acct, va / 65536 + i)
/-- What `SEGSEAL` makes read-only beside the cache pages: identifiers, mask and page list (R154). -/
def Seg.roVa (g : Seg) : List (Nat × Nat) :=
  roPages g.acct g.tokAddr (4 * g.ntok) ++ (if g.maskAddr = 0 then [] else roPages g.acct g.maskAddr (ceilDiv g.ntok 8)) ++
    roPages g.acct g.plAddr (4 * g.entries)

/-- `SEGSEAL` (R154, R155, R297). -/
def execSegseal (x : Args) (s : State) : Out :=
  s.mgr (.segseal x) x fun s t l =>
    let h := s.handle t x l x.a
    let g := s.seg h
    if (find s.segs h).isNone || g.acct != s.myAcct || g.state != 0 then s.refuse (.segseal x) x t 4
    else
      match s.pageList s.cur.core g with
      | .error e => s.mstop (.segseal x) x t l (.fault e.1 e.2 g.acct .read)
      | .ok ns =>
        if !(ns.all fun n => (s.page n).any fun p => p.ofSeg && p.owner == h) || (g.ev && (find s.ctxs g.ectx).isNone) then
          s.refuse (.segseal x) x t 4
        else
          let pm := if g.ev then (s.ident g.ectx g.ebase).toNat else 0
          s.answer (.segseal x) x t 0 0 fun s =>
            let s1 := ns.foldl State.addRef { s with segs := put s.segs h { (g.set 63 0 pm).set 183 182 1 with sealed_ := true } }
            { s1 with
              pages := s1.pages.map fun (e : Nat × Page) => if ns.contains e.1 then (e.1, { e.2 with ro := true }) else e,
              roVa := s1.roVa ++ g.roVa }

/-- `SEGRETIRE` (R297): the sweep runs afterwards. A segment of another account is refused (R295, Tables 16-2 and 23-1; DEDUCED,
assumption 64). -/
def execSegretire (x : Args) (s : State) : Out :=
  s.mgr (.segretire x) x fun s t l =>
    let h := s.handle t x l x.a
    let g := s.seg h
    if (find s.segs h).isNone || g.acct != s.myAcct then s.refuse (.segretire x) x t 4
    else if g.state != 1 then
      s.answer (.segretire x) x t 0 0 fun s => { s with segs := put s.segs h (g.set 183 182 2) }
    else
      match s.pageList s.cur.core g with
      | .error e => s.mstop (.segretire x) x t l (.fault e.1 e.2 g.acct .read)
      | .ok ns => s.answer (.segretire x) x t 0 0 fun s =>
          ns.foldl State.subRef { s with segs := put s.segs h (g.set 183 182 2) }

/-- `SEGRETIRE_SWEEP` (R297): once no link remains, the pages and then the handle are freed. -/
def execSegretireSweep (seg : Nat) (s : State) : Out :=
  let g := s.seg seg
  if (find s.segs seg).isNone || g.state != 2 || s.ctxs.any (fun x => x.2.links.any fun k => k.seg == seg) then .next s
  else
    let mine := (s.pages.filter fun p => p.2.ofSeg && p.2.owner == seg).map (·.1)
    let s1 := mine.foldl State.freePage s
    let ro := if g.sealed_ then g.roVa.foldl (fun (l : List (Nat × Nat)) e => l.erase e) s1.roVa else s1.roVa
    .next { s1 with segs := del s1.segs seg, roVa := ro }

/-! ### Contexts (R298, R299) -/

/-- The block of Table 16-4 that `CTXNEW` accepts. -/
def ctxBlockOk (v : Nat) : Bool :=
  bits v 511 256 == 0 && bits v 127 76 == 0 && bits v 31 30 == 0 &&
    shapeOk (bits v 7 0) (bits v 15 8) (bits v 24 16) (bits v 27 25) (bits v 29 28) && bits v 63 43 == 0 &&
    bits v 41 40 != 3 && bits v 255 192 % 4 == 0 && bits v 255 248 == 0

/-- `CTXNEW` (R156, R162, R167, R298). -/
def execCtxnew (x : Args) (s : State) : Out :=
  s.mgr (.ctxnew x) x fun s t l =>
    s.block x l (s.opVal t x 1 l x.a) 64 64 fun s v =>
      if !ctxBlockOk v then s.refuse (.ctxnew x) x t 4
      else
        match freeHandle s.ctxs with
        | none => s.refuse (.ctxnew x) x t 5
        | some h =>
          s.globalWords x l (bits v 255 192) (bits v 24 16 / 2) fun s r =>
            let rot : List Word := (List.range (bits v 24 16 / 2)).map fun i => BitVec.ofNat 32 (r / 2 ^ (32 * i))
            let c : Ctx := { (default : Ctx) with
              layers := bits v 7 0, kvh := bits v 15 8, hdim := bits v 24 16, fmt := bits v 27 25, tpp := bits v 29 28,
              depth := 1, rot := rot, policy := bits v 63 32, rdom := bits v 75 64, repent := bits v 191 128,
              acct := s.myAcct, cursor := h % 256 }
            s.answer (.ctxnew x) x t 0 h fun s => s.setCtx h c

/-- `CTXFREE` (R160, R299). -/
def execCtxfree (x : Args) (s : State) : Out :=
  s.mgr (.ctxfree x) x fun s t l =>
    let h := s.handle t x l x.a
    let c := s.ctx h
    if !s.ownCtx h then s.refuse (.ctxfree x) x t 4
    else if c.inflight ≠ 0 ∨ c.children ≠ 0 then s.refuse (.ctxfree x) x t 3
    else
      match s.linkPages s.cur.core (c.links.map fun k => k.seg) with
      | .error e => s.mstop (.ctxfree x) x t l e
      | .ok ns => s.answer (.ctxfree x) x t 0 0 fun s =>
          let s1 := ns.foldl State.subRef s
          let mine := (s1.pages.filter fun p => !p.2.ofSeg && p.2.owner == h).map (·.1)
          let s2 := mine.foldl State.freePage s1
          let s3 := { s2 with ctxs := del s2.ctxs h }
          match c.parent with
          | some p => s3.setCtx p { s3.ctx p with children := (s3.ctx p).children - 1 }
          | none => s3

/-- `FORK` (R158, R299, R397). -/
def execFork (x : Args) (s : State) : Out :=
  s.mgr (.fork x) x fun s t l =>
    let h := s.handle t x l x.a
    let c := s.ctx h
    if !s.ownCtx h then s.refuse (.fork x) x t 4
    else if 4 ≤ c.depth then s.settle x (.error (trapLanes (s.act x) 0x0C (BitVec.ofNat 32 h)))
    else
      match freeHandle s.ctxs with
      | none => s.refuse (.fork x) x t 5
      | some n =>
        match s.linkPages s.cur.core (c.links.map fun k => k.seg) with
        | .error e => s.mstop (.fork x) x t l e
        | .ok ns => s.answer (.fork x) x t 0 n fun s =>
            let s1 := ns.foldl State.addRef s
            let child : Ctx := { c with
              depth := c.depth + 1, parent := some h, toks := [], ovPages := [], ovSlots := [], spare := [], children := 0,
              inflight := 0, pubgen := 0, pending := false, acct := s.myAcct, journal := none, cursor := n % 256 }
            (s1.setCtx n child).setCtx h { c with children := c.children + 1 }

/-- The slots of a context's ancestry that its own overlay lacks, nearest ancestor first (R159). -/
def State.missingSlots (s : State) (h : Nat) : List (Nat × Nat × Nat × Nat) :=
  ((s.chain h 4).drop 1).foldl (fun got a =>
    got ++ ((s.ctx a).ovSlots.filter fun e => decide (e.1 < (s.ctx a).len) && !(s.ctx h).hasSlot e.1 e.2.1 e.2.2 && !got.any fun g => g.2 == e).map fun e => (a, e)) []

/-- One slot is copied into a context's own overlay. -/
def State.copySlot (s : State) (core h a p l hd : Nat) : Except MStop State :=
  let x := s.ctx h
  match (s.ctx a).ovPage ((s.ctx a).window p) l hd with
  | none => .ok s
  | some m =>
    match s.slotCells core a m p .read with
    | .error r => .error (.fault r (s.pageVa m) (s.ctx a).acct .read)
    | .ok src =>
      match s.ovTake h (x.window p) l hd with
      | .error st => .error (.status st)
      | .ok (s1, n) =>
        if s1.promoting (s1.pageVa n) then .error .busy
        else match s1.slotCells core h n p .write with
        | .error r => .error (.fault r (s.pageVa n) x.acct .write)
        | .ok dst => .ok (s1.slotWrite h n p l hd dst (s.cells src))

def State.copySlots (s : State) (core h : Nat) : List (Nat × Nat × Nat × Nat) → Except MStop State
  | [] => .ok s
  | e :: r =>
    match s.copySlot core h e.1 e.2.1 e.2.2.1 e.2.2.2 with
    | .error m => .error m
    | .ok s1 => State.copySlots s1 core h r

/-- `CTXFLAT` (R159, R160, R299). -/
def execCtxflat (x : Args) (s : State) : Out :=
  s.mgr (.ctxflat x) x fun s t l =>
    let h := s.handle t x l x.a
    let c := s.ctx h
    if !s.ownCtx h then s.refuse (.ctxflat x) x t 4
    else if c.inflight ≠ 0 then s.refuse (.ctxflat x) x t 3
    else
      match c.parent with
      | none => s.answer (.ctxflat x) x t 0 0 id
      | some p =>
        match s.copySlots s.cur.core h (s.missingSlots h) with
        | .error e => s.mstop (.ctxflat x) x t l e
        | .ok _ =>
          let toks := ((s.chain h 4).drop 1).foldl (fun m a =>
            ((s.ctx a).toks.filter fun e => decide (e.1 < (s.ctx a).len)).foldl (fun m e =>
              if (find m e.1).isSome then m else put m e.1 e.2) m) c.toks
          s.answer (.ctxflat x) x t 0 0 fun s =>
            let s1 := match s.copySlots s.cur.core h (s.missingSlots h) with
              | .ok u => u
              | .error _ => s
            let s2 := s1.setCtx h { s1.ctx h with parent := none, depth := 1, toks := toks }
            s2.setCtx p { s2.ctx p with children := (s2.ctx p).children - 1 }

/-! ### Linking (R157, R168-R170, R300) -/

/-- R168. -/
def repairSet (pred postmark policy ntok : Nat) (flagged : List Nat) : List Nat :=
  let mode := bits policy 9 8
  if pred = postmark ∨ mode = 0 then []
  else if mode = 2 then List.range ntok
  else (List.range ntok).filter fun j => decide (j < bits policy 7 0) || (policy.testBit 10 && flagged.contains j)

/-- The tokens of each repair record: 32 at a time (R169). -/
def repairChunks (js : List Nat) : Nat → List (List Nat)
  | 0 => []
  | n + 1 => if js.isEmpty then [] else js.take 32 :: repairChunks (js.drop 32) n

/-- A repair record (R169); `LINK` releases what its lanes have done to the lane that it becomes. -/
def repairRec (c seg base : Nat) (x : Ctx) (v : View) (js : List Nat) : TRec :=
  ⟨[c, base, seg, js.headD 0, js.getLastD 0, js.length, x.pubgen, x.policy].map (BitVec.ofNat 32), 2 ^ 24, x.rdom, v⟩

/-- The flagged tokens of a segment, when its repair set under a policy depends on them (R168). -/
def State.flaggedFor (s : State) (core : Nat) (g : Seg) (pred policy : Nat) : Except (Nat × Nat) (List Nat) :=
  if pred ≠ g.postmark ∧ bits policy 9 8 = 1 ∧ policy.testBit 10 then s.flagged core g else .ok []

/-- Records stored in a pigeonhole one after another; none when one finds no room. -/
def State.placeRecs (s : State) (die ph : Nat) : List TRec → Option State
  | [] => some s
  | r :: rest =>
    let room := if s.spillHosted then decide ((findD (s.die die).phs ph default).recs.length < 32) else s.phRoom die ph
    if room then State.placeRecs (s.storeRec die ph r) die ph rest else none

/-- The mint of a `LINK` (R170): applied at a root of the hardware, or a message to the firmware's. -/
def State.linkMint (s : State) (d m : Nat) : Option State :=
  if s.rootsHosted then
    let c := s.counts d
    if (s.dom d).st = .opened ∧ c.1 + m ≤ countMax then some (s.toRoot (.mint none) d m ⟨0, 0, 0⟩ 0 []) else none
  else s.applyMint d m

/-- Whether a link may be made at a position (R157). -/
def Ctx.linkable (x : Ctx) (g : Seg) (b : Nat) : Bool :=
  g.state == 1 && g.shape == x.shape && decide (x.len ≤ b) && decide (b + g.ntok ≤ 2 ^ 24) && decide (x.links.length < 256) &&
    x.children == 0

/-- The link itself: identity, reference counts and LEN. Slots and identifiers that `SPECR` left at or above LEN are no longer
those of positions to be opened: positions below the link stay holes, and its own are the segment's. -/
def State.doLink (s : State) (c : Nat) (x : Ctx) (seg : Nat) (g : Seg) (b : Nat) (pred : DWord) (ns : List Nat) (pending : Bool) : State :=
  let k : Link := ⟨b, seg, g.name, g.ntok, pred.toNat⟩
  (ns.foldl State.addRef s).setCtx c { x with
    links := x.links ++ [k], len := b + g.ntok, toks := x.toks.filter fun e => decide (e.1 < x.len),
    ovSlots := x.ovSlots.filter fun e => decide (e.1 < x.len),
    pending := x.pending || pending }

/-- `LINK` (R157, R168-R170, R300); where its records have no room it waits for the spill area, or is refused in host-assisted
mode (R170, R382). -/
def execLink (x : Args) (s : State) : Out :=
  s.mgr (.link x) x fun s t l =>
    let h := s.handle t x l x.a
    let sg := s.handle t x l x.b
    let b := s.opVal t x 1 l x.c % 2 ^ 24
    let c := s.ctx h
    let g := s.seg sg
    if !s.ownCtx h || (find s.segs sg).isNone || !c.linkable g b then s.refuse (.link x) x t 4
    else
      let pred := s.ident h b
      match s.pageList s.cur.core g, s.flaggedFor s.cur.core g pred.toNat c.policy with
      | .error e, _ | _, .error e => s.mstop (.link x) x t l (.fault e.1 e.2 g.acct .read)
      | .ok ns, .ok fl =>
        let js := repairSet pred.toNat g.postmark c.policy g.ntok fl
        if js.isEmpty then s.answer (.link x) x t 0 0 fun s => s.doLink h c sg g b pred ns false
        else
          match s.detBad (s.act x) fun _ => true with
          | .error e => s.settle x (.error e)
          | .ok _ =>
            let die := dieOf s.cur.core
            match (s.die die).phOf (BitVec.ofNat 64 c.repent) with
            | none => s.settle x (.error (.trap (maskOf (s.act x)) (segvInfo c.repent 0)))
            | some ph =>
              let rs := (repairChunks js (js.length + 1)).map (repairRec h sg b c (s.released s.ref (s.act x) (s.opSeq + 1)))
              match s.linkMint c.rdom (2 ^ 24 * rs.length) with
              | none => s.refuse (.link x) x t 4
              | some u =>
                match u.placeRecs die ph rs with
                | none => if s.spillHosted then s.refuse (.link x) x t 4
                    else s.settle x (.error (.wait [(l, .engine .office)]))
                | some _ => s.answer (.link x) x t 0 js.length fun s =>
                    match (s.linkMint c.rdom (2 ^ 24 * rs.length)).bind fun u => u.placeRecs die ph rs with
                    | some u => u.doLink h c sg g b pred ns true
                    | none => s

/-- `UNLINK` (R160, R300). -/
def execUnlink (x : Args) (s : State) : Out :=
  s.mgr (.unlink x) x fun s t l =>
    let h := s.handle t x l x.a
    let b := s.opVal t x 1 l x.b % 2 ^ 24
    let c := s.ctx h
    match s.ownCtx h, c.links.find? fun k => k.base == b with
    | false, _ | _, none => s.refuse (.unlink x) x t 4
    | true, some k =>
      if 1 < c.depth ∨ c.children ≠ 0 then s.refuse (.unlink x) x t 4
      else if c.inflight ≠ 0 then s.refuse (.unlink x) x t 3
      else
        match s.linkPages s.cur.core [k.seg] with
        | .error e => s.mstop (.unlink x) x t l e
        | .ok ns =>
          let c1 := { c with links := c.links.filter fun e => e.base != b }
          s.answer (.unlink x) x t 0 c1.reach fun s =>
            ((ns.foldl State.subRef s).setCtx h { c1 with len := c1.reach }).dropSlots h fun p => !(decide (b ≤ p) && decide (p < b + k.ntok))

/-! ### Appending (R174, R301) -/

/-- The journal entry of an `APPEND` (Table 09-3), from what stands in the slot that it will write. -/
def journalEntry (x : Ctx) (p l h : Nat) (key : List Byte) : BitVec 128 :=
  let reused := x.hasSlot p l h
  let blk := reused && x.fmt == 2
  BitVec.ofNat 128 (p + x.len * 2 ^ 48 + (if reused then 2 ^ 72 else 0) + (if reused then findD x.toks p 0 else 0) * 2 ^ 80 +
    (if blk then (key.getD 1 0).toNat * 2 ^ 112 + (key.getD 0 0).toNat * 2 ^ 120 else 0))

/-- The first check of R301. -/
def Ctx.appendOk (x : Ctx) (ctl pad : Nat) : Bool :=
  bits ctl 31 17 == 0 && pad == 0 && decide (bits ctl 7 0 < x.layers) && decide (bits ctl 15 8 < x.kvh) &&
    (if ctl.testBit 16 then x.len != 2 ^ 24 else x.len != 0 && (find x.toks (x.len - 1)).isSome)

/-- The effect of an `APPEND` on the overlay and the context; the status or fault that keeps it from happening. -/
def State.doAppend (s : State) (core h ctl tok : Nat) (bs : List Byte) : Except MStop State :=
  let x := s.ctx h
  let l := bits ctl 7 0; let hd := bits ctl 15 8
  let opens := ctl.testBit 16
  let p := if opens then x.len else x.len - 1
  match s.ovTake h (x.window p) l hd with
  | .error st => .error (.status st)
  | .ok (s1, n) =>
    if s1.promoting (s1.pageVa n) then .error .busy
    else match s1.slotCells core h n p .write with
    | .error r => .error (.fault r (s.pageVa n) x.acct .write)
    | .ok cs =>
      let s2 := s1.slotWrite h n p l hd cs bs
      if !opens then .ok s2
      else
        let y := s2.ctx h
        let j := y.journal.map fun es => es ++ [journalEntry x p l hd (s.cells (cs.take x.kb))]
        .ok (s2.setCtx h { y with journal := j, toks := put y.toks p tok, len := p + 1 })

/-- `APPEND` (R301, R397). -/
def execAppend (x : Args) (s : State) : Out :=
  s.mgr (.append x) x fun s t l =>
    let h := s.handle t x l x.a
    let c := s.ctx h
    let ctl := s.opVal t x 1 l x.c
    if !s.ownCtx h then s.refuse (.append x) x t 4
    else
      s.block x l (s.opVal t x 1 l x.b) (16 + 2 * c.kb) 16 fun s v =>
        if !c.appendOk ctl (bits v 127 32) then s.refuse (.append x) x t 4
        else if c.children ≠ 0 then s.refuse (.append x) x t 3
        else if ctl.testBit 16 && decide (256 ≤ (c.journal.getD []).length) then
          s.settle x (.error (trapLanes (s.act x) 0x0D (BitVec.ofNat 32 h)))
        else
          let bs := leBytes (v / 2 ^ 128) (2 * c.kb)
          match s.doAppend s.cur.core h ctl (bits v 31 0) bs with
          | .error e => s.mstop (.append x) x t l e
          | .ok _ => s.answer (.append x) x t 0 (if ctl.testBit 16 then c.len + 1 else c.len) fun s =>
              match s.doAppend s.cur.core h ctl (bits v 31 0) bs with
              | .ok u => u
              | .error _ => s

/-! ### Speculation (R174, R175, R305) -/

/-- `SPECB` (R174). -/
def execSpecb (x : Args) (s : State) : Out :=
  s.mgr (.specb x) x fun s t l =>
    let h := s.handle t x l x.a
    let c := s.ctx h
    if !s.ownCtx h || c.journal.isSome then s.refuse (.specb x) x t 4
    else if c.children ≠ 0 then s.refuse (.specb x) x t 3
    else s.answer (.specb x) x t 0 0 fun s => s.setCtx h { c with journal := some [] }

/-- Overlay pages all of whose slots stand at or above LEN, with their slots, leave (R175). -/
def State.dropAbove (s : State) (h : Nat) : State :=
  let x := s.ctx h
  let low (e : (Nat × Nat × Nat) × Nat) : Bool :=
    x.ovSlots.any fun q => x.window q.1 == e.1.1 && q.2 == e.1.2 && decide (q.1 < x.len)
  let gone := x.ovPages.filter fun e => !low e
  let keep (q : Nat × Nat × Nat) : Bool := !gone.any fun e => e.1 == (x.window q.1, q.2)
  (gone.map (·.2)).foldl State.freePage
    (s.setCtx h { x with ovPages := x.ovPages.filter low, ovSlots := x.ovSlots.filter keep })

/-- `SPECA` (R175, R305). -/
def execSpeca (x : Args) (s : State) : Out :=
  s.mgr (.speca x) x fun s t l =>
    let h := s.handle t x l x.a
    let c := s.ctx h
    if !s.ownCtx h || c.journal.isNone then s.refuse (.speca x) x t 4
    else if c.children ≠ 0 then s.refuse (.speca x) x t 3
    else s.answer (.speca x) x t 0 0 fun s => (s.setCtx h { c with journal := none }).dropAbove h

/-- `SPECR` (R160, R175, R305): VALUE is the restored LEN. -/
def execSpecr (x : Args) (s : State) : Out :=
  s.mgr (.specr x) x fun s t l =>
    let h := s.handle t x l x.a
    let n := s.opVal t x 1 l x.b
    let c := s.ctx h
    match s.ownCtx h, c.journal with
    | false, _ | _, none => s.refuse (.specr x) x t 4
    | true, some es =>
      let left := es.take (es.length - n)
      let len := match es[es.length - n]? with
        | some e => bits e.toNat 71 48
        | none => c.len
      if es.length < n then s.refuse (.specr x) x t 4
      else if c.children ≠ 0 ∨ (s.takenLens h).any (fun k => decide (len < k)) then s.refuse (.specr x) x t 3
      else s.answer (.specr x) x t 0 len fun s => s.setCtx h { c with journal := some left, len := len }

/-! ### Queries (R306) -/

def tierCode (t : TierSt) : Nat :=
  match t with
  | .far => 0 | .promoting => 1 | .both => 2 | .near => 3 | .demoting => 4

/-- The answer of `CTXQ` for a context (Table 16-9). -/
def Ctx.query (x : Ctx) (sel i : Nat) : Option Nat :=
  if sel = 1 then
    some (x.len % 2 ^ 24 + x.depth * 2 ^ 24 + x.links.length * 2 ^ 27 + x.parent.getD 0 * 2 ^ 36 + (if x.parent.isSome then 2 ^ 56 else 0))
  else if sel = 2 then
    some (x.pubgen + (if x.pending then 2 ^ 32 else 0) + (x.journal.getD []).length * 2 ^ 33 + (if x.journal.isSome then 2 ^ 42 else 0))
  else if sel = 3 then (x.links[i]?).map fun k => k.seg + k.base * 2 ^ 20
  else if sel = 4 then (x.links[i]?).map fun k => k.pred
  else if sel = 5 then ((x.journal.getD [])[i]?).map fun e => e.toNat % 2 ^ 64
  else if sel = 6 then ((x.journal.getD [])[i]?).map fun e => e.toNat / 2 ^ 64
  else if sel = 7 then some (x.children % 2 ^ 16 + x.inflight % 2 ^ 32 * 2 ^ 16)
  else none

/-- `CTXQ`'s answer for an object word and a selector: all ones where it names nothing. -/
def State.ctxqVal (s : State) (o sel : Nat) : DWord :=
  let kind := bits o 21 20
  let h := o % 2 ^ 20
  let n := bits sel 7 0
  let i := bits sel 15 8
  let cpwin := (s.supReg 0x10D).toNat
  let v : Option Nat :=
    if kind = 0 then (if s.ownCtx h then (if n = 0 then some cpwin else (s.ctx h).query n i) else none)
    else if kind = 1 then
      (match find s.segs h with
        | some g => if g.acct != s.myAcct then none else if n = 0 then some cpwin
            else if n = 8 ∧ i < 4 then some (bits g.n (64 * i + 63) (64 * i)) else none
        | none => none)
    else if kind = 2 then
      (match s.page (bits sel 27 16 * 2 ^ 20 + h) with
        | some p => if p.acct != s.myAcct then none else if n = 0 then some cpwin
            else if n = 9 then some (tierCode p.tier + p.rc * 2 ^ 16 + p.acct % 2 ^ 32 * 2 ^ 32) else none
        | none => none)
    else none
  match v with
  | some a => BitVec.ofNat 64 a
  | none => BitVec.allOnes 64

/-- `CTXQ` (R306), which is relaxed (DEDUCED, assumption 65). -/
def execCtxq (x : Args) (s : State) : Out :=
  s.alu (.ctxq x) x false .general fun i => { val := s.ctxqVal (i.a.toNat % 2 ^ 32) (i.b.toNat % 2 ^ 32) }

/-! ### Cache pages (R307, R308) -/

/-- The cursor of the object that a page belongs to. -/
def State.cursorOf (s : State) (ofSeg : Bool) (owner : Nat) : Nat :=
  if ofSeg then (s.seg owner).cursor else (s.ctx owner).cursor
def State.setCursor (s : State) (ofSeg : Bool) (owner cur : Nat) : State :=
  if ofSeg then { s with segs := put s.segs owner { s.seg owner with cursor := cur } }
  else s.setCtx owner { s.ctx owner with cursor := cur }

/-- Whether pages may be allocated to an object (R307); a segment that retires is refused them, sealed or not (DESIGN CHOICE,
assumption 62). -/
def State.allocable (s : State) (o w : Nat) : Bool :=
  let h := o % 2 ^ 20
  bits w 31 9 == 0 &&
    (if bits o 21 20 = 0 then s.ownCtx h
     else bits o 21 20 == 1 && (find s.segs h).isSome && (s.seg h).acct == s.myAcct && (s.seg h).state == 0)

/-- `PALLOC` (R176, R307): the predicate says whether pages were allocated. -/
def execPalloc (x : Args) (s : State) : Out :=
  s.mgr (.palloc x) x fun s t l =>
    let v := s.opVal t x 2 l x.a
    let o := v % 2 ^ 32
    let w := v / 2 ^ 32
    let h := o % 2 ^ 20
    let ofSeg := bits o 21 20 == 1
    let k := bits w 7 0 + 1
    let act := s.act x
    let a := s.opVal t x 1 l x.b
    match forAll act (alignAll [(l, a, 4, false)]) with
    | .error e => s.settle x (.error e)
    | .ok _ =>
      match forAll act (s.scrAll s.ref false [(l, BitVec.ofNat 32 a, 4 * k)]) with
      | .error e => s.settle x (.error e)
      | .ok ps =>
        let no (st : Nat) : Out := s.answer (.palloc x) x t st 0 fun s => s.writePred s.ref act x.c fun _ => false
        if !s.allocable o w then no 4
        else
          match s.allocPages (!w.testBit 8) ofSeg s.myAcct h (s.cursorOf ofSeg h) k with
          | .error st => no st
          | .ok _ => s.answer (.palloc x) x t 0 k fun s =>
              match s.allocPages (!w.testBit 8) ofSeg s.myAcct h (s.cursorOf ofSeg h) k with
              | .error _ => s
              | .ok (s1, cur, ns) =>
                let s2 := s1.setCursor ofSeg h cur
                let s3 := if ofSeg then s2 else s2.setCtx h { s2.ctx h with spare := (s2.ctx h).spare ++ ns }
                let s4 := s3.storeNow (ps.flatMap fun p =>
                  s.scrParts l p.2.1 p.2.2.1 p.2.2.2 (4 * k) plain none (s.unOf l) (ns.flatMap fun n => leBytes n 4))
                s4.writePred s.ref act x.c fun _ => true

/-- A form on a page charged to the launch's account. -/
def State.pageForm (s : State) (i : Instr) (x : Args) (k : State → Taken → Nat → Page → Out) : Out :=
  s.mgr i x fun s t l =>
    let n := s.opVal t x 1 l x.a
    match s.page n with
    | none => s.refuse i x t 4
    | some p => if p.acct != s.myAcct then s.refuse i x t 4 else k s t n p

/-- A page leaves the unused pages and the overlay of its context. -/
def State.unown (s : State) (n : Nat) (p : Page) : State :=
  if p.ofSeg then s
  else
    let x := s.ctx p.owner
    let keys := (x.ovPages.filter fun e => e.2 == n).map (·.1)
    s.setCtx p.owner { x with
      spare := x.spare.filter fun m => m != n, ovPages := x.ovPages.filter fun e => e.2 != n,
      ovSlots := x.ovSlots.filter fun q => !keys.contains (x.window q.1, q.2) }

/-- `PFREE` (R177, R308). -/
def execPfree (x : Args) (s : State) : Out :=
  s.pageForm (.pfree x) x fun s t n p =>
    if p.tier = .promoting ∨ p.tier = .demoting then s.refuse (.pfree x) x t 3
    else if p.rc ≠ 0 then s.refuse (.pfree x) x t 4
    else s.answer (.pfree x) x t 0 0 fun s => (s.unown n p).freePage n

/-- A near frame for a page that is promoted, charged; the status otherwise (R176). -/
def State.promoteTo (s : State) (n : Nat) (p : Page) : Except Nat State :=
  match s.charge p.acct true 1 with
  | none => .error 1
  | some s1 =>
    match s1.nearFrame (s.cursorOf p.ofSeg p.owner) with
    | none => .error 2
    | some f => .ok ((s1.setPage n { p with tier := .promoting, nearF := some f }).setCursor p.ofSeg p.owner ((f + 1) % 256))

/-- `PROMOTE` (R178, R308). -/
def execPromote (x : Args) (s : State) : Out :=
  s.pageForm (.promote x) x fun s t n p =>
    match p.tier with
    | .demoting => s.refuse (.promote x) x t 3
    | .far =>
      (match s.promoteTo n p with
        | .error st => s.refuse (.promote x) x t st
        | .ok _ => s.answer (.promote x) x t 0 0 fun s => (match s.promoteTo n p with
          | .ok u => u
          | .error _ => s))
    | _ => s.answer (.promote x) x t 0 0 id

/-- A page of the near tier on its way to the far tier (Table 09-4): the status when the far quota refuses it. -/
def State.demoteTo (s : State) (n : Nat) (p : Page) : Except Nat State :=
  match p.tier with
  | .both => .ok ((s.setPage n { p with tier := .far, nearF := none }).credit p.acct true 1)
  | .near =>
    (match s.charge p.acct false 1 with
      | none => .error 1
      | some s1 => match s1.farFrame with
        | none => .error 2
        | some i => .ok (s1.setPage n { p with tier := .demoting, farF := some i }))
  | _ => .ok s

/-- `DEMOTE` (R178, R308). -/
def execDemote (x : Args) (s : State) : Out :=
  s.pageForm (.demote x) x fun s t n p =>
    if p.tier = .promoting ∨ p.tier = .demoting then s.refuse (.demote x) x t 3
    else
      match s.demoteTo n p with
      | .error st => s.refuse (.demote x) x t st
      | .ok _ => s.answer (.demote x) x t 0 0 fun s => (match s.demoteTo n p with
        | .ok u => u
        | .error _ => s)

/-! ### Tiers (R178, R179, R387) -/

/-- Courses that wait for no fault buffer entry of their own execute again. -/
def State.wakeFaults (s : State) : State :=
  s.cores.foldl (fun t x => (t.bundlesOf x.1).foldl (fun t b => t.resume b fun w => w == .fault none) t) s

/-- The near charge of an account above its quota, less what is already on its way out. -/
def State.overQuota (s : State) (acct : Nat) : Nat :=
  acctField s acct 352 - acctField s acct 416 - (s.pages.filter fun p => p.2.acct == acct && p.2.tier == .demoting).length

/-- R179: victims among an account's own pages, those in BOTH before those in NEAR, in ascending number. -/
def State.evict (s : State) (acct : Nat) : State :=
  let mine (t : TierSt) : List Nat := (s.pages.filter fun p => p.2.acct == acct && p.2.tier == t).map (·.1)
  (mine .both ++ mine .near).foldl (fun s n =>
    if s.overQuota acct = 0 then s
    else
      match (s.page n).map fun p => s.demoteTo n p with
      | some (.ok u) => u
      | _ => s) s

/-- `TIER_MOVER_VISIT` (R387): by the tier mover, or by the firmware in host-assisted mode, with the same results
(R364). -/
def execTierMoverVisit (acct : Nat) (s : State) : Out := .next (s.evict acct)

/-- The format of a page's entries, which is that of the object it belongs to (R152, R181). -/
def State.pageFmt (s : State) (p : Page) : Nat := if p.ofSeg then (s.seg p.owner).fmt else (s.ctx p.owner).fmt

/-- `PROMOTION_COMPLETE` (R178): the near frame holds the page, which is in both tiers, and writers that waited go on. -/
def execPromotionComplete (page : Nat) (s : State) : Out :=
  match s.page page with
  | some p =>
    match p.tier, p.nearF, p.farF with
    | .promoting, some f, some i =>
      .next ((((s.readFar f i).setPage page { p with tier := .both }).evict p.acct).wakeFaults)
    | _, _, _ => .next s
  | none => .next s

/-- `DEMOTION_COMPLETE` (R178, R181): the far copy is written as shingles, and the near frame is free. -/
def execDemotionComplete (page : Nat) (s : State) : Out :=
  match s.page page with
  | some p =>
    match p.tier, p.nearF, p.farF with
    | .demoting, some f, some i =>
      .next ((((s.writeFar (s.pageFmt p) f i).setPage page { p with tier := .far, nearF := none }).credit p.acct true 1).evict p.acct)
    | _, _, _ => .next s
  | none => .next s

end Sys2Proof.Machine
end

