-- ==== Sys2Proof/Machine/Attention.lean ====
section
/-!
DEFINITION. The attention queue: `ATTN` (R81, R82, R162-R165, R173, R303, R304) and `PATCH` (R171, R302), at issue and as
the engine performs them.
-/

namespace Sys2Proof.Machine

/-! ### Numbers (R81, R82, R162) -/

def negInf : Nat := 0xFF800000
def nan32 : Nat := f32.nanBits

/-- Rotation of one pair at a position (R162). -/
def rotatePair (f p x0 x1 : Nat) : Nat × Nat :=
  let theta := rneMul (f32.roundInt .rn p 0 false).1 f
  if fabsV f32 theta ≥ 0x4B800000 then (nan32, nan32)
  else
    let c := (cosV theta).1
    let n := (sinV theta).1
    (rneFma x0 c (fnegV f32 (rneMul x1 n)), rneFma x0 n (rneMul x1 c))

/-- A vector rotated to a position. -/
def rotateVec (rot : List Word) (p : Nat) (x : List Nat) : List Nat :=
  (List.range (x.length / 2)).flatMap fun i =>
    let r := rotatePair (rot.getD i 0).toNat p (x.getD (2 * i) 0) (x.getD (2 * i + 1) 0)
    [r.1, r.2]

/-- Elements of a vector in a page, as FP32 (R66, R73, R152). -/
def decodeVec (fmt hdim : Nat) (bs : List Byte) : List Nat :=
  (List.range hdim).map fun i =>
    if fmt = 2 then blkDecode (leNat ((bs.drop (18 * (i / 16))).take 18)) 7 (i % 16)
    else (cvtFF (if fmt = 3 then f16 else bf16) f32 .rn (leNat ((bs.drop (2 * i)).take 2))).1

/-- The score of R81, on vectors already rotated. -/
def scoreOf (q k : List Nat) (sigma : Nat) : Nat :=
  rneMul ((q.zip k).foldl (fun a e => rneFma e.1 e.2 a) 0) sigma

def log2e : Nat := 0x3FB8AA3B
def ln2f : Nat := 0x3F317218

/-- One page of the online softmax (R82): maximum, sum and output so far, with each token's score and value. -/
def softPage (mx sm : Nat) (o : List Nat) (ts : List (Nat × List Nat)) : Nat × Nat × List Nat :=
  let mnew := ts.foldl (fun a t => rneMax a t.1) mx
  if mnew = negInf then (mx, sm, o)
  else
    let alpha := (ex2V (rneMul (rneSub mx mnew) log2e)).1
    let r := ts.foldl (fun (a : Nat × List Nat) t =>
      let w := (ex2V (rneMul (rneSub t.1 mnew) log2e)).1
      (rneAdd a.1 w, (a.2.zip t.2).map fun e => rneFma w e.2 e.1)) (rneMul sm alpha, o.map fun e => rneMul e alpha)
    (mnew, r.1, r.2)

/-- out and lse at the end (R82). -/
def softEnd (mx sm : Nat) (o : List Nat) : List Nat :=
  o.map (fun e => rneDiv e sm) ++ [rneAdd mx (rneMul (lg2V sm).1 ln2f)]

/-! ### `ATTN` at issue (R303, R304) -/

/-- Checks of the operand block's zero fields (Table 16-8). -/
def opBlockOk (b : Nat) : Bool :=
  bits b 127 121 == 0 && bits b 95 88 == 0 && bits b 63 48 == 0 && bits b 31 20 == 0

/-- The checks of the two blocks and of a register delivery (R304, step 3). -/
def attnOk (x : Ctx) (o : Bool) (d : Opnd) (nreg ob qb : Nat) : Bool :=
  let lo := bits ob 87 64
  let hi := bits ob 120 96
  let n := ceilDiv (attnWords o x.hdim lo hi) 32
  opBlockOk ob && bits qb 31 24 == 0 && bits qb 127 96 == 0 && decide (bits ob 39 32 < x.layers) &&
    decide (bits ob 47 40 < x.kvh) && decide (lo ≤ hi) &&
    (match d with
      | .v r => decide (n ≤ 16) && decide (r.val + n ≤ nreg)
      | _ => true)

/-- The check of the output (R304, step 4): where words go when DST is zero. -/
def State.attnOut (s : State) (d : Opnd) (act : List Nat) (l out words : Nat) : Res (Nat × Nat × Nat) :=
  match d with
  | .q n =>
    let q := s.port s.ref n.val
    if !q.bound then .error (portEnd act n.val 1)
    else if descWrite q.d || descTarget q.d != 2 || descChan q.d != 0 then .error (portEnd act n.val 2)
    else .ok (0, 0, 0)
  | .zero =>
    match forAll act (alignAll [(l, out, 4, false)]) with
    | .error e => .error e
    | .ok _ =>
      if words = 0 then .ok (s.cur.core, s.cur.slot, bits out 19 0)
      else (forAll act (s.scrAll s.ref false [(l, BitVec.ofNat 32 out, 4 * words)])).map fun ps =>
        match ps with
        | p :: _ => p.2
        | [] => (0, 0, 0)
  | _ => .ok (0, 0, 0)

/-- The registers a delivery writes, in every lane of the bundle. -/
def attnTags (d : Opnd) (words : Nat) : List (Nat × Tag) :=
  match d with
  | .v r => (List.range (ceilDiv words 32)).flatMap fun j => (List.range 8).map fun k => (8 * (r.val + j) + k, Tag.general)
  | _ => []

/-- `ATTN` (R164, R303, R304): its checks, and its place in the attention queue. -/
def execAttn (o gated : Bool) (x : Args) (s : State) : Out :=
  s.course1 (.attn o gated x) x fun t l =>
    let act := s.act x
    let ob := s.opBlock t x l
    let c := opCtx ob
    let y := s.ctx c
    let a := s.opVal t x 1 l x.a
    if !s.ownCtx c then s.settle x (.error (trapLanes act 5 (BitVec.ofNat 32 c)))
    else
      s.block x l a (16 + 4 * y.hdim) 16 fun s qb =>
        let lo := bits ob 87 64
        let hi := bits ob 120 96
        let words := attnWords o y.hdim lo hi
        if !attnOk y o x.d s.curCrew.nreg ob qb then s.settle x (.error (.trap (maskOf act) (fmtdiv 7)))
        else
          match s.attnOut x.d act l (bits qb 95 64) words with
          | .error e => s.settle x (.error e)
          | .ok out =>
            s.withRoom x act (attnTags x.d words) fun s1 =>
              let cmd : AttnCmd := { (default : AttnCmd) with
                ctx := c, layer := bits ob 39 32, head := bits ob 47 40, lo := lo, hi := hi, pq := bits qb 23 0,
                sigma := bits qb 63 32, q := (List.range y.hdim).map fun i => bits qb (128 + 32 * i + 31) (128 + 32 * i),
                o := o, gated := gated, dst := x.d, out := out, next := lo, mx := negInf,
                vec := if o then List.replicate y.hdim 0 else [] }
              let s2 := s1.setCtx c { s1.ctx c with inflight := (s1.ctx c).inflight + 1 }
              let s3 := s2.giveTags s.ref (attnTags x.d words)
              let s4 := s3.markPend s.ref (List.range 32) x.d (ceilDiv words 32)
              .next (s4.issueCmd x t qAttn [] (.attn cmd))

/-! ### `ATTN` in the engine (R163-R165, R173) -/

/-- The attention command at the head of a core's queue, unless it is suspended. -/
def State.headAttn (s : State) (core : Nat) : Option (Cmd × AttnCmd) :=
  match s.headCmd core qAttn with
  | some c => (match c.body with
    | .attn a => if c.suspended then none else some (c, a)
    | _ => none)
  | none => none
def State.setAttn (s : State) (core : Nat) (c : Cmd) (a : AttnCmd) : State := s.setHead core qAttn { c with body := .attn a }

/-- Repairs of a context and its ancestors that are not yet published (R173). -/
def State.pendings (s : State) (c : Nat) : List (Nat × Nat) :=
  ((s.chain c 4).filter fun h => (s.ctx h).pending).map fun h => (h, (s.ctx h).pubgen)

/-- The duration of a window (Table 24-12). -/
def Ctx.windowTime (x : Ctx) : Nat := 64 + ceilDiv (2 * tppOf x.tpp * x.kb) 37

/-- What the wakes of a gated command acquire: the publications it has awaited (R173). -/
def State.gateView (s : State) (a : AttnCmd) : View := a.gate.foldl (fun v e => v.join (s.ctx e.1).pubView) []

/-- `ATTN_START` (R107, R164, R173): once its lanes' earlier accesses are performed, and after any gated wait, the command takes
LEN and the parent chain. -/
def execAttnStart (core : Nat) (s : State) : Out :=
  match s.headAttn core with
  | none => .next s
  | some (c, a) =>
    if a.started.isSome || !s.mayStart core (s.ctx a.ctx).windowTime || s.cmdOwed c then .next s
    else
      let begin_ : State := s.setAttn core { c with started := true, got := c.got.join (s.gateView a) } { a with started := some ((s.ctx a.ctx).len, s.chain a.ctx 4) }
      if !a.gated then .next begin_
      else
        match a.gate with
        | [] =>
          let ps := s.pendings a.ctx
          .next (if ps.isEmpty then begin_ else s.setAttn core c { a with gate := ps })
        | g => .next (if g.all fun e => (s.ctx e.1).pubgen != e.2 then begin_ else s)

/-- What a read of the engine meets: cells, and whether their page is far; or a page that faults, by address and account. -/
def State.entryCells (s : State) (core : Nat) (e : Entry) (kb tpp : Nat) : Except (Nat × Nat × Nat) (List Nat × Bool) :=
  match e with
  | .hole => .ok ([], false)
  | .overlay c n p =>
    (match s.slotCells core c n p .read with
      | .ok cs => .ok (cs, s.devFar core (s.ctx c).acct (s.pageVa n))
      | .error r => .error (r, s.pageVa n, (s.ctx c).acct))
  | .linked g idx slot =>
    let y := s.seg g
    match s.devCells core y.acct (y.plAddr + 4 * idx) 4 .read with
    | .error r => .error (r, y.plAddr + 4 * idx, y.acct)
    | .ok pl =>
      let va := s.pageVa (leNat (s.cells pl)) + slot % tppOf tpp * kb
      match s.devCells core y.acct va kb .read, s.devCells core y.acct (va + 8192) kb .read with
      | .ok k, .ok v => .ok (k ++ v, s.devFar core y.acct va)
      | .error r, _ | _, .error r => .error (r, va, y.acct)

/-- The positions of the window that a command is at, and their entries. -/
def AttnCmd.window (a : AttnCmd) (tpp : Nat) : List Nat :=
  let n := tppOf tpp
  let top := min a.hi ((a.next / n + 1) * n)
  (List.range (top - a.next)).map fun i => a.next + i

/-- The reads of a window: for each position its cells, none for a hole; or the first fault. -/
def State.windowReads (s : State) (core : Nat) (x : Ctx) (a : AttnCmd) (len : Nat) (chain : List Nat) :
    Except (Nat × Nat × Nat) (List (Nat × List Nat × Bool)) :=
  (a.window x.tpp).mapM fun p =>
    (s.entryCells core (if len ≤ p then .hole else s.translate a.ctx chain p a.layer a.head) x.kb x.tpp).map fun cs => (p, cs)

/-- Scores and values of a window (R163), from what the command reads of each entry. -/
def State.windowVals (s : State) (c : Cmd) (x : Ctx) (a : AttnCmd) (rs : List (Nat × List Nat × Bool)) : List (Nat × List Nat) :=
  let q := rotateVec x.rot a.pq a.q
  rs.map fun r =>
    if r.2.1.isEmpty then (negInf, List.replicate x.hdim 0)
    else
      let bs := s.placeRead (s.cmdReader qAttn c) (.phys r.2.1 0 [] r.2.2) (2 * x.kb)
      let k := rotateVec x.rot r.1 (decodeVec x.fmt x.hdim (bs.take x.kb))
      (scoreOf q k a.sigma, decodeVec x.fmt x.hdim (bs.drop x.kb))

/-- Words delivered to a channel: those whose position has been skipped are discarded (R148). -/
def Port.deliver (q : Port) (ws : List Nat) : Port :=
  ws.foldl (fun q w =>
    { q with nextWord := q.nextWord + 1,
             words := if q.nextWord < q.pos then q.words else put q.words q.nextWord (BitVec.ofNat 32 w) }) q

/-- Words of a command delivered from its `n`-th on (R304). A port takes them by whatever binding it has then: the spec does not say
where words go whose port has been unbound or rebound since the issue (DESIGN CHOICE, assumption 58). -/
def State.deliverWords (s : State) (b : BRef) (a : AttnCmd) (n : Nat) (ws : List Nat) : State :=
  match a.dst with
  | .q p =>
    if s.hasBundle b then (s.setPort b p.val ((s.port b p.val).deliver ws)).wakePorts b else s
  | .v r =>
    ws.zipIdx.foldl (fun s e =>
      let w := n + e.2
      if s.hasBundle b then
        s.mapLanes b [w % 32] fun _ z => { z with v := put z.v (r.val + w / 32) (BitVec.ofNat 32 e.1) }
      else s) s
  | _ => s.placeWrite (queueAuthor (s.agentOf b) qAttn) [] (.scr a.out.1 a.out.2.1 (a.out.2.2 + 4 * n)) (ws.flatMap fun w => leBytes w 4)

/-- Lanes past the last word read 0, and the registers are written. -/
def State.endDelivery (s : State) (b : BRef) (a : AttnCmd) (words : Nat) : State :=
  match a.dst with
  | .v r =>
    if s.hasBundle b then
      let regs := ceilDiv words 32
      s.mapLanes b (List.range 32) fun l z =>
        { z with v := if words ≤ 32 * (regs - 1) + l ∧ regs ≠ 0 then put z.v (r.val + regs - 1) 0 else z.v,
                 pendV := clearPend z.pendV r.val regs }
    else s
  | _ => s

/-- Whether a channel has room for words (R304). -/
def State.channelRoom (s : State) (b : BRef) (a : AttnCmd) (n : Nat) : Bool :=
  match a.dst with
  | .q p => decide ((s.port b p.val).words.length + n ≤ 1024)
  | _ => true

/-- A translation fault of the engine suspends the command at the head of the attention queue, with a fault buffer entry (R165,
R372). -/
def State.attnFault (s : State) (core : Nat) (c : Cmd) (lane va acct : Nat) (acc : Acc) (reason : Nat) : State :=
  let k := s.core core
  match freeEntry k.fbuf with
  | none => s
  | some i =>
    let e : FaultEnt := { s.devFault c.ref lane acct va acc reason with src := 2 }
    (s.setCore core { k with fbuf := put k.fbuf i e }).setHead core qAttn { c with suspended := true, fault := some i }

/-- The end of a command: every word is delivered, and its context's count falls. -/
def State.attnDone (s : State) (core : Nat) (c : Cmd) (a : AttnCmd) (words : Nat) : State :=
  (((s.endDelivery c.ref a words).attnGone a.ctx).popHead core qAttn).complete qAttn c

/-- A window whose reads are at hand is completed as one step (R165). -/
def State.windowStep (s : State) (core : Nat) (c : Cmd) (a : AttnCmd) (rs : List (Nat × List Nat × Bool)) : State :=
  let x := s.ctx a.ctx
  let ts := s.windowVals c x a rs
  let words := attnWords a.o x.hdim a.lo a.hi
  let next := a.next + rs.length
  if a.o then
    let r := softPage a.mx a.sm a.vec ts
    let a1 := { a with mx := r.1, sm := r.2.1, vec := r.2.2, next := next }
    if next < a.hi then s.setAttn core c a1
    else (s.deliverWords c.ref a1 0 (softEnd r.1 r.2.1 r.2.2)).attnDone core c a1 words
  else
    let s1 := s.deliverWords c.ref a a.words (ts.map (·.1))
    let a1 := { a with words := a.words + ts.length, next := next }
    if next < a.hi then s1.setAttn core c a1 else s1.attnDone core c a1 words

/-- `ATTN_WINDOW_COMPLETE` (R163-R165, R180, R182). A window that reads far pages takes one unit of the limiter, and one with a
poisoned line stands until the poison is gone; its crew takes POISON once (DESIGN CHOICE, assumption 41). -/
def execAttnWindowComplete (core : Nat) (s : State) : Out :=
  match s.headAttn core with
  | none => .next s
  | some (c, a) =>
    let x := s.ctx a.ctx
    match a.started with
    | none => .next s
    | some (len, chain) =>
      let n := if a.o then (if a.hi ≤ (a.next / tppOf x.tpp + 1) * tppOf x.tpp then x.hdim + 1 else 0) else (a.window x.tpp).length
      if !s.mayStart core x.windowTime || !s.channelRoom c.ref a n then .next s
      else
        match s.windowReads core x a len chain with
        | .error f => .next (s.attnFault core c 0 f.2.1 f.2.2 .read f.1)
        | .ok rs =>
          let cells := rs.flatMap fun r => r.2.1
          if cells.any fun q => (s.refetching q).isSome then .next s
          else if cells.any s.cellPoison then
            .next (if a.poison then s
              else (s.poisonLater c.ref.core c.ref.slot (trapOf 6 0)).setAttn core c { a with poison := true })
          else
            let f := if rs.any fun r => r.2.2 then s.farAsk core .attn else (s, true)
            .next (if f.2 then f.1.windowStep core c { a with poison := false } rs else f.1.setAttn core c { a with poison := false })

/-! ### `PATCH` (R171, R302) -/

/-- `PATCH` (R302): one command a lane; the last of them carries the SETW mark. -/
def execPatch (x : Args) (s : State) : Out :=
  let act := s.act x
  match s.take s.ref ((Instr.patch x).shape.getD default) x act with
  | .error e => s.settle x (.error e)
  | .ok t =>
    let ctx (l : Nat) : Nat := s.handle t x l x.a
    let live := act.filter fun l => s.ownCtx (ctx l)
    let a (l : Nat) : Nat := s.opVal t x 1 l x.b
    match alignAll (live.map fun l => (l, a l, 16, false)) with
    | .error e => s.settle x (.error e)
    | .ok _ =>
      let place (l : Nat) : Option (Nat × Nat × Nat) := s.scrAddr s.ref (BitVec.ofNat 32 (a l)) (2 * (s.ctx (ctx l)).kb)
      match live.filter fun l => (place l).isNone with
      | l :: r => s.settle x (.error (.trap (maskOf (l :: r)) (scrSegv (BitVec.ofNat 32 (a l)))))
      | [] =>
        let tags := dstTags act x.d 1 (fun _ _ => .general) fun _ => []
        s.withRoom x act tags fun s1 =>
          if act.isEmpty then .next (s1.finish x true)
          else
            let b := s.ref
            let s2 := (s1.commitPops b act t).giveTags b tags
            let s3 := s2.markPend b act x.d 1
            let s4 := act.foldl (fun u l =>
              let p := s.opVal t x 2 l x.c
              let pl := (place l).getD (0, 0, 0)
              let kb := if live.contains l then some (s.ctx (ctx l)).kb else none
              let setw := if act.getLast? = some l then x.sched.setw else 15
              u.enter b.core qAttn (u.newCmd [l] setw [] (.patch (ctx l) kb pl.1 pl.2.1 pl.2.2 (bits p 23 0) (bits p 39 32) (bits p 47 40) l x.d))) s3
            .next (s4.finish x false)

/-- Whether a slot is one that a patch may write (R171). -/
def Ctx.patchable (x : Ctx) (p l h : Nat) : Bool :=
  x.links.any (fun k => decide (k.base ≤ p) && decide (p < k.base + k.ntok)) && decide (1 ≤ l) && decide (l < x.layers) &&
    decide (h < x.kvh)

/-- A performed patch: its result word reaches its lane. -/
def State.patchDone (s : State) (core : Nat) (c : Cmd) (lane : Nat) (dst : Opnd) (st : Nat) : State :=
  let s1 := s.land c.ref c.id dst [(lane, [BitVec.ofNat 32 (resultWord st 0)])]
  let s2 := if st = 1 then s1.count 7 1 else s1
  (s2.popHead core qAttn).complete qAttn c

/-- `PATCH_PERFORM` (R107, R171, R302): an empty line, or a page that is being promoted, holds the queue; a page that faults
suspends the command (R372). -/
def execPatchPerform (core : Nat) (s : State) : Out :=
  match s.headCmd core qAttn with
  | none => .next s
  | some c =>
    match c.body with
    | .patch ctx kb cr sl off p l h lane dst =>
      let x := s.ctx ctx
      if c.suspended || !s.mayStart core c.duration || s.cmdOwed c then .next s
      else if (find s.ctxs ctx).isNone || x.acct != (s.crew c.ref.core c.ref.slot).acct || kb != some x.kb then
        .next (s.patchDone core c lane dst 4)
      else
        let src : Place := .scr cr sl off
        let n := 2 * x.kb
        match (List.range n).find? (s.byteBad src) with
        | some i =>
          let a := BitVec.ofNat 32 ((off + i) / 128 * 128)
          .next ((s.poisonLater c.ref.core c.ref.slot ⟨6, 0, 0, a, 0⟩).patchDone core c lane dst 4)
        | none =>
          if s.placeHeld src n then .next s
          else if !x.patchable p l h then .next (s.patchDone core c lane dst 4)
          else
            match s.ovTake ctx (x.window p) l h with
            | .error st => .next (s.patchDone core c lane dst st)
            | .ok (s1, pg) =>
              if s1.promoting (s1.pageVa pg) then .next s
              else
                match s1.slotCells core ctx pg p .write with
                | .error r => .next (s.attnFault core c lane (s.pageVa pg) x.acct .write r)
                | .ok cs => .next ((s1.slotWrite ctx pg p l h cs (s.placeRead (s.cmdReader qAttn c) src n)).patchDone core c lane dst 0)
    | _ => .next s

end Sys2Proof.Machine
end

