-- ==== Sys2Proof/Machine/Launch.lean ====
section
/-!
DEFINITION. Launches on their way to cores (R29-R32, R126, R355-R357): the fields of a launch record, the choice of a
rectangle, holds, back-off, commit, the mint at the root, and the start of crews.
-/

namespace Sys2Proof.Machine

/-! ### The launch record (Tables 23-7, 23-8) -/

def recTag (r : Nat) : Nat := bits r 63 0
def recComp (r : Nat) : Nat := bits r 127 64
def recKid (r : Nat) : Nat := bits r 159 128
def recAcct (r : Nat) : Nat := bits r 191 160
def recQdom (r : Nat) : Nat := bits r 203 192
def recQv (r : Nat) : Bool := r.testBit 204
def recReps (r : Nat) : Nat := bits r 223 208 + 1
def recBundles (r : Nat) : Nat := bits r 229 224
def recGw (r : Nat) : Nat := bits r 232 230
def recGh (r : Nat) : Nat := bits r 235 233
def recIrq (r : Nat) : Bool := r.testBit 240
def recOvertake (r : Nat) : Bool := r.testBit 241
def recGnode (r : Nat) : Bool := r.testBit 242
def recStart (r : Nat) : Bool := r.testBit 243
/-- The per-lane mint (R126). -/
def recMint (r : Nat) : Nat := if bits r 287 256 = 0 then 2 ^ 24 else bits r 287 256
def recGraph (r : Nat) : Nat := bits r 299 288
def recNode (r : Nat) : Nat := bits r 313 304
def recPreds (r : Nat) : Nat := max (bits r 317 314) 1
def recTreetab (r : Nat) : Nat := bits r 383 320
def recTrees (r : Nat) : Nat := bits r 388 384
/-- Parameter word n. -/
def recParam (r n : Nat) : Nat := bits r (543 + 32 * n) (512 + 32 * n)
/-- Edge n (Table 23-10). -/
def recEdge (r n : Nat) : Nat := bits r (1151 + 128 * n) (1024 + 128 * n)
def recSeq (r : Nat) : Nat := bits r 2015 1984
def recCommit (r : Nat) : Nat := bits r 2047 2016

def Launch.r (y : Launch) : Nat := y.rec_.toNat
def State.launch (s : State) (lseq : Nat) : Launch := findD s.launches lseq default
def State.setLaunch (s : State) (lseq : Nat) (y : Launch) : State := { s with launches := put s.launches lseq y }
def State.kernel (s : State) (kid : Nat) : Kernel := findD s.kernels kid default
def State.launchKernel (s : State) (y : Launch) : Kernel := s.kernel (recKid y.r)
/-- The domain of a record: its own, else the kernel's; none when neither gives one (R354). -/
def recDom (k : Kernel) (r : Nat) : Option Nat :=
  if recQv r then some (recQdom r) else if k.h.testBit 42 then some (bits k.h 54 43) else none
/-- Weight that one replica mints. -/
def repMint (k : Kernel) (r : Nat) : Nat := recMint r * 32 * k.nbundles * k.gw * k.gh

/-! ### Order (R355) -/

/-- A replica that has not been committed. -/
def RepSt.waits (x : RepSt) : Bool :=
  match x with
  | .committed | .started | .retired => false
  | _ => true
def Launch.uncommitted (y : Launch) : Bool := y.reps.any fun r => r.2.waits

/-- Whether another launch must be committed first: an earlier one of the window, or a node fired earlier. -/
def State.blockedBy (s : State) (lseq : Nat) (y : Launch) : Bool :=
  s.launches.any fun e =>
    e.2.go && e.2.uncommitted &&
      (if y.order = 0 then !recOvertake y.r && e.2.order == 0 && e.2.win == y.win && decide (e.1 < lseq)
       else decide (0 < e.2.order) && decide (e.2.order < y.order))

/-! ### Rectangles (R29, R356) -/

/-- Cores of a rectangle in rank order; its origin is numbered row by row within the die. -/
def rectCores (die origin w h : Nat) : List Nat :=
  (List.range h).flatMap fun i => (List.range w).map fun j =>
    (die / 2 * 12 + origin / 16 + i) * 32 + (die % 2 * 16 + origin % 16 + j)
def rectFits (origin w h : Nat) : Bool := decide (origin / 16 + h ≤ 12) && decide (origin % 16 + w ≤ 16)

/-- Whether a core's free summary shows the needs of a kernel: holds of other placements do not show. -/
def Core.shows (x : Core) (k : Kernel) : Bool :=
  { x with holds := [] }.fits k.nbundles (128 * k.nreg * k.nbundles) k.slines k.ntiles k.nacc
def State.rectShows (s : State) (k : Kernel) (die origin : Nat) : Bool :=
  rectFits origin k.gw k.gh && (rectCores die origin k.gw k.gh).all fun c => (s.core c).shows k

/-- The first qualifying origin of a die from its cursor on. -/
def State.firstOrigin (s : State) (k : Kernel) (die : Nat) : Option Nat :=
  ((List.range 192).map fun i => ((s.die die).cursor + i) % 192).find? (s.rectShows k die)
/-- In host-assisted mode the firmware chooses among the rectangles that qualify. -/
def State.anyOrigin (s : State) (k : Kernel) : Option (Nat × Nat) :=
  let all := (List.range 4).flatMap fun d => ((List.range 192).filter (s.rectShows k d)).map fun o => (d, o)
  if all.isEmpty then none else all[(Config.freeWord 3 s.opSeq).toNat % all.length]?

/-! ### Holds, back-off and commit (R30, R31) -/

def State.setRep (s : State) (lseq r : Nat) (x : RepSt) : State :=
  s.setLaunch lseq { s.launch lseq with reps := put (s.launch lseq).reps r x }

/-- `GANG_PLACE_ATTEMPT` (R30, R355, R356). -/
def execGangPlaceAttempt (launch replica : Nat) (s : State) : Out :=
  let y := s.launch launch
  match find y.reps replica with
  | some (.offered die fails tried) =>
    let k := s.launchKernel y
    if !y.go || y.ended.isSome || s.blockedBy launch y then .next s
    else
      let got := if s.funcBit 3 then s.anyOrigin k else (s.firstOrigin k die).map fun o => (die, o)
      let s1 := { s with opSeq := s.opSeq + 1 }
      match got with
      | some (d, o) => .next (s1.setRep launch replica (.holding d o fails (rectCores d o k.gw k.gh) [] []))
      | none =>
        .next (s1.setRep launch replica
          (if s.funcBit 3 ∨ 4 ≤ tried + 1 then .waiting fails else .offered ((die + 1) % 4) fails (tried + 1)))
  | _ => .next s

/-- Holds of a replica, or of every replica of a launch, are given up. -/
def State.releaseHolds (s : State) (lseq : Nat) (r : Option Nat) : State :=
  { s with cores := s.cores.map fun (e : Nat × Core) =>
      (e.1, { e.2 with holds := e.2.holds.filter fun h => !(h.lseq == lseq && (r.isNone || r == some h.replica)) }) }

/-- Holds are released: what they kept is free (R30, R37). -/
def State.freeHolds (s : State) (lseq : Nat) (r : Option Nat) : State :=
  let mine := (s.cores.filter fun e => e.2.holds.any fun h => h.lseq == lseq && (r.isNone || r == some h.replica)).map (·.1)
  mine.foldl State.freed (s.releaseHolds lseq r)

/-- A core's hold for a replica, when everything is free and not held. -/
def Core.hold (x : Core) (k : Kernel) (lseq r : Nat) : Option Core :=
  match x.freeSlot with
  | some slot =>
    if x.fits k.nbundles (128 * k.nreg * k.nbundles) k.slines k.ntiles k.nacc then
      some { x with holds := x.holds ++ [⟨lseq, r, slot, k.nreg, k.nbundles, k.slines, k.ntiles, k.nacc, x.accFree.take k.nacc⟩] }
    else none
  | none => none

/-- The launch ends without its remaining replicas: DOMAIN or MINT at a commit (R357). -/
def Launch.cut (y : Launch) (status : Nat) : Launch :=
  { y with
    ended := some (status, 0),
    reps := y.reps.map fun (r : Nat × RepSt) => if r.2.waits then (r.1, .retired) else r }

/-- The status with which a replica's commit fails: the domain open and assigned, and room for its mint. -/
def State.commitCheck (s : State) (y : Launch) (d : Option Nat) (m : Nat) : Option Nat :=
  match d with
  | none => some 5
  | some d =>
    if (s.dom d).st ≠ .opened ∨ !s.assigned d (recAcct y.r) then some 5
    else if countMax < (s.counts d).1 + m then some 6 else none

/-- The bundles of a launched crew: every lane live at the entry, with its weight and domain (R32, R126); `v` is what happens
before the launch's start (R113). -/
def launchBundles (k : Kernel) (m d : Nat) (v : View) : SMap Bundle :=
  let z : Lane := { (default : Lane) with
    pc := k.code, wt := BitVec.ofNat 32 m, wd := BitVec.ofNat 12 d, mind := (default : Mind).learn 0 v }
  (List.range k.nbundles).map fun b => (b, k.bundle 0xFFFFFFFF ((List.range 32).map fun l => (l, z)))
/-- c0 to c15 of a replica (R357). -/
def launchParams (r replica : Nat) : SMap Word :=
  (List.range 16).map fun n => (n, if n = 15 ∧ 1 < recReps r then BitVec.ofNat 32 replica else BitVec.ofNat 32 (recParam r n))

/-- The crew of one member of a replica, before it starts: a graph node is of the queued class for progress (R27, R355). -/
def Launch.crew (y : Launch) (k : Kernel) (lseq replica gang rank d agent : Nat) (v : View) : Crew :=
  { k.crew (recKid y.r) with
    run := .starting, agent := agent, lseq := lseq, replica := replica, queued := recGnode y.r, det := k.det, gang := some gang,
    grank := rank, bundles := launchBundles k (recMint y.r) d v, c := launchParams y.r replica }

/-- The holds become reservations: the gang, its trees, its crews, and the mint on its way to the root (R30, R315). Launches that
are complete happen before the start (R113). -/
def State.commitRep (s : State) (lseq replica die origin : Nat) (cores : List Nat) (d : Nat) : State :=
  let y := s.launch lseq
  let k := s.launchKernel y
  let gn := s.gangNext
  let slotOf (c : Nat) : Nat :=
    (((s.core c).holds.find? fun h => h.lseq == lseq && h.replica == replica).map HoldRes.slot).getD 0
  let ms := cores.zipIdx.map fun e => (e.2, e.1, slotOf e.1)
  let g : Gang := { (default : Gang) with
    members := ms.map fun e => (e.1, e.2), w := k.gw, h := k.gh, was := ms.map fun e => (e.1, e.2),
    trees := y.trees.zipIdx.map fun e => (e.2, e.1) }
  let s1 := { s.releaseHolds lseq (some replica) with
    gangs := put s.gangs gn g, gangNext := gn + 1, agentNext := s.agentNext + ms.length }
  let s2 := ms.foldl (fun t e => t.takeIn e.2.1 e.2.2 (y.crew k lseq replica gn e.1 d (s.agentNext + e.1) s.doneView)) s1
  let s3 := s2.setDie die { s2.die die with cursor := (origin + 1) % 192 }
  let s4 := s3.setLaunch lseq { y with reps := put y.reps replica .committed, left := put y.left replica cores.length }
  s4.toRoot (.mint (some (lseq, replica))) d (repMint k y.r) ⟨0, 0, 0⟩ 0 []

/-- How many die cycles the k-th failure backs off (R31, R383). -/
def backoffCycles (v : BitVec 16) (k : Nat) : Nat := v.toNat % min (16 * 2 ^ (k - 1)) 65536

/-- `GANG_HOLD_ANSWER` (R30, R31, R357): when every core has answered, the placer commits or releases. -/
def execGangHoldAnswer (launch replica core : Nat) (s : State) : Out :=
  let y := s.launch launch
  match find y.reps replica with
  | some (.holding die origin fails cores yes no) =>
    if !cores.contains core || yes.contains core || no.contains core then .next s
    else
      let k := s.launchKernel y
      let got := (s.core core).hold k launch replica
      let s1 := match got with
        | some x => s.setCore core x
        | none => s
      let yes1 := if got.isSome then yes ++ [core] else yes
      let no1 := if got.isSome then no else no ++ [core]
      if yes1.length + no1.length < cores.length then
        .next (s1.setRep launch replica (.holding die origin fails cores yes1 no1))
      else if !no1.isEmpty then
        let until_ := (s.die die).dcyc + backoffCycles (s.lfsrOf (1024 + die)) (fails + 1)
        .next ((s1.freeHolds launch (some replica)).setRep launch replica (.backoff die (fails + 1) until_))
      else
        match s.commitCheck y (recDom k y.r) (repMint k y.r) with
        | some st => .next ((s1.freeHolds launch none).setLaunch launch (y.cut st))
        | none => .next (s1.commitRep launch replica die origin cores ((recDom k y.r).getD 0))
  | _ => .next s

/-- `PLACER_BACKOFF_EXPIRE` (R31). -/
def execPlacerBackoffExpire (launch replica : Nat) (s : State) : Out :=
  match find (s.launch launch).reps replica with
  | some (.backoff die fails until_) =>
    if (s.die die).dcyc < until_ then .next s else .next (s.setRep launch replica (.offered die fails 0))
  | _ => .next s

/-- The crews of a replica whose mint the root refused leave their cores. -/
def State.dropRep (s : State) (lseq replica status : Nat) : State :=
  let mine := (s.workCrews lseq).filter fun c => (s.crew c.1 c.2).replica == replica
  let gangs := mine.filterMap fun c => (s.crew c.1 c.2).gang
  let s1 := mine.foldl (fun s c => s.dropCrew c.1 c.2) s
  let y := (s1.launch lseq).cut status
  let y1 := { y with reps := put y.reps replica .retired, left := del y.left replica }
  let s2 := ({ s1 with gangs := s1.gangs.filter fun g => !gangs.contains g.1 }.freeHolds lseq none).setLaunch lseq y1
  (mine.foldl (fun s c => s.freed c.1) s2).wakeWaiting

/-- `QD_MINT` (R126, R357): the root applies a mint; a replica whose mint it cannot take does not start. -/
def execQdMint (idx : Nat) (s : State) : Out :=
  match s.rootMsg idx fun k => match k with
    | .mint _ => true
    | _ => false with
  | none => .next s
  | some m =>
    let s1 := s.dropMsg idx
    match s1.applyMint m.dom m.amount with
    | some t => .next t
    | none =>
      match m.kind with
      | .mint (some (lseq, r)) => .next (s1.dropRep lseq r (if (s.dom m.dom).st = .opened then 6 else 5))
      | _ => .next s1

/-- `CREW_START` (R32): not before the replica's mint. -/
def execCrewStart (core slot : Nat) (s : State) : Out :=
  let k := s.crew core slot
  if !s.hasCrew core slot || k.run != .starting || s.unminted k.lseq k.replica then .next s
  else
    let s1 := s.setCrew core slot { k with run := .running }
    match find s1.launches k.lseq with
    | some y => .next (s1.setLaunch k.lseq { y with reps := put y.reps k.replica .started })
    | none => .next s1

end Sys2Proof.Machine
end

