-- ==== Sys2Proof/Machine/Windows.lean ====
section
/-!
DEFINITION. Record windows and fabric sessions (R347, R348, R352), the decision of a record (R354, R315), and the
completion of launches and graphs (R358-R362).
-/

namespace Sys2Proof.Machine

/-! ### The sequencer's own accesses -/

/-- The leaf that maps an address of an account's space, for an agent of the hub: it walks the tables itself in either mode. -/
def State.hubLeaf (s : State) (acct va : Nat) : Option Tlb :=
  match s.tlbFind 768 acct va with
  | some t => some t
  | none =>
    match s.walkRoot acct va (s.acctRoot acct) with
    | .leaf t => some t
    | .fault _ => none

/-- The cells of bytes within one page of an account's space, for an agent of the hub. -/
def State.hubCells (s : State) (acct va n : Nat) (acc : Acc) : Option (List Nat) :=
  if outside va n then none
  else
    (s.hubLeaf acct va).bind fun t =>
      if acc == .write && (!t.writable || t.farRefuses .write || s.readOnly acct va) then none
      else some ((List.range n).map fun i => t.cellOf (va + i))

def State.send (s : State) (m : OutMsg) : State := { s with outLog := s.outLog ++ [m] }
def State.window (s : State) (w : Nat) : Window := findD s.windows w default
def State.setWindow (s : State) (w : Nat) (x : Window) : State := { s with windows := put s.windows w x }

/-! ### Datagrams (Table 23-19) -/

def dgMagic : Nat := 0x53444E39
/-- A datagram from the module. -/
def dgBytes (kind w session dseq : Nat) (body : List Byte) : List Byte :=
  leBytes (dgMagic + 2 ^ 32 + kind * 2 ^ 40 + w * 2 ^ 48) 8 ++ leBytes session 4 ++ leBytes dseq 4 ++
    leBytes body.length 2 ++ List.replicate 14 0 ++ body
/-- The reply to a record: the window's status word. -/
def State.reply (s : State) (w : Nat) (q : Session) (dseq : Nat) : State :=
  s.send (.datagram q.peer q.port (dgBytes 2 w q.session.toNat dseq (leBytes (s.window w).statusWord 8)))

/-! ### Reports and interrupts (R358, Table 23-11) -/

/-- The fields of a completion report. -/
def reportBytes (r lseq status tcause result fire miss : Nat) : List Byte :=
  leBytes (2 ^ 255 + (if recGnode r then recNode r else 0) * 2 ^ 240 + miss * 2 ^ 236 + fire * 2 ^ 232 + tcause % 256 * 2 ^ 224 +
    status * 2 ^ 192 + lseq % 2 ^ 64 * 2 ^ 128 + result * 2 ^ 64 + recTag r) 32

/-- The report is written where the record asks for one; one whose write faults is dropped and counted. -/
def State.report (s : State) (acct comp : Nat) (bs : List Byte) : State :=
  if comp = 0 ∨ comp % 32 ≠ 0 then s
  else
    match s.hubCells acct comp 32 .write with
    | none => s.count 10 1
    | some cs => (s.wrotePage comp).storePhys (cs.zip bs)

/-- The window's interrupt, or the completion datagram of its session. -/
def State.irq (s : State) (w : Nat) (bs : List Byte) : State :=
  if w < 16 then (if s.pcieUp then s.send (.msix w) else s)
  else
    match find s.sessions w with
    | some q =>
      { s with sessions := put s.sessions w { q with sent := q.sent + 1 } }.send
        (.datagram q.peer q.port (dgBytes 3 w q.session.toNat (q.sent + 1) bs))
    | none => s

/-- A record's end: its report, then its interrupt. -/
def State.endRec (s : State) (acct w r : Nat) (bs : List Byte) : State :=
  let s1 := s.report acct (recComp r) bs
  if recIrq r then s1.irq w bs else s1

/-! ### Writing records (R347) -/

/-- A record is committed: it enters the acceptance queue, or is dropped when that is full. -/
def State.commitRec (s : State) (w : Nat) (rec_ : BitVec 2048) (units : BitVec 32) : State × Bool :=
  let x := s.window w
  if 16 ≤ x.queue.length then ((s.setWindow w { x with drops := min (x.drops + 1) 255 }).count 9 1, false)
  else (s.setWindow w { x with queue := x.queue ++ [(rec_, units)] }, true)

/-- The units that `n` bytes from `off` touch. -/
def unitsOf (off n : Nat) : BitVec 32 :=
  if n = 0 then 0 else (List.range 32).foldl (fun m i => if off / 8 ≤ i ∧ i ≤ (off + n - 1) / 8 then m ||| (1#32 <<< i) else m) 0

/-- `WINDOW_WRITE`: a host write to BAR0. -/
def execWindowWrite (w off : Nat) (bytes : List Byte) (s : State) : Out :=
  let x := s.window w
  let bs := bytes.take (256 - off)
  if 16 ≤ w ∨ !s.pcieUp ∨ !x.isOpen ∨ bs.isEmpty then .next s
  else
    let cur := x.cur.writeL off bs
    let units := x.units ||| unitsOf off bs.length
    if off + bs.length ≤ 0xF8 then .next (s.setWindow w { x with cur := cur, units := units })
    else .next ((s.setWindow w { x with cur := [], units := 0 }).commitRec w (BitVec.ofNat 2048 (cur.readNat 0 256)) units).1

/-- `WINDOW_OPEN` (R347, R352, R364): a window of 16 to 255 is opened with the peer admitted to it. -/
def execWindowOpen (w acct : Nat) (peer : BitVec 128) (port : BitVec 16) (session : Word) (s : State) : Out :=
  let x := s.window w
  if 256 ≤ w ∨ x.isOpen then .next s
  else
    let s1 := { s.setWindow w { x with isOpen := true, acct := acct } with windowOpened := true }
    if w < 16 then .next s1
    else .next { s1 with sessions := put s1.sessions w ⟨peer, port, session, 0, 0, []⟩ }

/-- `WINDOW_CLOSE` (R347): undecided records are discarded and counted. -/
def execWindowClose (w : Nat) (s : State) : Out :=
  let x := s.window w
  if !x.isOpen then .next s
  else
    let s1 := s.setWindow w { x with isOpen := false, queue := [], cur := [], units := 0 }
    .next { s1.count 9 x.queue.length with sessions := del s1.sessions w }

/-- `FABRIC_DATAGRAM` (R352). -/
def execFabricDatagram (src : BitVec 128) (port : BitVec 16) (bytes : List Byte) (s : State) : Out :=
  let f (o n : Nat) : Nat := leNat ((bytes.drop o).take n)
  let w := f 6 2
  match find s.sessions w with
  | none => .next s
  | some q =>
    if q.peer != src || q.port != port || f 0 4 != dgMagic || f 4 1 != 1 || f 5 1 != 1 || f 8 4 != q.session.toNat ||
        f 16 2 != 256 || f 18 14 != 0 || bytes.length != 288 then .next s
    else
      let dseq := f 12 4
      if dseq ≤ q.dseq then .next (s.reply w q dseq)
      else
        let r := s.commitRec w (BitVec.ofNat 2048 (f 32 256)) 0xFFFFFFFF
        .next { r.1 with
          sessions := put r.1.sessions w { q with dseq := dseq, answers := if r.2 then q.answers ++ [dseq] else q.answers } }

/-! ### Tree records (R315) -/

/-- Whether a rank has a neighbour through a port. -/
def hasNeighbour (w h rank port : Nat) : Bool :=
  if port = 1 then decide (w ≤ rank)
  else if port = 2 then decide (rank % w + 1 < w)
  else if port = 3 then decide (rank / w + 1 < h)
  else port == 4 && decide (0 < rank % w)

/-- Whether a rank belongs to the tree. -/
def inTree (r w h g : Nat) : Bool := decide (g < w * h) && entNin (treeEntry r g) != 0

/-- Following parents from a rank reaches the root. -/
def reachesRoot (r w root : Nat) (g : Nat) : Nat → Bool
  | 0 => false
  | n + 1 => if g = root then true else if entParent (treeEntry r g) = 0 then false
    else reachesRoot r w root (neighbour w g (entParent (treeEntry r g))) n

/-- The conditions on one router's entry. -/
def entryOk (r w h g : Nat) : Bool :=
  let e := treeEntry r g
  let ps := entSlots e
  let child (p : Nat) : Bool :=
    p == 0 || (hasNeighbour w h g p && inTree r w h (neighbour w g p) && entParent (treeEntry r (neighbour w g p)) == facing p)
  let kids := [1, 2, 3, 4].filter fun p =>
    hasNeighbour w h g p && inTree r w h (neighbour w g p) && entParent (treeEntry r (neighbour w g p)) == facing p
  bits e 31 23 == 0 && bits e 19 18 == 0 &&
    (entNin e == 0 ||
      (decide (entNin e ≤ 5) && decide (g < w * h) && ps.all (fun p => decide (p ≤ 4) && child p) && ps.Nodup &&
        (List.range 5).all (fun k => decide (k < entNin e) || entSlot e k == 7) && kids.all ps.contains &&
        decide (entParent e ≤ 4) && (entParent e == 0) == (g == treeRoot r) &&
        (entParent e == 0 || (hasNeighbour w h g (entParent e) && inTree r w h (neighbour w g (entParent e))))))

/-- Whether a tree record may be installed in a gang of w by h crews of this many scratchpad lines. -/
def treeOk (r w h slines : Nat) : Bool :=
  bits r 1023 640 == 0 && bits r 607 596 == 0 && bits r 591 576 == 0 && bits r 575 532 == 0 &&
    inTree r w h (treeRoot r) && (List.range 16).all (entryOk r w h) &&
    (List.range 16).all (fun g => !inTree r w h g || reachesRoot r w (treeRoot r) g 16) &&
    treeDest r % 128 == 0 && decide (treeDest r + 136 ≤ slines * 128)

/-- The records of a tree table; none when one cannot be read. -/
def State.readTrees (s : State) (acct at_ : Nat) : Nat → Option (List (BitVec 1024))
  | 0 => some []
  | n + 1 =>
    match s.hubCells acct at_ 128 .read with
    | none => none
    | some cs =>
      if cs.any s.cellPoison then none
      else (State.readTrees s acct (at_ + 128) n).map fun l => BitVec.ofNat 1024 (leNat (s.cells cs)) :: l

/-! ### The decision (R354) -/

/-- Step 1. -/
def recBad (r : Nat) (units : BitVec 32) : Bool :=
  recCommit r != 0x53544E39 || units != 0xFFFFFFFF || bits r 511 389 != 0 || bits r 319 318 != 0 || bits r 303 300 != 0 ||
    bits r 255 244 != 0 || bits r 239 236 != 0 || bits r 207 205 != 0 || bits r 1983 1536 != 0 ||
    (List.range 4).any (fun n => bits (recEdge r n) 127 78 != 0) || recComp r % 32 != 0 || decide (16 < recTrees r) ||
    recTreetab r % 128 != 0 || (recTrees r == 0 && recTreetab r != 0) || (!recGnode r && bits r 1535 1024 != 0)

/-- Nodes that are installed and not yet completed. -/
def State.nodes (s : State) (acct graph : Nat) : List (Nat × Launch) :=
  s.launches.filter fun e => recGnode e.2.r && recAcct e.2.r == acct && recGraph e.2.r == graph
def State.node (s : State) (acct graph n : Nat) : Option (Nat × Launch) :=
  (s.nodes acct graph).find? fun e => recNode e.2.r == n

/-- The checks, in order: the code of Table 23-9, or the tree records of an accepted record. -/
def State.decideRec (s : State) (acct r : Nat) (units : BitVec 32) : Except Nat (List (BitVec 1024)) :=
  if recBad r units then .error 2
  else if recAcct r ≠ acct then .error 8
  else
    match find s.kernels (recKid r) with
    | none => .error 3
    | some k =>
      if (recBundles r ≠ 0 ∧ recBundles r ≠ k.nbundles) ∨ (recGw r ≠ 0 ∧ recGw r ≠ k.gw) ∨ (recGh r ≠ 0 ∧ recGh r ≠ k.gh) then
        .error 4
      else
        match recDom k r with
        | none => .error 5
        | some d =>
          if (s.dom d).st ≠ .opened ∨ !s.assigned d acct then .error 5
          else if countMax < (s.counts d).1 + repMint k r * recReps r then .error 6
          else
            match s.readTrees acct (recTreetab r) (recTrees r) with
            | none => .error 7
            | some ts =>
              if ts.any fun t => !treeOk t.toNat k.gw k.gh k.slines then .error 7
              else if recGnode r && ((s.node acct (recGraph r) (recNode r)).isSome ||
                  decide (65536 ≤ (s.launches.filter fun e => recGnode e.2.r).length)) then .error 9
              else .ok ts

/-- An accepted record takes the next sequence number; its replicas are offered to their first die (R355, R356, R359). -/
def State.acceptRec (s : State) (w r : Nat) (ts : List (BitVec 1024)) : State :=
  let lseq := s.nextLseq
  let fires := if recGnode r ∧ recStart r then 1 else 0
  let y : Launch :=
    { rec_ := BitVec.ofNat 2048 r, win := w,
      reps := (List.range (recReps r)).map fun i => (i, .offered (firstDie lseq) 0 0),
      left := [], result := 0, detKey := none, trees := ts, ended := none,
      go := !recGnode r || decide (recPreds r ≤ fires), firings := fires, order := 0, view := [] }
  { s.setLaunch lseq y with nextLseq := lseq + 1 }

/-- The reply that a session's record awaits. -/
def State.answerRec (s : State) (w : Nat) : State :=
  match find s.sessions w with
  | some q =>
    match q.answers with
    | d :: rest => { s with sessions := put s.sessions w { q with answers := rest } }.reply w q d
    | [] => s
  | none => s

/-- `RECORD_DECIDE` (R354). A report whose page is being promoted is written after that (Table 09-4). -/
def execRecordDecide (w : Nat) (s : State) : Out :=
  let x := s.window w
  match x.queue with
  | [] => .next s
  | (rec_, units) :: rest =>
    let r := rec_.toNat
    let got := s.decideRec x.acct r units
    let code := match got with
      | .error c => c
      | .ok _ => 0
    let s1 := s.setWindow w { x with queue := rest, lastSeq := recSeq r, verdict := code }
    if code ≠ 0 ∧ s.promoting (recComp r) then .next s else
    match got with
    | .ok ts => .next ((s1.acceptRec w r ts).answerRec w)
    | .error c => .next ((s1.answerRec w).endRec x.acct w r (reportBytes r 0 c 0 0 0 0))

/-! ### Completion (R358) -/

/-- The buffered additions of a launch, in the order of their keys (R55). -/
def sortAdds (l : List DetAdd) : List DetAdd :=
  let key (x : DetAdd) : List Nat := [x.replica, x.grank, x.bundle, x.lane]
  l.foldl (fun a x => (a.filter fun y => keyLe (key y) (key x)) ++ [x] ++ a.filter fun y => !keyLe (key y) (key x)) []
def State.applyAdd (s : State) (x : DetAdd) : State :=
  let cs := (List.range 4).map fun i => x.addr + i
  if cs.any s.cellPoison then s
  else s.storePhys (cs.zip (leBytes (rneAdd (leNat (s.cells cs)) x.val.toNat) 4))
/-- At the end of a launch the additions are applied, or discarded when a fault has ended it. -/
def State.applyDet (s : State) (lseq : Nat) (discard : Bool) : State :=
  let mine := sortAdds (s.detBuf.filter fun x => x.lseq == lseq)
  let s1 := { s with detBuf := s.detBuf.filter fun x => x.lseq != lseq }
  if discard then s1 else mine.foldl State.applyAdd s1

/-- R360: whether an edge holds for a result. -/
def edgeHolds (e result : Nat) : Bool :=
  let op := bits e 63 0
  let c := bits e 76 74
  if c = 0 then false
  else if c = 1 then true
  else if c = 2 then result == op
  else if c = 3 then result != op
  else if c = 4 then decide (result < op)
  else if c = 5 then decide (op ≤ result)
  else if c = 6 then decide (sext 64 result < sext 64 op)
  else decide (sext 64 op ≤ sext 64 result)

/-- One firing at a node that waits; a node whose firings reach PREDS may be placed (R359). -/
def State.fire (s : State) (lseq : Nat) (y : Launch) : State :=
  let n := y.firings + 1
  if recPreds y.r ≤ n then
    { s.setLaunch lseq { y with firings := n, go := true, order := s.fireNext + 1 } with fireNext := s.fireNext + 1 }
  else s.setLaunch lseq { y with firings := n }

/-- R361: edges in order, with EDGEFIRE and EDGEMISS. -/
def State.edges (s : State) (r result : Nat) : List Nat → State × Nat × Nat
  | [] => (s, 0, 0)
  | n :: rest =>
    let e := recEdge r n
    if edgeHolds e result then
      let dest := (s.node (recAcct r) (recGraph r) (bits e 73 64)).filter fun p => !p.2.go
      let s1 := match dest with
        | some p => s.fire p.1 p.2
        | none => s
      let q := if e.testBit 77 then (s1, 0, 0) else State.edges s1 r result rest
      (q.1, q.2.1 + 2 ^ n, q.2.2 + (if dest.isSome then 0 else 2 ^ n))
    else State.edges s r result rest

/-- R362: a graph none of whose nodes runs or waits for placement ends, and its nodes that never started are UNFIRED. -/
def State.judge (s : State) (acct graph : Nat) : State :=
  let ns := s.nodes acct graph
  if ns.any fun e => e.2.go then s
  else
    let order := sortNats (ns.map fun e => recNode e.2.r)
    order.foldl (fun s n =>
      match s.node acct graph n with
      | some (lseq, y) =>
        { s with launches := del s.launches lseq }.endRec acct y.win y.r (reportBytes y.r lseq 10 0 0 0 0)
      | none => s) s

/-- `LAUNCH_COMPLETE` (R55, R113, R358, R361, R362): what the launch has done happens before whatever is done after it; a report
whose page is being promoted is written after that (Table 09-4). -/
def execLaunchComplete (lseq : Nat) (s : State) : Out :=
  match find s.launches lseq with
  | none => .next s
  | some y =>
    let waits (z : Launch) : Bool := s.promoting (recComp z.r)
    if !y.reps.all (fun e => e.2 == .retired) || waits y ||
        (recGnode y.r && (s.nodes (recAcct y.r) (recGraph y.r)).any fun e => !e.2.go && waits e.2) then .next s
    else
      let st := y.ended.getD (0, 0)
      let r := y.r
      let result := if st.1 = 0 then y.result.toNat else 0
      let s1 := { s with doneView := s.doneView.join y.view }.applyDet lseq (st.1 == 1)
      let e := if st.1 = 0 ∧ recGnode r then s1.edges r result [0, 1, 2, 3] else (s1, 0, 0)
      let s2 := e.1.endRec (recAcct r) y.win r (reportBytes r lseq st.1 st.2 result e.2.1 e.2.2)
      let s3 := { s2 with launches := del s2.launches lseq }
      .next (if recGnode r then s3.judge (recAcct r) (recGraph r) else s3)

end Sys2Proof.Machine
end

