-- ==== Sys2Proof/Machine/Boot.lean ====
section
/-!
DEFINITION. Module reset and network boot (R340-R342, R350), measurements and attestation (R343, R344, R393), the
management mailbox (R351), and the host's aperture (R365).
-/

namespace Sys2Proof.Machine

/-! ### Measurements (R343) -/

def State.meas1 (s : State) (m : Nat) : BitVec 512 := findD s.meas m 0
/-- M becomes the hash of M followed by x. -/
def State.extend (s : State) (m : Nat) (x : List Byte) : State :=
  { s with meas := setD s.meas m (Config.sha512 (leBytes (s.meas1 m).toNat 64 ++ x)) 0 }

/-- `MEASUREMENT_EXTEND`: firmware extends M4 to M7 only. -/
def execMeasurementExtend (m : Nat) (data : List Byte) (s : State) : Out :=
  if 4 ≤ m ∧ m ≤ 7 then .next (s.extend m data) else .next s

/-! ### Reset and boot (R340) -/

/-- `MODULE_RESET`: the state after reset, but for fuses, memory and the outside. -/
def execModuleReset (s : State) : Out :=
  .next { State.reset with
    fsvn := s.fsvn, mem := s.mem, poison := s.poison, hostMem := s.hostMem, tick := s.tick, opSeq := s.opSeq,
    draws := s.draws, outLog := s.outLog }

/-- A port has failed at a step: the next is tried, or all have failed and the ROM waits. -/
def State.bootFail (s : State) (step : Nat) : State :=
  let b := s.boot
  let b1 := { b with failPort := b.port, failStep := step, tries := 0, lease := none }
  { s with boot := if 7 ≤ b.port then { b1 with phase := 1, rounds := min (b.rounds + 1) 255, port := 0 }
                   else { b1 with port := b.port + 1 } }

/-- `BOOT_DHCP_TIMEOUT`: three attempts by DHCP and three by DHCPv6. -/
def execBootDhcpTimeout (s : State) : Out :=
  if s.boot.phase ≠ 0 ∨ s.boot.lease.isSome then .next s
  else if s.boot.tries + 1 < 6 then .next { s with boot := { s.boot with tries := s.boot.tries + 1 } }
  else .next (s.bootFail 1)

/-- The bytes of "http://". -/
def httpPrefix : List Byte := [0x68, 0x74, 0x74, 0x70, 0x3A, 0x2F, 0x2F]

/-- `BOOT_DHCP_REPLY`: an address, and a boot URL when there is one. -/
def execBootDhcpReply (addr : BitVec 128) (url : List Byte) (s : State) : Out :=
  if s.boot.phase ≠ 0 ∨ s.boot.lease.isSome then .next s
  else if !httpPrefix.isPrefixOf url then .next (s.bootFail 2)
  else .next { s with boot := { s.boot with lease := some (addr, url) } }

/-- `BOOT_RETRY_EXPIRE`: port 0 is tried again. -/
def execBootRetryExpire (s : State) : Out :=
  if s.boot.phase = 1 then .next { s with boot := { s.boot with phase := 0, port := 0, tries := 0, lease := none } } else .next s

/-! ### The image (R341, R342) -/

/-- A field of a list of bytes. -/
def fieldAt (l : List Byte) (o n : Nat) : Nat := leNat ((l.drop o).take n)
def sliceAt (l : List Byte) (o n : Nat) : List Byte := (l.drop o).take n

def bootRegion : Nat := 2 ^ 29
def maniComps (m : List Byte) : Nat := fieldAt m 12 4
def maniBody (m : List Byte) : Nat := 64 + 128 * maniComps m + 32 + 1952
/-- A component: where it goes, its size, KIND and HASH. -/
def maniComp (m : List Byte) (c : Nat) : Nat × Nat × Nat × Nat :=
  let o := 64 + 128 * c
  (fieldAt m (o + 32) 8, fieldAt m (o + 40) 8, fieldAt m (o + 48) 4, fieldAt m (o + 64) 64)
def maniAll (m : List Byte) : List (Nat × Nat × Nat × Nat) := (List.range (maniComps m)).map (maniComp m)
/-- The manifest's length. -/
def maniLen (m : List Byte) : Nat := maniBody m + 64 + 3309

/-- The unrevoked slot, from `base` on, that holds a key's hash. -/
def keySlotOf (base : Nat) (key : List Byte) : Option Nat :=
  (List.range 4).find? fun i => !Config.keyRevoked (base + i) && Config.keySlot (base + i) == Config.sha512 key

def maniFormed (m : List Byte) : Bool :=
  fieldAt m 0 4 == 0x464E4D53 && fieldAt m 4 4 == 1 && decide (1 ≤ maniComps m) && decide (maniComps m ≤ 64) &&
    fieldAt m 16 4 == maniBody m && fieldAt m 20 44 == 0 &&
    (List.range (maniComps m)).all fun c => fieldAt m (64 + 128 * c + 52) 12 == 0

/-- Whether components lie within the region, apart from each other, and have their hashes. -/
def compsOk (m region : List Byte) : Bool :=
  let cs := (maniAll m).zipIdx
  cs.all fun c =>
    decide (c.1.1 + c.1.2.1 ≤ bootRegion) &&
      cs.all (fun d => d.2 == c.2 || decide (c.1.1 + c.1.2.1 ≤ d.1.1) || decide (d.1.1 + d.1.2.1 ≤ c.1.1)) &&
      (Config.sha512 (sliceAt region c.1.1 c.1.2.1)).toNat == c.1.2.2.2

/-- The first check of R340 and R342 that an image fails, as a step of Table 23-16; or the key slots used. -/
def imageCheck (fsvn : Nat) (m region : List Byte) : Except Nat (Nat × Nat) :=
  let body := maniBody m
  let edpk := sliceAt m (body - 1984) 32
  let mlpk := sliceAt m (body - 1952) 1952
  if bootRegion < region.length then .error 4
  else if !maniFormed m then .error 5
  else
    match keySlotOf 0 edpk, keySlotOf 4 mlpk with
    | some e, some k =>
      if !Config.ed25519 edpk (m.take body) (sliceAt m body 64) || !Config.mldsa mlpk (m.take body) (sliceAt m (body + 64) 3309) then
        .error 7
      else if fieldAt m 8 4 < fsvn then .error 8
      else if !compsOk m region then .error 9 else .ok (e, k)
    | _, _ => .error 6

/-- The image runs: house core 0 at the first component of KIND 0, and the others with it. -/
def State.startImage (s : State) (entry : Nat) : State :=
  let z : Lane := { (default : Lane) with pc := BitVec.ofNat 64 entry }
  let y : Crew := { houseCrew with bundles := [(0, { houseBundle with lanes := [(0, z)] })] }
  (List.range 16).foldl (fun s h =>
    let s1 := s.setCore (768 + h) { s.core (768 + h) with crews := [(0, { y with agent := h })] }
    s1.setHouse (768 + h) { s1.houseOf (768 + h) with held := false }) s

/-- `BOOT_FETCH_COMPLETE` (R340-R343): the manifest, followed by the bytes of the boot region. -/
def execBootFetchComplete (http : Nat) (image : List Byte) (s : State) : Out :=
  match s.boot.phase, s.boot.lease with
  | 0, some (addr, url) =>
    if http ≠ 200 then .next (s.bootFail 3)
    else
      let m := image.take (maniLen image)
      let region := image.drop (maniLen image)
      match imageCheck s.fsvn m region with
      | .error step => .next (s.bootFail step)
      | .ok (e, k) =>
        let comps := maniAll m
        let s1 := comps.foldl (fun s c => s.storePhysL (Config.bootBase + c.1) (sliceAt region c.1 c.2.1)) s
        let s2 := (s1.extend 0 (Config.romBytes ++ leBytes s.fsvn 8)).extend 1 (leBytes (Config.sha512 (m.take (maniBody m))).toNat 64)
        let s3 := comps.foldl (fun s c => s.extend 2 (leBytes c.2.2.2 64)) s2
        let s4 := s3.extend 3 (leBytes s.boot.port 1 ++ leBytes addr.toNat 16 ++ url)
        let entry := Config.bootBase + ((comps.find? fun c => c.2.2.1 == 0).map (·.1)).getD 0
        .next { s4.startImage entry with
          boot := { s.boot with phase := 2 }, svn := fieldAt m 8 4, edSlot := e, mlSlot := k }
  | _, _ => .next s

/-! ### The management mailbox (R344, R351, R393) -/

/-- BUSY. -/
def State.busy (s : State) : Bool := s.mstatus.getLsbD 0

/-- The host writes a byte of the mailbox; MSTATUS and the zero bytes take none (DESIGN CHOICE, assumption 33). -/
def State.mailByte (s : State) (off : Nat) (b : Byte) : State :=
  if 0x2000 ≤ off ∧ off < 0x2008 then
    { s with mcmd := BitVec.ofNat 64 (leNat ((leBytes s.mcmd.toNat 8).set (off - 0x2000) b)) }
  else if 0x2010 ≤ off ∧ off < 0x2018 then
    { s with respAddr := BitVec.ofNat 64 (leNat ((leBytes s.respAddr.toNat 8).set (off - 0x2010) b)) }
  else if 0x2040 ≤ off ∧ off < 0x20C0 then { s with mdata := s.mdata.writeL (off - 0x2040) [b] }
  else s

/-- A host write to BAR2 (R349, R351): one of MCMD submits a request and sets BUSY, and is discarded while BUSY is 1. -/
def State.mailWrite (s : State) (off : Nat) (bs : List Byte) : State :=
  let cmd (a : Nat) : Bool := decide (0x2000 ≤ a) && decide (a < 0x2008)
  let ws := (bs.zipIdx.map fun e => (off + e.2, e.1)).filter fun e => !(s.busy && cmd e.1)
  let s1 := ws.foldl (fun s e => s.mailByte e.1 e.2) s
  if ws.any fun e => cmd e.1 then { s1 with mstatus := s1.mstatus ||| 1 } else s1

/-- The host submits a whole request: data and response address, then the command. -/
def State.submit (s : State) (cmd : Nat) (mseq : Word) (resp : DWord) (data : List Byte) : State :=
  (((s.mailWrite 0x2040 (data.take 128 ++ List.replicate (128 - data.length) 0)).mailWrite 0x2010 (leBytes resp.toNat 8)).mailWrite 0x2000
    (leBytes (mseq.toNat * 2 ^ 32 + cmd) 8))

/-- The command of the request that waits. -/
def State.mailCmd (s : State) : Nat := s.mcmd.toNat % 2 ^ 32

/-- The firmware answers the request that waits: MSTATUS, with BUSY clear, and interrupt 16. -/
def State.mailDone (s : State) (result : Nat) : State :=
  let s1 := { s with mstatus := BitVec.ofNat 64 (s.mcmd.toNat / 2 ^ 32 * 2 ^ 32 + result * 256) }
  if s.pcieUp then s1.send (.msix 16) else s1

/-- The firmware writes a response into host memory, which may take it or not. -/
def State.respond (s : State) (at_ : Nat) (ws : List (Nat × List Byte)) : State :=
  if !s.pcieUp || !Config.hostTakes at_ s.tick then s.mailDone 3
  else { s with hostMem := ws.foldl (fun (m : Mem) (w : Nat × List Byte) => m.writeL (at_ + w.1) w.2) s.hostMem }.mailDone 0

/-- Bytes padded, or cut, to a length. -/
def padded (n : Nat) (l : List Byte) : List Byte := (l ++ List.replicate n 0).take n

/-- The signed part of the attestation report (Table 23-3). -/
def State.attest (s : State) (data : List Byte) : List Byte :=
  leBytes (0x54415453 + 2 ^ 32 + s.svn % 2 ^ 16 * 2 ^ 64 + s.fsvn % 2 ^ 16 * 2 ^ 80 +
      (s.edSlot % 4 + s.mlSlot % 4 * 4) * 2 ^ 96 + (s.supReg 0x10B).toNat % 2 ^ 32 * 2 ^ 128) 32 ++
    padded 128 data ++ (List.range 8).flatMap (fun i => leBytes (s.meas1 i).toNat 64) ++ List.replicate 480 0

/-- The response to REPORT: the report, and the two certificates with their lengths. -/
def State.reportParts (s : State) (data : List Byte) : List (Nat × List Byte) :=
  let body := s.attest data
  let rep := body ++ padded 64 (Config.edSign body) ++ padded 3309 (Config.mlSign body)
  [(0, rep), (8192, leBytes Config.edCert.length 4 ++ leBytes Config.mlCert.length 4 ++ Config.edCert ++ Config.mlCert)]

/-- A request for an FSVN (R351, R393): refused above the running image's SVN; FSVN never falls. -/
def State.raiseTo (s : State) (data : List Byte) : Option State :=
  let n := fieldAt data 0 1
  if s.svn < n ∨ n = 0 ∨ 64 < n ∨ fieldAt data 1 127 ≠ 0 then none else some { s with fsvn := max s.fsvn n }

/-- A request is performed: the one that waits, when BUSY is 1 and its command is of this kind; otherwise one that the host
submits now. Without the host port the firmware performs `own`, a request of its own (DESIGN CHOICE, assumption 33). -/
def State.mailRequest (s : State) (mine : Nat → Bool) (cmd : Nat) (mseq : Word) (resp : DWord) (data : List Byte) (act : State → State)
    (own : State) : Out :=
  if s.boot.phase ≠ 2 then .next s
  else if s.busy then .next (if mine s.mailCmd then act s else s)
  else if !mine cmd then .next s
  else if s.pcieUp then .next (act (s.submit cmd mseq resp data)) else .next own

/-- `MAILBOX_REPORT` (R344, R351). -/
def execMailboxReport (mseq : Word) (resp : DWord) (mdata : List Byte) (s : State) : Out :=
  s.mailRequest (fun c => c == 1) 1 mseq resp mdata
    (fun t => t.respond t.respAddr.toNat (t.reportParts (t.mdata.readN 0 128))) s

/-- `MAILBOX_RAISEFSVN` (R351, R393). -/
def execMailboxRaisefsvn (mseq : Word) (resp : DWord) (mdata : List Byte) (s : State) : Out :=
  s.mailRequest (fun c => c == 2) 2 mseq resp mdata
    (fun t => match t.raiseTo (t.mdata.readN 0 128) with
      | some u => u.mailDone 0
      | none => t.mailDone 2) ((s.raiseTo mdata).getD s)

/-- `MAILBOX_UNKNOWN_COMMAND`: result 1, and nothing else changes. -/
def execMailboxUnknownCommand (cmd : Byte) (mseq : Word) (s : State) : Out :=
  s.mailRequest (fun c => c != 1 && c != 2) cmd.toNat mseq s.respAddr (s.mdata.readN 0 128) (fun t => t.mailDone 1) s

/-! ### The host's aperture (R97, R365) -/

/-- The cells of a range of an account's space. -/
def State.hubRange (s : State) (acct va n : Nat) (acc : Acc) : Option (List Nat) :=
  (List.range n).mapM fun i => (s.hubCells acct (va + i) 1 acc).bind List.head?

/-- `HOST_APERTURE_ACCESS`: a read is answered with the bytes, a write stores them; an access to a page that is not there
reaches nothing. Accounts past the last stand for the other BARs: 65,536 for BAR2, the status page (R349, R351), and above that
BAR0, which reads as all ones (R347; DESIGN CHOICE, assumption 33). -/
def execHostApertureAccess (write : Bool) (acct : Nat) (va : DWord) (bytes : List Byte) (s : State) : Out :=
  let a := va.toNat
  let n := bytes.length
  if !s.pcieUp then .next s
  else if acct = 65536 then
    .next (if write then s.mailWrite a bytes else s.send (.hostRead ((List.range n).map fun i => s.statusByte (a + i))))
  else if 65536 < acct then .next (if write then s else s.send (.hostRead (List.replicate n 0xFF)))
  else if write && (spanPages a n).any s.promoting then .next s
  else
    match s.hubRange acct a n (if write then .write else .read) with
    | none => .next s
    | some cs =>
      if write then .next (((spanPages a n).foldl State.wrotePage s).storePhys (cs.zip bytes)) else .next (s.send (.hostRead (s.cells cs)))

end Sys2Proof.Machine
end

