-- ==== Sys2Proof/Machine/FloatForms.lean ====
section
/-!
DEFINITION. Class 0x1, float (Table 13-4): one meaning for each form.
-/

namespace Sys2Proof.Machine

/-- A float result as what a lane gets. -/
def fOut (r : Nat × FFlags) : LOut := { val := BitVec.ofNat 64 r.1, fl := r.2 }

/-- `FADD` (R228). -/
def execFadd (r : Rm) (t : Ty) (x : Args) (s : State) : Out :=
  s.alu (.fadd r t x) x false .allUniform fun i => fOut (fadd (fmtOf t) (s.rmode r) i.a.toNat i.b.toNat)

/-- `FSUB` (R228). -/
def execFsub (r : Rm) (t : Ty) (x : Args) (s : State) : Out :=
  s.alu (.fsub r t x) x false .allUniform fun i => fOut (fsub (fmtOf t) (s.rmode r) i.a.toNat i.b.toNat)

/-- `FMUL` (R228). -/
def execFmul (r : Rm) (t : Ty) (x : Args) (s : State) : Out :=
  s.alu (.fmul r t x) x false .allUniform fun i => fOut (fmul (fmtOf t) (s.rmode r) i.a.toNat i.b.toNat)

/-- `FFMA` (R228). -/
def execFfma (r : Rm) (t : Ty) (x : Args) (s : State) : Out :=
  s.alu (.ffma r t x) x false .allUniform fun i => fOut (ffma (fmtOf t) (s.rmode r) i.a.toNat i.b.toNat i.c.toNat)

/-- `FMIN` (R62, R229). -/
def execFmin (t : Ty) (x : Args) (s : State) : Out :=
  s.alu (.fmin t x) x false .allUniform fun i => fOut (fminmax (fmtOf t) false i.a.toNat i.b.toNat)

/-- `FMAX` (R62, R229). -/
def execFmax (t : Ty) (x : Args) (s : State) : Out :=
  s.alu (.fmax t x) x false .allUniform fun i => fOut (fminmax (fmtOf t) true i.a.toNat i.b.toNat)

/-- `FABS` (R61, R229). -/
def execFabs (t : Ty) (x : Args) (s : State) : Out :=
  s.alu (.fabs t x) x false .allUniform fun i => fOut (fabsV (fmtOf t) i.a.toNat, 0)

/-- `FNEG` (R61, R229). -/
def execFneg (t : Ty) (x : Args) (s : State) : Out :=
  s.alu (.fneg t x) x false .allUniform fun i => fOut (fnegV (fmtOf t) i.a.toNat, 0)

/-- `FCMP` (R230). -/
def execFcmp (k : FCond) (t : Ty) (x : Args) (s : State) : Out :=
  s.alu (.fcmp k t x) x false .allUniform fun i =>
    let r := fcmpV (fmtOf t) k i.a.toNat i.b.toNat
    { pred := r.1, fl := r.2 }

/-- `FCLASS` (R231). -/
def execFclass (x : Args) (s : State) : Out :=
  s.alu (.fclass x) x false .allUniform fun i => fOut (fclassV i.a.toNat, 0)

/-- `FRND` (R232). -/
def execFrnd (r : Rm) (x : Args) (s : State) : Out :=
  s.alu (.frnd r x) x false .allUniform fun i => fOut (frndV (s.rmode r) i.a.toNat)

/-- `FSCALE` (R232). -/
def execFscale (r : Rm) (x : Args) (s : State) : Out :=
  s.alu (.fscale r x) x false .allUniform fun i => fOut (fscaleV (s.rmode r) i.a.toNat (sx 32 i.b))

/-- `HADD2` (R233). -/
def execHadd2 (r : Rm) (t : Ty) (x : Args) (s : State) : Out :=
  s.alu (.hadd2 r t x) x false .allUniform fun i =>
    fOut (packed2 (fun p q _ => fadd (fmtOf t) (s.rmode r) p q) i.a.toNat i.b.toNat 0)

/-- `HMUL2` (R233). -/
def execHmul2 (r : Rm) (t : Ty) (x : Args) (s : State) : Out :=
  s.alu (.hmul2 r t x) x false .allUniform fun i =>
    fOut (packed2 (fun p q _ => fmul (fmtOf t) (s.rmode r) p q) i.a.toNat i.b.toNat 0)

/-- `HFMA2` (R233). -/
def execHfma2 (r : Rm) (t : Ty) (x : Args) (s : State) : Out :=
  s.alu (.hfma2 r t x) x false .allUniform fun i =>
    fOut (packed2 (fun p q c => ffma (fmtOf t) (s.rmode r) p q c) i.a.toNat i.b.toNat i.c.toNat)

/-- `FDOT2` (R233). -/
def execFdot2 (r : Rm) (t : Ty) (x : Args) (s : State) : Out :=
  s.alu (.fdot2 r t x) x false .allUniform fun i => fOut (fdot2 (fmtOf t) (s.rmode r) i.a.toNat i.b.toNat i.c.toNat)

end Sys2Proof.Machine
end

