-- ==== Sys2Proof/Machine/ConvForms.lean ====
section
/-!
DEFINITION. Class 0x2, conversion and blocks (Table 13-7): one meaning for each form.
-/

namespace Sys2Proof.Machine

/-- `CVT` (R234). -/
def execCvt (r : Rm) (dt st : Ty) (x : Args) (s : State) : Out :=
  s.alu (.cvt r dt st x) x false .general fun i =>
    let v := cvtV dt st (s.rmode r) i.a
    { val := v.1, fl := v.2 }

/-- `PACK2` (R235). -/
def execPack2 (r : Rm) (t : Ty) (x : Args) (s : State) : Out :=
  s.alu (.pack2 r t x) x false .general fun i => fOut (pack2V t (s.rmode r) i.a.toNat i.b.toNat)

/-- `UNPACK2` (R235). -/
def execUnpack2 (t : Ty) (x : Args) (s : State) : Out :=
  s.alu (.unpack2 t x) x false .general fun i =>
    let v := unpack2V t i.a.toNat
    { val := v.1, fl := v.2 }

/-- A group form (R215): each group of sixteen lanes in which a lane is predicated on computes from the sixteen values
its lanes bring, a lane outside the course bringing 0, and gives each of its lanes one result. -/
def groupForm (f : (Nat → LIn) → (Nat → Nat) × FFlags) (ls : List LIn) : List (Nat × LOut) × FFlags :=
  let group (k : Nat) : List (Nat × LOut) × FFlags :=
    if ls.any fun e => e.on && e.lane / 16 == k then
      let r := f fun e => (ls.find? fun i => i.lane == 16 * k + e).getD ⟨16 * k + e, false, 0, 0, 0, false, false, false⟩
      (((ls.filter fun e => e.on && e.lane / 16 == k).map fun e =>
        (e.lane, { val := BitVec.ofNat 64 (r.1 (e.lane % 16)) })), r.2)
    else ([], 0)
  let g0 := group 0
  let g1 := group 1
  (g0.1 ++ g1.1, g0.2 ||| g1.2)

/-- Sixteen sources of a group, as numbers. -/
def groupA (g : Nat → LIn) : List Nat := (List.range 16).map fun e => (g e).a.toNat

/-- `HAD16` (R237): flip bit e comes from bit e of lane e's own b. -/
def execHad16 (x : Args) (s : State) : Out :=
  s.aluG (.had16 x) x false .general (groupForm fun g =>
    let flips := (List.range 16).foldl (fun a e => a + (if (g e).b.getLsbD e then 2 ^ e else 0)) 0
    let r := had16V (groupA g) flips
    (fun e => r.1.getD e 0, r.2))

/-- `QBLK` (R238). -/
def execQblk (f : Bf) (x : Args) (s : State) : Out :=
  s.aluG (.qblk f x) x false .general (groupForm fun g =>
    let r := qblkV (Bf.mbits f) (groupA g)
    (fun w => r.1 / 2 ^ (32 * w) % 2 ^ 32, r.2))

/-- `DQBLK` (R239): words beyond the block are ignored. -/
def execDqblk (f : Bf) (x : Args) (s : State) : Out :=
  s.aluG (.dqblk f x) x false .general (groupForm fun g =>
    let m := Bf.mbits f
    let b := leNat ((groupA g).flatMap fun w => leBytes w 4) % 2 ^ (8 * blockBytes m)
    (fun e => blkDecode b m e, 0))

/-- `SEEDFLIP` (R74, R236). -/
def execSeedflip (x : Args) (s : State) : Out :=
  s.alu (.seedflip x) x false .general fun i => { val := seedflipV i.a i.b }

end Sys2Proof.Machine
end

