-- ==== Sys2Proof/Machine/CrossLane.lean ====
section
/-!
DEFINITION. Class 0x7, cross-lane (Table 14-7): one meaning for each form.
-/

namespace Sys2Proof.Machine

/-- The lanes that take part: those predicated on (R267). -/
def takers (ls : List LIn) : List LIn := ls.filter LIn.on
def maskIf (ls : List LIn) (p : LIn → Bool) : DWord := (maskOf ((ls.filter p).map LIn.lane)).setWidth 64
/-- One value given to every lane that takes part. -/
def giveAll (ls : List LIn) (v : LOut) : List (Nat × LOut) := (takers ls).map fun e => (e.lane, v)

/-- `BALLOT` (R268). -/
def execBallot (x : Args) (s : State) : Out :=
  s.aluG (.ballot x) x false .general fun ls =>
    (giveAll ls { val := maskIf (takers ls) fun e => e.a != 0 }, 0)

/-- `VOTE` (R269). -/
def execVote (m : VoteMode) (x : Args) (s : State) : Out :=
  s.aluG (.vote m x) x false .general fun ls =>
    let p := takers ls
    let v := match m with
      | .all => p.all fun e => e.a != 0
      | .any => p.any fun e => e.a != 0
      | .uni => p.all fun e => p.all fun e' => e.a == e'.a
    (giveAll ls { pred := v }, 0)

/-- The a of a lane that takes part. -/
def valOf (p : List LIn) (l : Int) : Option DWord := (p.find? fun e => (e.lane : Int) == l).map LIn.a

/-- `SHFL` (R270): out of range, or not taking part, leaves the lane its own value. -/
def execShfl (m : ShflMode) (t : Ty) (x : Args) (s : State) : Out :=
  s.aluG (.shfl m t x) x (litSext t) .general fun ls =>
    let p := takers ls
    (p.map fun e =>
      let b := ux 32 e.b
      let src : Int := match m with
        | .idx => b
        | .up => (e.lane : Int) - b
        | .down => e.lane + b
        | .xor => (e.lane ^^^ b : Nat)
      (e.lane, { val := (valOf p src).getD e.a }), 0)

/-- `BCAST` (R271). -/
def execBcast (t : Ty) (x : Args) (s : State) : Out :=
  s.aluG (.bcast t x) x (litSext t) .general fun ls =>
    let p := takers ls
    match p with
    | [] => ([], 0)
    | m :: _ => (giveAll ls { val := (valOf p (ux 32 m.b)).getD m.a }, 0)

/-- One step of a combination (R272), with the flags it raises. -/
def redStep (op : RedOp) (t : Ty) (r a : Nat) : Nat × FFlags :=
  match op with
  | .add => if t = .f32 then fadd f32 .rn r a else ((r + a) % 2 ^ 32, 0)
  | .min => (if tySigned t then (if sext 32 r ≤ sext 32 a then r else a) else min r a, 0)
  | .max => (if tySigned t then (if sext 32 a ≤ sext 32 r then r else a) else max r a, 0)
  | .and => (r &&& a, 0)
  | .or => (r ||| a, 0)
  | .xor => (r ^^^ a, 0)

/-- The identity an exclusive scan gives its first lane (R272). -/
def redIdentity (op : RedOp) (t : Ty) : Nat :=
  match op with
  | .add | .or | .xor => 0
  | .max => if tySigned t then 0x80000000 else 0
  | .min => if tySigned t then 0x7FFFFFFF else 0xFFFFFFFF
  | .and => 0xFFFFFFFF

/-- The combination over a list of values, the first starting it, with the flags of every step. -/
def redAll (op : RedOp) (t : Ty) : List Nat → Nat × FFlags
  | [] => (0, 0)
  | a :: rest => rest.foldl (fun r b => let q := redStep op t r.1 b; (q.1, r.2 ||| q.2)) (a, 0)

/-- `REDB` (R272). -/
def execRedb (op : RedOp) (t : Ty) (x : Args) (s : State) : Out :=
  s.aluG (.redb op t x) x false .general fun ls =>
    let r := redAll op t ((takers ls).map fun e => e.a.toNat)
    (giveAll ls { val := BitVec.ofNat 64 r.1 }, r.2)

/-- `SCANB` (R272): a scan makes only the combinations it delivers. -/
def execScanb (op : RedOp) (t : Ty) (exc : Bool) (x : Args) (s : State) : Out :=
  s.aluG (.scanb op t exc x) x false .general fun ls =>
    let p := takers ls
    let upTo (l : Nat) : List Nat := (p.filter fun e => if exc then decide (e.lane < l) else decide (e.lane ≤ l)).map fun e => e.a.toNat
    let res (l : Nat) : Nat × FFlags := if (upTo l).isEmpty then (redIdentity op t, 0) else redAll op t (upTo l)
    (p.map fun e => (e.lane, { val := BitVec.ofNat 64 (res e.lane).1 }),
      p.foldl (fun a e => a ||| (res e.lane).2) 0)

/-- `MATCH` (R268). -/
def execMatch (t : Ty) (x : Args) (s : State) : Out :=
  s.aluG (.matchL t x) x (litSext t) .general fun ls =>
    let p := takers ls
    (p.map fun e => (e.lane, { val := maskIf p fun e' => e'.a == e.a }), 0)

/-- `ACTMASK` (R268): the lanes of the course, predicated on or off. -/
def execActmask (x : Args) (s : State) : Out :=
  s.aluG (.actmask x) x false .general fun ls =>
    (giveAll ls { val := maskIf ls fun _ => true }, 0)

end Sys2Proof.Machine
end

