-- ==== Sys2Proof/Machine/Faults.lean ====
section
/-!
DEFINITION. Translation faults after they have parked something (R95, R147, R370, R372, R373): walks, the fault ring, and
the firmware's replay, refusal and fill.
-/

namespace Sys2Proof.Machine

/-- A fault entry as its ring record (Table 24-4). -/
def FaultEnt.number (f : FaultEnt) (core idx seq : Nat) : Nat :=
  f.elem % 2 ^ 48 * 2 ^ 208 + (if f.pv then 2 ^ 207 else 0) + f.port % 8 * 2 ^ 204 + idx % 64 * 2 ^ 198 +
    accCode f.acc * 2 ^ 196 + f.src % 4 * 2 ^ 194 + f.reason % 4 * 2 ^ 192 + f.asid % 2 ^ 16 * 2 ^ 176 +
    f.ref.slot % 64 * 2 ^ 170 + f.ref.bundle % 32 * 2 ^ 165 + f.lane % 32 * 2 ^ 160 + core % 1024 * 2 ^ 150 +
    f.va.toNat % 2 ^ 56 * 2 ^ 64 + seq % 2 ^ 64

/-- `FAULT_ENTRY_POST` (R372): while the ring has room. -/
def execFaultEntryPost (core idx : Nat) (s : State) : Out :=
  let k := s.core core
  match find k.fbuf idx with
  | none => .next s
  | some f =>
    if f.walking || f.posted || !s.ringRoom s.fqSeq 0x113 then .next s
    else
      let s1 := s.storePhysL ((s.supReg 0x112).toNat + 32 * (s.fqSeq % 4096)) (leBytes (f.number core idx (s.fqSeq + 1)) 32)
      let s2 := s1.setCore core { s1.core core with fbuf := put k.fbuf idx { f with posted := true } }
      .next ({ s2 with fqSeq := s.fqSeq + 1 }.notify 0x114)

/-- An entry of a fault buffer is free again, and courses that found the buffer full execute again (R95). -/
def State.freeFault (s : State) (core idx : Nat) : State :=
  let k := s.core core
  let s1 := s.setCore core { k with fbuf := del k.fbuf idx }
  (s1.bundlesOf core).foldl (fun s b => s.resume b fun w => w == .fault none) s1

/-- A command of the attention queue that an entry holds goes on at its window (R165). -/
def State.freeAttn (s : State) (core idx : Nat) : State :=
  s.setQueue core qAttn ((s.queue core qAttn).map fun e => match e with
    | .cmd c => if c.fault = some idx then .cmd { c with suspended := false, fault := none } else e
    | _ => e)

/-- What an entry parks goes on: the command's window, or the whole instruction. -/
def State.replay (s : State) (core idx : Nat) (f : FaultEnt) : State :=
  if f.src = 2 then (s.freeFault core idx).freeAttn core idx
  else (s.resume f.ref fun w => w == .fault (some idx)).freeFault core idx

/-- A leaf enters the core's and its die's TLBs. -/
def State.install (s : State) (core : Nat) (t : Tlb) : State := (s.fillL1 core t).fillL2 (dieOf core) t

/-- `PAGE_WALK_COMPLETE` (R370, R372): a leaf with the access's permission is installed and the access replayed; any other
end of the walk leaves an entry to be posted. -/
def execPageWalkComplete (core idx : Nat) (s : State) : Out :=
  let k := s.core core
  match find k.fbuf idx with
  | none => .next s
  | some f =>
    let wrong (r : Nat) : State := s.setCore core { k with fbuf := put k.fbuf idx { f with walking := false, reason := r } }
    if !f.walking then .next s
    else
      match s.walk core f.asid f.va.toNat with
      | .fault r => .next (wrong r)
      | .leaf t =>
        let sup := (s.crew f.ref.core f.ref.slot).sup
        let sealed_ := (f.acc == .write || f.acc == .atomic) && s.readOnly f.asid f.va.toNat
        if !t.allows sup f.acc || sealed_ then .next (wrong 1) else .next ((s.install core t).replay core idx f)

/-- `FREPLAY`, replay (R373). -/
def execFreplayReplay (core idx : Nat) (s : State) : Out :=
  match find (s.core core).fbuf idx with
  | none => .next s
  | some f => .next (s.replay core idx f)

/-- The pending bits of registers that a command will not write any more are clear (R196). -/
def State.unpend (s : State) (b : BRef) (ls : List Nat) (dst : Opnd) (regs : Nat) : State :=
  match dst with
  | .v r => if s.hasBundle b then s.mapLanes b ls fun _ z => { z with pendV := clearPend z.pendV r.val regs } else s
  | _ => s

/-- The information words of a refused access (R95): 0 for a read, 1 for a write, 2 for an atomic. -/
def FaultEnt.segv (f : FaultEnt) : TrapInfo := segvInfo f.va.toNat (if f.acc = .fetch then 0 else accCode f.acc)

/-- A refused command of the attention queue ends without its other words, a `PATCH` without its result word (R373). -/
def State.refuseAttn (s : State) (core idx : Nat) (f : FaultEnt) : State :=
  match (cmdsIn (s.queue core qAttn)).find? fun c => c.fault == some idx with
  | none => s
  | some c =>
    let s1 := (s.setQueue core qAttn ((s.queue core qAttn).erase (.cmd c))).async c.ref.core c.ref.slot f.segv
    let s2 := match c.body with
      | .attn a => (s1.attnGone a.ctx).unpend c.ref (List.range 32) a.dst (ceilDiv (attnWords a.o (s.ctx a.ctx).hdim a.lo a.hi) 32)
      | .patch _ _ _ _ _ _ _ _ lane dst => s1.unpend c.ref [lane] dst 1
      | _ => s1
    s2.complete qAttn c

/-- `FREPLAY`, refuse (R95, R147, R373): SEGV, or PORTFAULT with the port's FIDX and FADDR, of every lane that faults. -/
def execFreplayRefuse (core idx : Nat) (s : State) : Out :=
  match find (s.core core).fbuf idx with
  | none => .next s
  | some f =>
    if f.src = 2 then .next ((s.refuseAttn core idx f).freeFault core idx)
    else
      match (s.bundle f.ref).parked.find? fun p => p.waits.any fun w => w.2 == .fault (some idx) with
      | none => .next (s.freeFault core idx)
      | some p =>
        let s1 := s.freeFault core idx
        let mask := maskOf ((p.waits.filter fun w => w.2 == .fault (some idx)).map (·.1))
        if f.src = 1 then
          let q := s1.port f.ref f.port
          let s2 := s1.setPort f.ref f.port
            { q with fidx := f.elem, faddr := BitVec.ofNat 64 (elemAddr q.d f.elem), fcoord := coords q.d f.elem }
          .next (s2.trapPark f.ref p mask (portFaultInfo f.port (f.acc == .write) f.lane f.elem))
        else .next (s1.trapPark f.ref p (if p.fetch then p.mask else mask) f.segv)

/-- `FREPLAY`, fill (R373): the leaf at TLBFILL, as a page of 64 KiB, is installed when it is well formed. -/
def execFreplayFill (core idx : Nat) (s : State) : Out :=
  match find (s.core core).fbuf idx with
  | none => .next s
  | some f =>
    let e := s.mem.readNat (s.supReg 0x110).toNat 16
    let s1 := if bits e 1 0 ≠ 2 ∨ entryBad 0 e then s else s.install core (leafOf f.asid f.va.toNat 0 e)
    .next (s1.replay core idx f)

end Sys2Proof.Machine
end

