-- ==== Sys2Proof/Machine/Errors.lean ====
section
/-!
DEFINITION. Errors of stores and links (R182, R366, R379, R389, R390), the far-read limiter's refill (R180, R388) and the
reload of a core's configuration (R376).
-/

namespace Sys2Proof.Machine

/-! ### Uncorrectable errors (Table 25-2, R379) -/

/-- Bytes that a leaf's page takes where it is stored. -/
def Tlb.stored (t : Tlb) : Nat :=
  let size := if t.large then 2 ^ 26 else 2 ^ 16
  if t.cmp && t.far then size / 16384 * frameBytes else size

/-- The entries of a table node that are not zero. -/
def nodeUsed (m : Mem) (node : Nat) : List Nat :=
  ((m.filter fun e => decide (node ≤ e.1) && decide (e.1 < node + 16384)).map fun e => (e.1 - node) / 16).eraseDups
/-- The leaves under a node of a level (R369). -/
def leavesFrom (m : Mem) (asid va node : Nat) : Nat → List Tlb
  | 0 => (nodeUsed m node).filterMap fun i =>
    let e := m.readNat (node + 16 * i) 16
    if bits e 1 0 = 0 || entryBad 0 e then none else some (leafOf asid (va + i * 2 ^ 16) 0 e)
  | n + 1 => (nodeUsed m node).flatMap fun i =>
    let e := m.readNat (node + 16 * i) 16
    let a := va + i * 2 ^ (26 + 10 * n)
    if bits e 1 0 = 0 || entryBad (n + 1) e then []
    else if bits e 1 0 = 2 then [leafOf asid a (n + 1) e]
    else leavesFrom m asid a (bits e 51 14 * 2 ^ 14) n
/-- Every leaf of the module: those that are cached, and those of the accounts' tables and of the house cores' own. -/
def State.leaves (s : State) : List Tlb :=
  let base := (s.supReg 0x10A).toNat
  let accts := ((s.mem.filter fun e => decide (base ≤ e.1) && decide (e.1 < base + 64 * 65536)).map fun e => (e.1 - base) / 64).eraseDups
  let roots := accts.map (fun a => (a, s.acctRoot a)) ++ s.house.map fun e => (e.2.asid.toNat, e.2.ptbase.toNat)
  s.cores.flatMap (fun e => e.2.tlb) ++ s.l2.flatMap (fun e => e.2) ++
    roots.flatMap fun r => if r.2 = 0 then [] else leavesFrom s.mem r.1 0 r.2 3

/-- The page of a physical line whose leaf has an origin: first address, bytes, and origin. -/
def State.originOf (s : State) (line : Nat) : Option (Nat × Nat × Nat) :=
  s.leaves.findSome? fun t =>
    match t.origin with
    | some o => if t.pa ≤ 64 * line ∧ 64 * line < t.pa + t.stored then some (t.pa, t.stored, o) else none
    | none => none

/-- The lines of each shingle at a line that fails its check and is not yet carried as poison (R181). -/
def State.badShingles (s : State) (line : Nat) : List (List Nat) :=
  ((s.leaves.filter fun t => t.cmp && t.far).flatMap fun t =>
    ((List.range ((if t.large then 2 ^ 26 else 2 ^ 16) / 16384)).filter fun u =>
        decide (t.pa + u * frameBytes ≤ 64 * line + 63) && decide (64 * line < t.pa + u * frameBytes + 2 ^ 17)).flatMap fun u =>
      (List.range 64).filterMap fun i =>
        let ls := shingleLines s.mem (t.pa + u * frameBytes) (256 * i)
        if (shingleBytes s.mem (t.pa + u * frameBytes) i).isNone && ls.contains line && !ls.any s.poison.contains then some ls
        else none).eraseDups

/-- A line is carried as poison, and its readers meet it. -/
def State.poisonLine (s : State) (line : Nat) : State :=
  let s1 := { s with
    poison := insertNat line s.poison,
    refetch := s.refetch.filter fun l => l != line,
    refetched := s.refetched.filter fun l => l != line,
    origins := del s.origins line }
  s1.cores.foldl (fun t x => (t.bundlesOf x.1).foldl (fun t b => t.resume b fun w => w == .refetch line) t) s1

def State.poisonLines (s : State) (ls : List Nat) : State := ls.foldl State.poisonLine s

/-- Whether a read that has met a line still stands: of an outstanding access, a copy, the head attention command's window, or
a course (R379). -/
def State.readStands (s : State) (line : Nat) : Bool :=
  let hit (cs : List Nat) : Bool := cs.any fun c => (s.cellLines c).contains line
  let copy (y : Copy) : Bool := y.units.any fun u => (u.src.map fun p => hit (p.cells.take u.n)).getD false
  s.cores.any fun e =>
    e.2.pend.any (fun p => p.parts.any fun a => a.scr.isNone && hit a.cells) ||
    e.2.queues.any (fun q => q.2.any fun x => match x with
      | .cmd c => (match c.body with
        | .copy y => copy y
        | .mcast l => l.any fun m => copy m.2
        | _ => false)
      | .fence _ => false) ||
    (match s.headAttn e.1 with
      | some (_, a) => (match a.started with
        | some (len, chain) => (match s.windowReads e.1 (s.ctx a.ctx) a len chain with
          | .ok rs => rs.any fun r => hit r.2.1
          | .error _ => false)
        | none => false)
      | none => false) ||
    (s.bundlesOf e.1).any fun b => (s.bundle b).parked.any fun k => k.waits.any fun w => w.2 == .refetch line

/-- Information words of a record about a physical line. -/
def lineInfo (cause line : Nat) : TrapInfo :=
  ⟨cause, 0, 0, BitVec.ofNat 32 (64 * line), BitVec.ofNat 32 (64 * line / 2 ^ 32)⟩

/-- An error in physical memory, of a line or of a shingle there: on a page with an origin it starts the page's refetch, by the
device or by the firmware; a second on the same read, and one on a page without, poisons its lines. Each 64 B line counts, four
for a shingle (R389, R390). -/
def State.memError (s0 : State) (line : Nat) : State :=
  let bad := s0.badShingles line
  let s := s0.count 4 (if bad.isEmpty then 1 else 4 * bad.length)
  let ls := (line :: bad.flatten).eraseDups
  if ls.any fun l => s.refetch.contains l || (s.refetched.contains l && s.readStands l) then s.poisonLines ls
  else
    match s.originOf line with
    | none => s.poisonLines ls
    | some o =>
      let s1 := ls.foldl (fun s l => { s with
        refetch := insertNat l s.refetch, refetched := insertNat l s.refetched, origins := put s.origins l o }) s
      let s2 := if s.funcBit 6 then s1.postTrap (coreless (lineInfo 6 line)) else s1
      s2.postTrap (coreless (lineInfo 0x44 line))

/-- Register-file parity stops the bundle (R379), on a house core too (DEDUCED, assumption 30); the address in its record is not
given. -/
def State.parity (s : State) (b : BRef) : State :=
  let y := s.bundle b
  if !s.hasBundle b || y.stopped.isSome then s
  else
    let k := s.crew b.core b.slot
    let pc : DWord := Config.freeWord 5 s.opSeq ++ Config.freeWord 6 s.opSeq
    let i := trapOf 0x43 0
    let s1 := { s.setBundle b { y with stopped := some ⟨pc, 0, 0, i⟩ } with opSeq := s.opSeq + 1 }
    s1.postTrap ⟨pc, i, 0, k.acct, b.core, b.slot, b.bundle, k.lseq⟩

/-- `UNCORRECTABLE_ERROR` (R390). -/
def execUncorrectableError (loc : ErrLoc) (s : State) : Out :=
  let s1 := s.count 4 1
  match loc with
  | .memory line => .next (s.memError line)
  | .scratch c k line => .next (if line < (s.crew c k).slines then s1.setLine c k line .poisoned else s)
  | .tile c k t =>
    let y := s.crew c k
    if !s.hasCrew c k || decide (y.ntiles ≤ t) then .next s
    else .next (s1.setCrew c k { y with tiles := put y.tiles t { findD y.tiles t default with poison := true } })
  | .acc c b =>
    if 768 ≤ c ∨ 16 ≤ b then .next s
    else .next (s1.setCore c { s1.core c with accPoison := (s1.core c).accPoison ||| (1#16 <<< b) })
  | .regfile c k b => .next (if s.hasBundle ⟨c, k, b⟩ then s1.parity ⟨c, k, b⟩ else s)
  | .router gang idx =>
    let g := s.gangOf gang
    match g.flight[idx]? with
    | some p => .next (s1.setGang gang { g with flight := g.flight.set idx { p with bad := true } })
    | none => .next s

/-- `ERROR_CORRECTED` (R390). -/
def execErrorCorrected (s : State) : Out := .next (s.count 6 1)

/-- `ORIGIN_REFETCH_COMPLETE` (R379), in hardware mode: the page's stored bytes come from the origin, its poison is clear
and readers retry; an error of the origin itself is delivered. -/
def execOriginRefetchComplete (line : Nat) (s : State) : Out :=
  match find s.origins line with
  | none => .next s
  | some (pa, n, o) =>
    let mine (l : Nat) : Bool := decide (pa / 64 ≤ l) && decide (l < (pa + n + 63) / 64)
    if s.funcBit 6 || !s.refetch.contains line then .next s
    else if s.poison.any fun l => decide (o / 64 ≤ l) && decide (l < (o + n + 63) / 64) then
      .next (s.poisonLines (s.refetch.filter mine))
    else
      let s0 := s.storePhysL pa (s.mem.readN o n)
      let s1 := { s0 with
        poison := s.poison.filter fun l => !mine l,
        refetch := s.refetch.filter fun l => !mine l,
        origins := s.origins.filter fun e => !mine e.1 }
      let s2 := s1.count 5 1
      .next (s2.cores.foldl (fun t x => (t.bundlesOf x.1).foldl (fun t b => t.resume b fun w => match w with
        | .refetch l => mine l
        | _ => false) t) s2)

/-! ### The far-read limiter (R180, R388, R389) -/

/-- `FAR_READ_REFILL` (R180): at each core cycle that is a multiple of 1,024 the budget is whole again, and a new one takes
effect. -/
def execFarReadRefill (core : Nat) (s : State) : Out :=
  let x := s.core core
  if 768 ≤ core ∨ x.cyc / 1024 ≤ x.farEpoch then .next s
  else
    .next (s.setCore core { x with
      cfg := { x.cfg with farB := x.farNext }, farLeft := x.farNext.toNat, farEpoch := x.cyc / 1024 })

/-- `CCTSYNC` (R376, R388): the entry is read from the core configuration table; its budget waits for the next refill. -/
def execCctsync (core : Nat) (s : State) : Out :=
  if 768 ≤ core then .next s
  else
    let e := s.mem.readNat ((s.supReg 0x11C).toNat + 64 * core) 64
    let x := s.core core
    let base : DWord := BitVec.ofNat 64 (bits e 511 448)
    let s1 := s.setCore core { x with
      cfg := { x.cfg with dispBase := base, dispSize := BitVec.ofNat 32 (bits e 447 416) },
      disp := if base = x.cfg.dispBase then x.disp else [],
      farNext := BitVec.ofNat 16 (bits e 415 400) }
    .next (s1.storageFreed core)

/-! ### Links (R365, R366) -/

/-- `PCIE_UNCORRECTABLE_ERROR` (R365, R390): the link is down. -/
def execPcieUncorrectableError (s : State) : Out := .next { s.count 4 1 with pcieUp := false }

/-- `CXL_PORT_FAIL` (R366, R390): pages behind the port fault as not present. -/
def execCxlPortFail (port : Nat) (s : State) : Out :=
  if 8 ≤ port ∨ s.cxlDown.contains port then .next s
  else
    .next { s.count 4 1 with
      cxlDown := insertNat port s.cxlDown,
      untrained := if s.boot.phase = 2 then s.untrained else insertNat port s.untrained }

end Sys2Proof.Machine
end

