-- ==== Sys2Proof/Machine/IntLogic.lean ====
section
/-!
DEFINITION. Class 0x0, integer and logic (Table 13-1): one meaning for each form.
-/

namespace Sys2Proof.Machine

/-- `NOP` (R227): nothing beyond its STALL and its flag marks. -/
def execNop (x : Args) (s : State) : Out := .next (s.finish x true)

/-- `MOV` (R227). -/
def execMov (t : Ty) (x : Args) (s : State) : Out :=
  s.alu (.mov t x) x (litSext t) .mov fun i => { val := i.a }

/-- `IADD` (R216). -/
def execIadd (t : Ty) (x : Args) (s : State) : Out :=
  s.alu (.iadd t x) x (litSext t) .addSub fun i => { val := iaddV t i.a i.b }

/-- `ISUB` (R216). -/
def execIsub (t : Ty) (x : Args) (s : State) : Out :=
  s.alu (.isub t x) x (litSext t) .addSub fun i => { val := isubV t i.a i.b }

/-- `IADDC` (R217): the carry is unsigned for every type. -/
def execIaddc (t : Ty) (x : Args) (s : State) : Out :=
  s.alu (.iaddc t x) x (litSext t) .general fun i =>
    let full := ux (tyWidth t) i.a + ux (tyWidth t) i.b + (if i.pc then 1 else 0)
    { val := wrapNat (tyWidth t) full, pred := decide (2 ^ tyWidth t ≤ full) }

/-- `IMUL` (R216). -/
def execImul (t : Ty) (x : Args) (s : State) : Out :=
  s.alu (.imul t x) x (litSext t) .mul fun i => { val := imulV t i.a i.b }

/-- `IMULH` (R216). -/
def execImulh (t : Ty) (x : Args) (s : State) : Out :=
  s.alu (.imulh t x) x (litSext t) .general fun i => { val := imulhV t i.a i.b }

/-- `IMAD` (R216). -/
def execImad (t : Ty) (x : Args) (s : State) : Out :=
  s.alu (.imad t x) x (litSext t) .general fun i => { val := imadV t i.a i.b i.c }

/-- `IMADW` (R216): the addend's literal is zero-extended (R190). -/
def execImadw (t : Ty) (x : Args) (s : State) : Out :=
  s.alu (.imadw t x) x false .general fun i => { val := imadwV t i.a i.b i.c }

/-- `IDIV` (R57, R216). -/
def execIdiv (t : Ty) (x : Args) (s : State) : Out :=
  s.alu (.idiv t x) x (litSext t) .general fun i => { val := idivV t i.a i.b }

/-- `IREM` (R57, R216). -/
def execIrem (t : Ty) (x : Args) (s : State) : Out :=
  s.alu (.irem t x) x (litSext t) .general fun i => { val := iremV t i.a i.b }

/-- `IABS` (R216). -/
def execIabs (t : Ty) (x : Args) (s : State) : Out :=
  s.alu (.iabs t x) x (litSext t) .general fun i => { val := iabsV t i.a }

/-- `INEG` (R216). -/
def execIneg (t : Ty) (x : Args) (s : State) : Out :=
  s.alu (.ineg t x) x (litSext t) .neg fun i => { val := inegV t i.a }

/-- `IMIN` (R216). -/
def execImin (t : Ty) (x : Args) (s : State) : Out :=
  s.alu (.imin t x) x (litSext t) .general fun i => { val := iminV t i.a i.b }

/-- `IMAX` (R216). -/
def execImax (t : Ty) (x : Args) (s : State) : Out :=
  s.alu (.imax t x) x (litSext t) .general fun i => { val := imaxV t i.a i.b }

/-- `ICMP` (R218). -/
def execIcmp (k : ICond) (t : Ty) (x : Args) (s : State) : Out :=
  s.alu (.icmp k t x) x (litSext t) .general fun i => { pred := icmpV k t i.a i.b }

/-- `ISEL` (R219). -/
def execIsel (t : Ty) (x : Args) (s : State) : Out :=
  s.alu (.isel t x) x (litSext t) .general fun i => { val := iselV i.a i.b i.c }

/-- `AND` (R219). -/
def execAnd (t : Ty) (x : Args) (s : State) : Out :=
  s.alu (.andL t x) x (litSext t) .allUniform fun i => { val := i.a &&& i.b }

/-- `OR` (R219). -/
def execOr (t : Ty) (x : Args) (s : State) : Out :=
  s.alu (.orL t x) x (litSext t) .allUniform fun i => { val := i.a ||| i.b }

/-- `XOR` (R219). -/
def execXor (t : Ty) (x : Args) (s : State) : Out :=
  s.alu (.xorL t x) x (litSext t) .allUniform fun i => { val := i.a ^^^ i.b }

/-- `ANDN` (R219). -/
def execAndn (t : Ty) (x : Args) (s : State) : Out :=
  s.alu (.andn t x) x (litSext t) .allUniform fun i => { val := andnV i.a i.b }

/-- `NOT` (R219). -/
def execNot (t : Ty) (x : Args) (s : State) : Out :=
  s.alu (.notL t x) x (litSext t) .allUniform fun i => { val := notV t i.a }

/-- `SHL` (R220). -/
def execShl (t : Ty) (x : Args) (s : State) : Out :=
  s.alu (.shl t x) x (litSext t) .shl fun i => { val := shlV t i.a i.b }

/-- `SHR` (R220). -/
def execShr (t : Ty) (x : Args) (s : State) : Out :=
  s.alu (.shr t x) x (litSext t) .general fun i => { val := shrV t i.a i.b }

/-- `SHRA` (R220). -/
def execShra (t : Ty) (x : Args) (s : State) : Out :=
  s.alu (.shra t x) x (litSext t) .general fun i => { val := shraV t i.a i.b }

/-- `ROTL` (R220). -/
def execRotl (t : Ty) (x : Args) (s : State) : Out :=
  s.alu (.rotl t x) x (litSext t) .general fun i => { val := rotlV t i.a i.b }

/-- `FUNNEL` (R220). -/
def execFunnel (x : Args) (s : State) : Out :=
  s.alu (.funnel x) x false .general fun i => { val := funnelV i.a i.b i.c }

/-- `POPC` (R221). -/
def execPopc (t : Ty) (x : Args) (s : State) : Out :=
  s.alu (.popc t x) x (litSext t) .general fun i => { val := popcV t i.a }

/-- `CLZ` (R221). -/
def execClz (t : Ty) (x : Args) (s : State) : Out :=
  s.alu (.clz t x) x (litSext t) .general fun i => { val := clzV t i.a }

/-- `CTZ` (R221). -/
def execCtz (t : Ty) (x : Args) (s : State) : Out :=
  s.alu (.ctz t x) x (litSext t) .general fun i => { val := ctzV t i.a }

/-- `BREV` (R221). -/
def execBrev (t : Ty) (x : Args) (s : State) : Out :=
  s.alu (.brev t x) x (litSext t) .general fun i => { val := brevV t i.a }

/-- `BFX` (R222). -/
def execBfx (t : Ty) (x : Args) (s : State) : Out :=
  s.alu (.bfx t x) x false .general fun i => { val := bfxV t i.a i.b }

/-- `BFI` (R222). -/
def execBfi (x : Args) (s : State) : Out :=
  s.alu (.bfi x) x false .general fun i => { val := bfiV i.a i.b i.c }

/-- `LEA` (R223): the base's literal is zero-extended (R190). -/
def execLea (sh : Fin 16) (t : Ty) (x : Args) (s : State) : Out :=
  s.alu (.lea sh t x) x false .general fun i => { val := leaV t sh.val i.a i.b }

/-- `PLOP` (R224). -/
def execPlop (tt : Byte) (x : Args) (s : State) : Out :=
  s.alu (.plop tt x) x false .general fun i => { pred := plopV tt i.pa i.pb i.pc }

/-- The predicates of a lane packed into bits 7 to 0; p7 reads 1 (R225). -/
def Lane.packPreds (z : Lane) : DWord :=
  (List.range 8).foldl (fun a n => if z.pred (Fin.ofNat 8 n) then a ||| (1#64 <<< n) else a) 0

/-- `PMOV`, pack form (R225). -/
def execPmovPack (x : Args) (s : State) : Out :=
  s.alu (.pmovPack x) x false .general fun i => { val := (s.lane s.ref i.lane).packPreds }

/-- `PMOV`, unpack form (R225). -/
def execPmovUnpack (x : Args) (s : State) : Out :=
  s.alu (.pmovUnpack x) x false .general fun i => { pred := (ux 32 i.a).testBit (ux 32 i.b % 32) }

/-- The code of a tag (R21). -/
def Tag.code : Tag → DWord
  | .uniform => 0
  | .affine => 1
  | .general => 2

/-- `GETTAG` (R226): the tag in the lane's own slice, as it stands before the instruction writes. -/
def execGettag (x : Args) (s : State) : Out :=
  s.alu (.gettag x) x false .general fun i => { val := ((s.bundle s.ref).srcTag x.a 0 (i.lane / 4)).code }

/-- The register a v-operand names. -/
def vNum : Opnd → Nat
  | .v n => n.val
  | _ => 0

/-- `TAGGEN` (R226): general in every slice that holds a lane predicated on; no value changes. -/
def execTaggen (x : Args) (s : State) : Out :=
  let act := s.act x
  let tags := (slicesOf act).map fun k => (8 * vNum x.d + k, Tag.general)
  s.withRoom x act tags fun s1 => .next ((s1.giveTags s.ref tags).finish x true)

end Sys2Proof.Machine
end

