-- ==== Sys2Proof/Machine/Loader.lean ====
section
/-!
DEFINITION. The loader (R34, R208-R210, R331-R333): a kernel object as bytes, its checks, its relocation, and its
registration; and the release of an object.
-/

namespace Sys2Proof.Machine

/-! ### Sections (R331, Table 17-8) -/

/-- A section: its type, kernel, contents, and whether its table entry is well formed. -/
structure Sect where
  ty : Nat
  kidx : Nat
  /-- its ALIGN, as bytes -/
  align : Nat
  off : Nat
  size : Nat
  zeros : Bool
deriving DecidableEq, Repr

def objSections (f : List Byte) : List Sect :=
  (List.range (fieldAt f 6 2)).map fun i =>
    let o := 32 + 32 * i
    ⟨fieldAt f o 2, fieldAt f (o + 2) 2, 2 ^ fieldAt f (o + 4) 1, fieldAt f (o + 8) 8, fieldAt f (o + 16) 8,
      fieldAt f (o + 5) 3 == 0 && fieldAt f (o + 24) 8 == 0⟩
def objKernels (f : List Byte) : Nat := fieldAt f 8 2
def Sect.bytes (c : Sect) (f : List Byte) : List Byte := sliceAt f c.off c.size

/-- The header and the table are as R331 gives, every TYPE is known, and no section overlaps another or leaves the file. -/
def objFormed (f : List Byte) : Bool :=
  let ss := (objSections f).zipIdx
  fieldAt f 0 4 == 0x4D444F31 && fieldAt f 4 2 == 1 && fieldAt f 10 22 == 0 &&
    decide (32 + 32 * fieldAt f 6 2 ≤ f.length) &&
    ss.all fun c =>
      c.1.zeros && decide (1 ≤ c.1.ty) && decide (c.1.ty ≤ 8) && decide (c.1.off + c.1.size ≤ f.length) &&
        ((c.1.ty != 1 && c.1.ty != 4) || decide (c.1.kidx < objKernels f)) && (c.1.ty != 1 || c.1.size % 16 == 0) &&
        ss.all fun d => d.2 == c.2 || c.1.size == 0 || d.1.size == 0 || decide (c.1.off + c.1.size ≤ d.1.off) ||
          decide (d.1.off + d.1.size ≤ c.1.off)

/-- The section of a type, and for a kernel where it has one. -/
def objSect (f : List Byte) (ty k : Nat) : Option Sect :=
  (objSections f).find? fun c => c.ty == ty && (c.kidx == k || (ty != 1 && ty != 4))
/-- Entries of a fixed size in a section that need not be there. -/
def objEntries (f : List Byte) (ty n : Nat) : List (List Byte) :=
  match objSect f ty 0 with
  | none => []
  | some c => (List.range (c.size / n)).map fun i => sliceAt f (c.off + n * i) n

/-! ### Kernel headers (R209, R210) -/

def objHeader (f : List Byte) (k : Nat) : Nat :=
  match objSect f 2 0 with
  | none => 0
  | some c => fieldAt f (c.off + 16 * k) 16
def hdrMask (h : Nat) : Nat := bits h 62 55
/-- The ports of a mask, ascending. -/
def maskPorts (m : Nat) : List Nat := (List.range 8).filter fun q => m.testBit q

def hdrOk (h : Nat) : Bool :=
  decide (1 ≤ bits h 1 0) && decide (1 ≤ bits h 7 3) && decide (1 ≤ bits h 13 8) && decide (bits h 13 8 ≤ 32) &&
    decide (bits h 27 14 ≤ 8192) && decide (bits h 32 28 ≤ 16) && decide (bits h 37 33 ≤ 16) && bits h 63 63 == 0 &&
    bits h 95 72 == 0 && bits h 127 96 == 0 && decide (bits h 71 64 ≤ 64) &&
    decide ((bits h 39 38 + 1) * (bits h 41 40 + 1) ≤ 16) && decide (bits h 13 8 * bits h 7 3 * 1024 ≤ rfBytes) &&
    (bits h 1 0 == 3 || hdrMask h == 0)

/-- A kernel has its code, its header, and a descriptor for each port of its mask. -/
def objKernelOk (f : List Byte) (k : Nat) : Bool :=
  let h := objHeader f k
  (objSect f 1 k).isSome && (objSect f 2 0).any (fun c => decide (16 * (k + 1) ≤ c.size)) && hdrOk h &&
    (hdrMask h == 0 || (objSect f 4 k).any fun c => decide (64 * (maskPorts (hdrMask h)).length ≤ c.size))

/-! ### Where sections come to stand -/

/-- An address rounded up to a section's alignment. -/
def Sect.place (c : Sect) (a : Nat) : Nat := ceilDiv a c.align * c.align
/-- A kernel's code follows that of the kernels before it, aligned as its section asks. -/
def codeAt (f : List Byte) (codeVa k : Nat) : Nat :=
  let start (a i : Nat) : Nat := ((objSect f 1 i).map fun c => (if 16 ≤ c.align then c else { c with align := 16 }).place a).getD a
  start ((List.range k).foldl (fun a i => start a i + ((objSect f 1 i).map Sect.size).getD 0) codeVa) k
/-- The run-time address of a section; none for one that is not placed. -/
def sectAt (f : List Byte) (codeVa dataVa : Nat) (c : Sect) : Option Nat :=
  if c.ty = 1 then some (codeAt f codeVa c.kidx) else if c.ty = 3 then some (c.place dataVa) else none

/-! ### Relocation (R332) -/

/-- A tensor header record that `THR64` accepts (Table 15-11). -/
def tensorOk (r : Nat) : Bool :=
  bits r 511 288 == 0 && bits r 63 9 == 0 && decide (1 ≤ bits r 7 4) && decide (bits r 7 4 ≤ 6) && decide (bits r 3 0 ≤ 5)

/-- A list of bytes with some replaced. -/
def patchBytes (f : List Byte) (o : Nat) (bs : List Byte) : List Byte := f.take o ++ bs ++ f.drop (o + bs.length)

/-- One entry applied to the file; none when it does not fit. -/
def relocate (codeVa dataVa : Nat) (f r : List Byte) : Option (List Byte) :=
  let ss := objSections f
  match ss[fieldAt r 0 2]?, ss[fieldAt r 12 2]? with
  | some t, some y =>
    let ty := fieldAt r 2 1
    let off := fieldAt r 4 4
    let so := fieldAt r 8 4
    match sectAt f codeVa dataVa y with
    | none => none
    | some base =>
      let v := (base + so + fieldAt r 16 8) % 2 ^ 64
      let word (n : Nat) : Bool := off % n == 0 && decide (off + n ≤ t.size)
      if fieldAt r 3 1 ≠ 0 ∨ fieldAt r 14 2 ≠ 0 ∨ y.size < so then none
      else if ty = 1 ∨ ty = 2 then
        (if t.ty == 1 && word 16 then
          some (patchBytes f (t.off + off + 8) (leBytes (if ty = 1 then v else v / 2 ^ 32) 4)) else none)
      else if ty = 3 then (if t.ty == 3 && word 8 then some (patchBytes f (t.off + off) (leBytes v 8)) else none)
      else if ty = 4 then (if t.ty == 4 && word 64 then some (patchBytes f (t.off + off + 24) (leBytes v 8)) else none)
      else if ty = 5 then
        (if t.ty == 3 && word 8 && y.ty == 3 && so % 64 == 0 && decide (so + 64 ≤ y.size) && tensorOk (fieldAt f (y.off + so) 64) then
          some (patchBytes f (t.off + off) (leBytes v 8)) else none)
      else if ty = 6 then
        (if t.ty == 3 && word 8 && y.ty == 1 then some (patchBytes f (t.off + off) (leBytes v 8)) else none)
      else none
  | _, _ => none

def relocateAll (codeVa dataVa : Nat) (f : List Byte) : List (List Byte) → Option (List Byte)
  | [] => some f
  | r :: rest => (relocate codeVa dataVa f r).bind fun g => relocateAll codeVa dataVa g rest

/-! ### Ports and pigeonholes (R34, R208) -/

/-- The descriptors of a kernel, by port. -/
def objPorts (f : List Byte) (k : Nat) : SMap (BitVec 512) :=
  match objSect f 4 k with
  | none => []
  | some c => (maskPorts (hdrMask (objHeader f k))).zipIdx.map fun e => (e.1, BitVec.ofNat 512 (fieldAt f (c.off + 64 * e.2) 64))
/-- Every descriptor passes the checks of `PBIND`, beside the ports before it. -/
def portsOk : List (Nat × BitVec 512) → List Port → Bool
  | [], _ => true
  | (_, d) :: rest, got =>
    bindCode d.toNat got == 0 && portsOk rest (got ++ [(default : Port).bindTo d.toNat])

/-- A registration: its kernel, C, code offset and T. -/
def objRegs (f : List Byte) : List (Nat × Nat × Nat × Nat) :=
  (objEntries f 5 16).map fun r => (fieldAt r 0 2, fieldAt r 2 1, fieldAt r 4 4, fieldAt r 8 2)
/-- Registrations are in range, as many for each kernel as its header says. -/
def regsOk (f : List Byte) : Bool :=
  (objEntries f 5 16).all (fun r =>
    decide (fieldAt r 0 2 < objKernels f) && decide (1 ≤ fieldAt r 2 1) && decide (fieldAt r 2 1 ≤ 32) &&
      fieldAt r 3 1 == 0 && fieldAt r 10 6 == 0 && fieldAt r 4 4 % 16 == 0 &&
      (objSect f 1 (fieldAt r 0 2)).any fun c => decide (fieldAt r 4 4 < c.size)) &&
    (List.range (objKernels f)).all fun k =>
      bits (objHeader f k) 71 64 == ((objRegs f).filter fun e => e.1 == k).length

/-- Entry addresses of an object's pigeonholes. -/
def objEntriesAt (f : List Byte) (codeVa : Nat) : List Nat := (objRegs f).map fun e => codeAt f codeVa e.1 + e.2.2.1

/-- Numbers of pigeonholes that no die has registered. -/
def State.freePhs (s : State) : List Nat :=
  (List.range 1024).filter fun p => (List.range 4).all fun d => (find (s.die d).phs p).isNone

/-- R34: every office has room, and no entry address is registered twice. -/
def State.phsOk (s : State) (es : List Nat) : Bool :=
  es.Nodup && decide (es.length ≤ s.freePhs.length) &&
    (List.range 4).all fun d => es.all fun e => ((s.die d).phOf (BitVec.ofNat 64 e)).isNone

/-! ### Capabilities (R333) -/

/-- Whether the device lists a capability at a version. -/
def State.hasCap (s : State) (id ver : Nat) : Bool := s.caps.any (fun c => c.1 == id) && decide (ver ≤ 1)
/-- Requirements are well formed and every required one is met; the optional ones that are not. -/
def State.capsOk (s : State) (f : List Byte) : Bool :=
  (objEntries f 7 8).all fun r =>
    decide (fieldAt r 3 1 ≤ 1) && fieldAt r 4 4 == 0 && (fieldAt r 3 1 == 0 || s.hasCap (fieldAt r 0 2) (fieldAt r 2 1))
def State.capsUnmet (s : State) (f : List Byte) : List Nat :=
  ((objEntries f 7 8).filter fun r => fieldAt r 3 1 == 0 && !s.hasCap (fieldAt r 0 2) (fieldAt r 2 1)).map fun r => fieldAt r 0 2

/-! ### Loading -/

/-- The file with its relocations, when the object passes every check. -/
def State.objReady (s : State) (codeVa dataVa : Nat) (f : List Byte) : Option (List Byte) :=
  if !objFormed f || !(List.range (objKernels f)).all (objKernelOk f) || !regsOk f || !s.capsOk f then none
  else
    match relocateAll codeVa dataVa f (objEntries f 6 24) with
    | none => none
    | some g =>
      if (List.range (objKernels g)).all (fun k => portsOk (objPorts g k) []) && s.phsOk (objEntriesAt g codeVa) then some g
      else none

/-- The code of every kernel, and the data, each with the address it is placed at. -/
def objCode (f : List Byte) (codeVa : Nat) : List (Nat × List Byte) :=
  (List.range (objKernels f)).map fun k => (codeAt f codeVa k, ((objSect f 1 k).map fun c => c.bytes f).getD [])
def objData (f : List Byte) (dataVa : Nat) : List (Nat × List Byte) :=
  ((objSect f 3 0).map fun c => (c.place dataVa, c.bytes f)).toList

/-- Whether bytes would stand on release-consistent, user-writable pages (R208). -/
def State.userPages (s : State) (acct va n : Nat) : Bool :=
  (List.range n).all fun i => (s.hubLeaf acct (va + i)).any fun t => t.user && t.ord == .rc

/-- Bytes placed in an account's memory; none when a page does not take them. -/
def State.placed (s : State) (acct : Nat) : List (Nat × List Byte) → Option State
  | [] => some s
  | p :: rest =>
    (s.hubRange acct p.1 p.2.length .write).bind fun cs =>
      State.placed (((spanPages p.1 p.2.length).foldl State.wrotePage s).storePhys (cs.zip p.2)) acct rest

/-- An empty pigeonhole: its entry, its kernel, and C and T of its registration. -/
def newPigeon (entry kid : Nat) (r : Nat × Nat × Nat) : Pigeon :=
  { (default : Pigeon) with
    entry := BitVec.ofNat 64 entry,
    kid := kid,
    c := r.1,
    t := r.2.2 }

/-- Pigeonholes are registered on every die. -/
def State.register (s : State) (kid0 codeVa : Nat) (f : List Byte) : State :=
  let es := (objRegs f).zip s.freePhs
  (List.range 4).foldl (fun s d =>
    let x := s.die d
    s.setDie d { x with phs := es.foldl (fun m e => put m e.2 (newPigeon (codeAt f codeVa e.1.1 + e.1.2.2.1) (kid0 + e.1.1) e.1.2)) x.phs }) s

/-- `OBJECT_LOAD` (R208): the firmware has mapped the pages that take code and data. -/
def execObjectLoad (acct : Nat) (codeVa dataVa : DWord) (file : List Byte) (s : State) : Out :=
  let cv := codeVa.toNat
  let dv := dataVa.toNat
  if cv % 65536 ≠ 0 ∨ dv % 65536 ≠ 0 ∨ 65536 ≤ acct then .next s
  else
    match s.objReady cv dv file with
    | none => .next (s.send .objectRefused)
    | some f =>
      let parts := objCode f cv ++ objData f dv
      if parts.any (fun p => (spanPages p.1 p.2.length).any s.promoting) ||
          !(objData f dv).all fun p => s.userPages acct p.1 p.2.length then .next s else
      match s.placed acct parts with
      | some s1 =>
        let kid0 := s.kidNext + 1
        let regs := (objRegs f).zip s.freePhs
        let s2 := (s1.register kid0 cv f)
        let kernelOf (k : Nat) : Kernel :=
          ⟨acct, kid0, BitVec.ofNat 64 (codeAt f cv k), BitVec.ofNat 128 (objHeader f k), objPorts f k⟩
        let s3 := (List.range (objKernels f)).foldl (fun s k => { s with kernels := put s.kernels (kid0 + k) (kernelOf k) }) s2
        let s4 := { s3 with
          objs := put s3.objs kid0 ⟨(List.range (objKernels f)).map (kid0 + ·), regs.map (·.2)⟩,
          kidNext := s.kidNext + max (objKernels f) 1 }
        .next ((s.capsUnmet f).foldl (fun s i => s.send (.optionalUnmet i)) s4)
      | none => .next s

/-- Whether an object may go: no launch of it is outstanding, and its pigeonholes are EMPTY on every die (R34). -/
def State.unloadable (s : State) (o : Obj) : Bool :=
  !s.launches.any (fun e => o.kids.contains (recKid e.2.r)) &&
    (List.range 4).all fun d =>
      o.phs.all fun p =>
        let y := findD (s.die d).phs p default
        y.recs.isEmpty && y.spilled.isEmpty && !(s.die d).arriving.any (fun a => a.ph == p) &&
          !(s.die d).spillWait.any fun a => a.ph == p

/-- `OBJECT_UNLOAD` (R34). -/
def execObjectUnload (obj : Nat) (s : State) : Out :=
  match find s.objs obj with
  | none => .next s
  | some o =>
    if !s.unloadable o then .next (s.send (.unloadRefused obj))
    else
      let s1 := (List.range 4).foldl (fun s d =>
        let x := s.die d
        s.setDie d { x with phs := x.phs.filter fun e => !o.phs.contains e.1 }) s
      .next { s1 with kernels := s1.kernels.filter (fun e => !o.kids.contains e.1), objs := del s1.objs obj }

end Sys2Proof.Machine
end

