-- ==== Sys2Proof/Machine/Switch.lean ====
section
/-!
DEFINITION. The context switch (R45, R46, R150, R323, R327-R330, R377, R378): `CSAVE` and `CRESTORE`.
-/

namespace Sys2Proof.Machine

/-! ### The area in memory -/

/-- The cells of an area, every page of it translated in the house core's space. -/
def State.areaCells (s : State) (acc : Acc) (lane va n : Nat) : Res (List Nat × List Tlb) :=
  if outside va n then .error (.trap (maskOf [lane]) (segvInfo va 0))
  else
    (s.xlateAll s.ref acc ((chunks va (n / 16384 + 2) n).map fun c => (lane, c.1, c.2))).map fun xs =>
      (xs.flatMap fun e => e.2.cells, xs.flatMap fun e => e.2.es)

/-- Reading an area by offset and size. -/
def State.areaRd (s : State) (cs : List Nat) (o n : Nat) : Nat := leNat (s.cells ((cs.drop o).take n))

/-! ### `CSAVE` -/

/-- Whether a lane of a crew is live. -/
def Crew.anyLive (k : Crew) : Bool := k.bundles.any fun e => e.2.live != 0

/-- Whether a tree of a crew's gang holds a round partly collected (R377). -/
def State.treeBusy (s : State) (k : Crew) : Bool :=
  match k.gang with
  | none => false
  | some gn =>
    let g := s.gangOf gn
    !g.flight.isEmpty || !g.waiting.isEmpty || g.routers.any fun r => !r.2.inputs.isEmpty

/-- R323, R377: why a save answers 3. -/
def State.saveBad (s : State) (t : Nat) : Bool :=
  let core := bits t 9 0
  let slot := bits t 15 10
  let k := s.crew core slot
  t / 65536 != 0 || decide (768 ≤ core) || !s.hasCrew core slot || k.run == .starting || !k.anyLive ||
    k.bundles.any (fun e => e.2.stopped.isSome) || s.treeBusy k ||
    (match k.gang with
      | some gn => (s.gangOf gn).restoring
      | none => false)

/-- The crews that a save stops: all of the gang. -/
def State.stopGang (s : State) (core slot : Nat) : State :=
  (s.gangCrews core slot).foldl (fun s m =>
    let k := s.crew m.1 m.2
    if s.hasCrew m.1 m.2 && (k.run == .running || k.run == .displacing) then s.setCrew m.1 m.2 { k with run := .stopping } else s) s

/-- A stopped crew goes on: courses whose waits are over execute again. -/
def State.goOn (s : State) (core slot : Nat) : State :=
  let k := s.crew core slot
  if s.hasCrew core slot && k.run == .stopping then
    let s1 := s.setCrew core slot { k with run := .running }
    k.bundles.foldl (fun s e => s.resume ⟨core, slot, e.1⟩ (s.retryOk ⟨core, slot, e.1⟩)) s1
  else s
/-- The crews of a gang of which none has been saved go on (R377). -/
def State.goOnGang (s : State) (core slot : Nat) : State :=
  if s.gangAway core slot then s else (s.gangCrews core slot).foldl (fun s m => s.goOn m.1 m.2) s

/-- Requests on their way for a crew's waiting lanes are taken back, grants reach their lanes, and records that wait for spill
room stay with their lanes (R45). -/
def State.recall (s : State) (core slot : Nat) : State :=
  let p (b : BRef) : Bool := b.core == core && b.slot == slot
  let s0 := (s.grants.filter fun g => p g.1).foldl (fun s g => s.addWeight g.1 g.2.1 g.2.2) s
  let spills := s.dies.flatMap fun d => d.2.spillWait.filter fun a => p a.ref
  let s1 := s0.setCrew core slot { s0.crew core slot with spills := spills }
  let ids := ((s1.core core).queries.filter fun q => p q.ref).map fun q => q.id
  { (s1.disarm p) with
    grants := s1.grants.filter fun g => !p g.1,
    qmsgs := s1.qmsgs.filter fun m => !(m.kind.answered && p m.ref),
    cores := s1.cores.map fun (x : Nat × Core) => (x.1, { x.2 with
      queries := x.2.queries.filter fun q => !p q.ref,
      pins := x.2.pins.filter fun e => !ids.contains e.1 }),
    dies := s1.dies.map fun (d : Nat × Die) => (d.1, { d.2 with spillWait := d.2.spillWait.filter fun a => !p a.ref }) }

/-- The crew has left its core for its area. -/
def State.leave (s : State) (core slot addr : Nat) : State :=
  let k := s.crew core slot
  let s1 := { s with saved := s.saved ++ [(addr, k.keep, s.cmdsBy core slot)] }
  let s2 := (s1.takeCmds core slot).dropCrew core slot
  let s3 := match k.gang with
    | none => s2
    | some gn =>
      let g := s2.gangOf gn
      let left := g.members.filter fun (m : Nat × Nat × Nat) => m.2 != (core, slot)
      s2.setGang gn { g with
        members := left,
        was := put g.was k.grank (core, slot),
        saved := g.saved ++ [k.grank],
        restoring := left.isEmpty }
  s3.freed core

/-- Reading t and s, aligned to 4 KiB (R323), once the lane's earlier accesses are performed; `k` takes the lowest lane, t and
s. -/
def State.switchForm (s : State) (i : Instr) (x : Args) (k : Taken → Nat → Nat → Nat → Out) : Out :=
  s.course1 i x fun t l =>
    let tw := s.opVal t x 1 l x.a
    let va := s.opVal t x 2 l x.b
    if va % 4096 ≠ 0 then s.settle x (.error (.trap (maskOf (s.act x)) (alignInfo (BitVec.ofNat 64 va))))
    else
      match s.awaitOwn (s.act x) with
      | .error e => s.settle x (.error e)
      | .ok _ => k t l tw va

/-- The status of a switch form, with what goes with it. -/
def State.status (s : State) (i : Instr) (x : Args) (t : Taken) (v : Nat) (f : State → State) : Out :=
  s.giveResults (i.shape.getD default) x t (s.act x) ((s.act x).map fun l => (l, ({ val := BitVec.ofNat 64 v } : LOut))) f

/-- A save that cannot reach its area: with a trap the crew goes on as though not stopped. -/
def State.saveStop (s : State) (x : Args) (core slot : Nat) (e : Stop) : Out :=
  match e with
  | .trap _ _ => (s.goOnGang core slot).settle x (.error e)
  | _ => s.settle x (.error e)

/-- `CSAVE` (R323, R327, R377). -/
def execCsave (x : Args) (s : State) : Out :=
  s.switchForm (.csave x) x fun t l tw va =>
    let core := bits tw 9 0
    let slot := bits tw 15 10
    if s.saveBad tw then
      s.status (.csave x) x t 3 fun s => if s.cur.again then s.goOnGang core slot else s
    else
      let s1 := s.stopGang core slot
      if s1.issue.any (fun c => c.core == core && c.slot == slot) then
        .next ((s1.parkAgain x []).resume s.ref fun _ => false)
      else if !s1.drained core slot then .next (s1.waitAgain x (.engine (.csave core slot)))
      else
        let s2 := s1.recall core slot
        let area := saveArea (s2.core core) slot (s2.crew core slot) (s2.cmdsBy core slot)
        match s1.areaCells .read l va 64 with
        | .error e => s1.saveStop x core slot e
        | .ok h =>
          if s1.areaRd h.1 56 8 < area.length then s1.status (.csave x) x t 5 fun s => s.goOnGang core slot
          else
            match s1.areaCells .write l va area.length with
            | .error e => s1.saveStop x core slot e
            | .ok w =>
              s2.status (.csave x) x t 0 fun s =>
                (((spanPages va area.length).foldl State.wrotePage (s.fillUsed s.cur.core w.2)).storePhys (w.1.zip area)).leave
                  core slot (w.1.headD 0)

/-! ### `CRESTORE` -/

/-- R327: MAGIC, LVER and a SIZE that its offsets fit. -/
def headerOk (h : Nat) : Bool :=
  bits h 7 0 == 0xC5 && bits h 15 8 == 1 && decide (288 ≤ bits h 319 288) && decide (bits h 319 288 ≤ bits h 287 256) &&
    decide (bits h 287 256 ≤ bits h 511 448) && decide (bits h 511 448 ≤ 2 ^ 22)

/-- What the device keeps of the crew of an area: its own record, or what the kernel says. -/
def State.keptOf (s : State) (addr h : Nat) : Crew × SMap (List QEnt) × Option Nat :=
  let lseq := bits h 447 384
  let kid := bits h 351 320
  let same (e : Nat × Crew × SMap (List QEnt)) : Bool := e.2.1.lseq == lseq && e.2.1.kid == kid
  match (s.saved.find? fun e => e.1 == addr && same e).orElse fun _ => s.saved.find? same with
  | some e => (e.2.1, e.2.2, some e.1)
  | none => ({ (findD s.kernels kid default).crew kid with queued := true, agent := s.agentNext }, [], none)

/-- R20: row and column of a core. -/
def coreRow (c : Nat) : Nat := c / 32
def coreCol (c : Nat) : Nat := c % 32

/-- Whether a rectangle of cores lies within one compute die (R29). -/
def rectInDie (row col w h : Nat) : Bool :=
  decide (row + h ≤ 24) && decide (col + w ≤ 32) &&
    dieOf (32 * row + col) == dieOf (32 * (row + h - 1) + (col + w - 1))

/-- R378: whether a core lies where a member's rank puts it, beside those restored already. -/
def Gang.fitsAt (g : Gang) (rank core : Nat) : Bool :=
  let ro := rank / g.w; let co := rank % g.w
  decide (ro ≤ coreRow core) && decide (co ≤ coreCol core) && rectInDie (coreRow core - ro) (coreCol core - co) g.w g.h &&
    g.members.all fun m =>
      coreRow m.2.1 + ro == coreRow core + m.1 / g.w && coreCol m.2.1 + co == coreCol core + m.1 % g.w

/-- Where a member of a gang, by where it stood, stands now. -/
def Gang.moved (g : Gang) (p : Nat × Nat) : Nat × Nat :=
  match g.was.find? fun e => e.2 == p with
  | some e => findD g.members e.1 p
  | none => p

/-- The last member of a gang is back: its crews and commands name each other by where they stand now, and they issue
(R378). -/
def State.gangBack (s : State) (gn : Nat) : State :=
  let g := s.gangOf gn
  let s1 := s.setGang gn { g with restoring := false, was := g.members, heldCmds := [] }
  let s2 := g.members.foldl (fun s m => s.setCrew m.2.1 m.2.2 ((s.crew m.2.1 m.2.2).move g.moved)) s1
  let s3 := g.members.foldl (fun s m => (s.rearm m.2.1 m.2.2).spillBack m.2.1 m.2.2) (s2.enterAll g.moved g.heldCmds)
  g.members.foldl (fun s m => (s.goOn m.2.1 m.2.2).settleQueues m.2.1 4096) s3

/-- The crew of an area takes its slot. -/
def State.restore (s : State) (core slot : Nat) (rd : Nat → Nat → Nat) (kept : Crew × SMap (List QEnt) × Option Nat) : State :=
  let k := readCrew rd kept.1
  let s1 := match kept.2.2 with
    | some a => { s with saved := s.saved.filter fun e => !(e.1 == a && e.2.1.lseq == k.lseq && e.2.1.grank == k.grank) }
    | none => { s with agentNext := s.agentNext + 1 }
  let cs := areaCmds rd core slot s.opSeq kept.2.1
  match k.gang with
  | none => s1.standAgain core slot rd { k with run := .running } cs
  | some gn =>
    let r := s1.seat core slot rd { k with run := .stopping } cs
    let g := r.1.gangOf gn
    let s3 := r.1.setGang gn { g with
      members := put g.members k.grank (core, slot),
      saved := g.saved.filter fun r => r != k.grank,
      heldCmds := g.heldCmds ++ r.2 }
    if (s3.gangOf gn).saved.isEmpty then s3.gangBack gn else s3

/-- Why a restore answers a status other than 0: unsaved members, an occupied slot or too little room, or the wrong
place. -/
def State.restoreBad (s : State) (t : Nat) (rd : Nat → Nat → Nat) (k : Crew) : Option Nat :=
  let core := bits t 9 0
  let slot := bits t 15 10
  let x := s.core core
  let unsaved := match k.gang with
    | some gn => !(s.gangOf gn).restoring
    | none => false
  let misplaced := match k.gang with
    | some gn => !(s.gangOf gn).fitsAt k.grank core
    | none => false
  let c := readCrew rd k
  if t / 65536 != 0 || decide (768 ≤ core) || unsaved || s.hasCrew core slot || x.holds.any (fun h => h.slot == slot) ||
      !x.fits c.bundles.length c.rfUse c.slines c.ntiles c.nacc || !x.blocksOpen (areaBlocks rd) then some 3
  else if misplaced then some 5 else none

/-- `CRESTORE` (R323, R327, R378). -/
def execCrestore (x : Args) (s : State) : Out :=
  s.switchForm (.crestore x) x fun t l tw va =>
    match s.areaCells .read l va 64 with
    | .error e => s.settle x (.error e)
    | .ok h =>
      let hd := s.areaRd h.1 0 64
      if !headerOk hd || (find s.kernels (bits hd 351 320)).isNone then s.status (.crestore x) x t 4 id
      else
        match s.areaCells .read l va (bits hd 511 448) with
        | .error e => s.settle x (.error e)
        | .ok w =>
          let rd := s.areaRd w.1
          let kept := s.keptOf (w.1.headD 0) hd
          match s.restoreBad tw rd kept.1 with
          | some v => s.status (.crestore x) x t v id
          | none => s.status (.crestore x) x t 0 fun s =>
              ((s.fillUsed s.cur.core w.2).restore (bits tw 9 0) (bits tw 15 10) rd kept).settleQueues (bits tw 9 0) 4096

end Sys2Proof.Machine
end

