-- ==== Sys2Proof/Machine/Pickers.lean ====
section
/-!
DEFINITION. A core's cycle (R38, R39, R194): its pickers' decisions, the displacement that the core finishes between instructions
(R26), and the order in which `ACCALLOC`s of one cycle are decided (R92).
-/

namespace Sys2Proof.Machine

/-! ### Displacement (R26, R327) -/

/-- A displaced bundle leaves its core for the displacement area and returns to its die's ready queue; when its state has found no
room it stays and goes on. -/
def State.displaceDone (s : State) (core slot : Nat) : State :=
  let s1 := s.recall core slot
  let x := s1.core core
  let k := s1.crew core slot
  let cmds := s1.cmdsBy core slot
  let area := saveArea x slot k cmds
  let die := dieOf core
  match if (s1.die die).ready.length < 4096 then dispFit x.disp x.cfg.dispSize.toNat area.length else none with
  | none => (s.setCrew core slot { s.crew core slot with run := .stopping }).goOn core slot
  | some off =>
    let addr := x.cfg.dispBase.toNat + off
    let s2 := ((s1.storePhysL addr area).takeCmds core slot).dropCrew core slot
    let s3 := s2.setCore core { s2.core core with disp := (s2.core core).disp ++ [(off, area.length)] }
    (s3.setDie die { s3.die die with ready := (s3.die die).ready ++ [.displaced k.keep core addr area.length cmds] }).freed core

/-- A core's displacement goes on: a bundle that has drained is displaced, and while an instruction still waits for storage the
next one begins. -/
def State.displaceStep (s : State) (core : Nat) : State :=
  let waits := (s.bundlesOf core).any fun b => (s.bundle b).parked.any fun k => k.waits.any fun w => w.2 == .storage
  match (s.core core).crews.find? fun k => k.2.run == .displacing with
  | some k =>
    if s.issue.any (fun c => c.core == core && c.slot == k.1) || !s.drained core k.1 then s else s.displaceDone core k.1
  | none => if waits then s.displaceNext core else s

/-! ### Decisions -/

/-- The core's next cycle begins: no bundle has been chosen in it, and picker 1 decides after picker 0; the flags stand as the
cycle before has left them. -/
def State.beginCycle (s : State) (core : Nat) : State :=
  let k := s.core core
  let s1 := s.setCore core { k with
    cyc := k.cyc + 1, chosen := none, late := none, turn := 1,
    crews := k.crews.map fun (e : Nat × Crew) => (e.1, { e.2 with
      bundles := e.2.bundles.map fun (y : Nat × Bundle) => (y.1, { y.2 with flagsWere := y.2.flags }) }) }
  (s1.dieTick core).displaceStep core

/-- Whether a course's instruction is an `ACCALLOC`. -/
def State.allocs (s : State) (c : Course) : Bool :=
  match (s.peekWord ⟨c.core, c.slot, c.bundle⟩ c.pc).bind decode with
  | some (.accalloc _) => true
  | _ => false

/-- The courses of one cycle in the order in which they execute: that of picker 0, then that of picker 1, but for two `ACCALLOC`s,
which are decided oldest crew first and then in ascending bundle number (R92). -/
def State.inOrder (s : State) (late c : Course) : List Course :=
  let age (d : Course) : Nat := (s.crew d.core d.slot).lseq
  if s.allocs c && (decide (age c < age late) || (age c == age late && decide (c.bundle < late.bundle))) then [c, late] else [late, c]

/-- `PICKER_DECISION`: picker 0 begins the core's next cycle; the course chosen is the next to execute. An `ACCALLOC` that picker 0
has chosen awaits what picker 1 chooses in the same cycle. -/
def execPickerDecision (core picker : Nat) (s : State) : Out :=
  let k := s.core core
  if !s.coreRuns core || k.turn != picker || 1 < picker then .next s
  else
    let s := if picker = 0 then s.beginCycle core
      else s.setCore core { k with turn := 0, late := none }
    let late := if picker = 1 then k.late else none
    let cs := (s.bundlesOf core).filter fun b => !(s.readyLanes b).isEmpty
    let free := cs.filter fun b => picker == 0 || (s.core core).chosen != some (b.slot, b.bundle)
    let pick := match s.urgentPick core free with
      | some (b, t) => (some b, t)
      | none => (s.oldestPick core free, s)
    let s := pick.2.setCore core { pick.2.core core with yielded := none }
    match pick.1 with
    | none => .next { s.ageAll cs none [] with issue := s.issue ++ late.toList }
    | some b =>
      let ls := s.readyLanes b
      let pc := s.pickPc b ls
      let course := ls.filter fun l => (s.lane b l).pc == pc
      let sc := s.peekSched b pc
      let s1 := s.ageAll cs (some b) course
      let k1 := s1.core core
      let s2 := s1.setCore core { k1 with
        chosen := if picker = 0 then some (b.slot, b.bundle) else k1.chosen,
        yielded := if sc.getLsbD 31 then some (b.slot, b.bundle) else none }
      let c : Course := ⟨core, b.slot, b.bundle, maskOf course, pc, picker, false⟩
      if picker = 0 ∧ s.allocs c then
        .next { s2.setCore core { s2.core core with late := some c } with agenda := .pickerDecision core 1 :: s2.agenda }
      else
        .next { s2 with issue := s2.issue ++ (match late with
          | some l => s.inOrder l c
          | none => [c]) }

end Sys2Proof.Machine
end

