-- ==== Sys2Proof/Machine/Slots.lean ====
section
/-!
DEFINITION. Maintenance slots (R384-R386): the calendar and its installation, the handshake at the sequencer (Table 24-10)
and at each compute die (Table 24-11), and their commands in host-assisted mode. When the hub's clock reaches a nominal
time is not part of the state (DESIGN CHOICE, assumption 11): the steps that wait for one may come at any time.
-/

namespace Sys2Proof.Machine

/-! ### The calendar (R384, R392) -/

/-- Repeats of an entry, as spans of nanoseconds from the frame's start. -/
def calSpans (e : Nat) : List (Nat × Nat) :=
  (List.range (calRpt e + 1)).map fun k =>
    let a := (calOffset e + k * calInterval e) * 8
    (a, a + 20 * calMaxlen e + 200)
def calBad (e : Nat) : Bool :=
  decide (3 < calKind e) || decide (calPeriod e ≤ calPhase e) || decide (128000 ≤ calOffset e + calRpt e * calInterval e)

/-- Whether two entries are ever used `d` frames apart, the second later. -/
def calMeet (e f d : Nat) : Bool :=
  let g := Nat.gcd (calPeriod e) (calPeriod f)
  (calPhase e + d) % g == calPhase f % g
/-- Whether slots of two entries overlap, in one frame or across the end of one; of one entry, two of its slots. -/
def calOverlap (e f : Nat) (same : Bool) : Bool :=
  let es := (calSpans e).zipIdx
  let fs := (calSpans f).zipIdx
  (calMeet e f 0 && es.any fun a => fs.any fun b =>
    !(same && a.2 == b.2) && decide (a.1.1 < b.1.2) && decide (b.1.1 < a.1.2)) ||
  (calMeet e f 1 && es.any fun a => fs.any fun b => decide (b.1.1 + frameNs < a.1.2)) ||
  (calMeet f e 1 && es.any fun a => fs.any fun b => decide (a.1.1 + frameNs < b.1.2))

/-- The check of a calendar: CALSTAT's code and the first failing entry. -/
def calCheck (c : SMap DWord) : Nat × Nat :=
  let used := calUsed c
  match used.find? fun i => calBad (calEntry c i) with
  | some i => (2, i)
  | none =>
    match used.find? fun i => used.any fun j => calOverlap (calEntry c i) (calEntry c j) (i == j) with
    | some i => (3, i)
    | none => (1, 0)

/-- The calendar at CALADDR. -/
def State.readCalendar (s : State) : SMap DWord :=
  (List.range 64).filterMap fun i =>
    let v := s.mem.readNat ((s.supReg 0x11E).toNat + 8 * i) 8
    if v = 0 then none else some (i, BitVec.ofNat 64 v)

/-- Whether a calendar has a slot of KIND 3 that another has not. -/
def addsRetrain (old new : SMap DWord) : Bool :=
  (calUsed new).any fun i => calKind (calEntry new i) == 3 &&
    !(calUsed old).any fun j => calEntry old j == calEntry new i

/-- `CALCTL_INSTALL` (R384). -/
def execCalctlInstall (s : State) : Out :=
  let c := s.readCalendar
  let r := calCheck c
  let s1 := s.setSup 0x120 (BitVec.ofNat 64 (r.1 + 256 * r.2))
  if r.1 = 1 then .next { s1 with calPending := some (c, if addsRetrain s.calendar c then 2 else 1) } else .next s1

/-- `CALENDAR_FRAME` (R384): a new frame begins. -/
def execCalendarFrame (s : State) : Out :=
  let s1 := { s with frame := s.frame + 1 }
  match s.calPending with
  | none => .next s1
  | some (c, n) =>
    if n ≤ 1 then .next ({ s1 with calendar := c, calPending := none }.setSup 0x120 0)
    else .next { s1 with calPending := some (c, n - 1) }

/-! ### The sequencer (Table 24-10) -/

/-- NOTICE for a slot, to the four dies: it is the sequencer's slot at once, or once the earlier ones are over. -/
def State.notice (s : State) (entry rep : Nat) : State :=
  let id : SlotId := ⟨entry, rep, calKind (calEntry s.calendar entry)⟩
  let q := s.seq
  let msgs := (List.range 4).map fun d => (d, id, (s.supReg 0x121).toNat)
  if q.st = .idle then { s with seq := { q with st := .noticed, slot := id, drained := [], notices := q.notices ++ msgs } }
  else { s with seq := { q with next := q.next ++ [(id, [])], notices := q.notices ++ msgs } }

/-- Whether OPEN may be sent: the four dies have drained, and the earlier slot is closed. -/
def Sequencer.mayOpen (q : Sequencer) : Bool := q.st == .noticed && (List.range 4).all q.drained.contains

/-- OPEN, once it may be sent. -/
def State.openSlot (s : State) : State :=
  let q := s.seq
  if q.mayOpen then
    { s with seq := { q with st := .open_, opens := q.opens ++ (List.range 4).map fun d => (d, q.slot) } }
  else s

/-- The writer of an OPEN goes on (R367). -/
def State.openWritten (s : State) (entry rep : Nat) : State :=
  s.mapBundles fun _ y => y.release (fun _ w => w == .engine (.slotOpen entry rep)) fun _ z => z

/-- In host-assisted mode an OPEN that has been written is made once it may be (R385, R386). -/
def State.tryOpen (s : State) : State :=
  let q := s.seq
  if q.mayOpen && q.asked.contains (q.slot.entry, q.slot.rep) then
    { s with seq := { q with asked := q.asked.erase (q.slot.entry, q.slot.rep) } }.openSlot.openWritten q.slot.entry q.slot.rep
  else s

/-- A record of a slot overrun. -/
def slotOvr (i0 i1 : Nat) : TrapMsg := coreless ⟨0x41, BitVec.ofNat 32 i0, BitVec.ofNat 32 i1, 0, 0⟩

/-- CLOSE: the slot that has been noticed meanwhile is next. An overrun posts its length. -/
def State.closeSlot (s : State) (ns : Nat) : State :=
  let q := s.seq
  if q.st = .open_ ∨ q.st = .overrun then
    let q1 := { q with closes := q.closes ++ (List.range 4).map fun d => (d, q.slot) }
    let q2 := match q.next with
      | (id, ds) :: r => { q1 with st := .noticed, slot := id, drained := ds, next := r }
      | [] => { q1 with st := .idle, drained := [] }
    let s1 := { s with seq := q2 }.tryOpen
    if q.st = .overrun then s1.postTrap (slotOvr ns 0) else s1
  else s

/-- Whether an entry has a slot of this repeat in the frame that runs or the next. -/
def State.slotDue (s : State) (entry rep : Nat) : Bool :=
  let e := calEntry s.calendar entry
  decide (entry < 64) && calPeriod e != 0 && decide (rep ≤ calRpt e) &&
    (s.frame % calPeriod e == calPhase e || (s.frame + 1) % calPeriod e == calPhase e)

/-- `SLOT_NOTICE`. -/
def execSlotNotice (entry rep : Nat) (s : State) : Out :=
  .next (if s.funcBit 4 || !s.slotDue entry rep then s else s.notice entry rep)
/-- `SLOT_OPEN`. -/
def execSlotOpen (s : State) : Out := .next (if s.funcBit 4 then s else s.openSlot)
/-- `SLOT_MAXLEN_EXPIRE`: the overrun is posted and counted. -/
def execSlotMaxlenExpire (s : State) : Out :=
  if s.seq.st = .open_ then
    .next (({ s with seq := { s.seq with st := .overrun } }.count 2 1).postTrap (slotOvr s.seq.slot.entry s.seq.slot.rep))
  else .next s
/-- `MAINTENANCE_COMPLETE`, after `ns` nanoseconds. -/
def execMaintenanceComplete (ns : Word) (s : State) : Out := .next (if s.funcBit 4 then s else s.closeSlot ns.toNat)

/-- `SLOTCMD` with NOTICE (R386): in host-assisted mode only. -/
def execSlotcmdNotice (entry rep : Nat) (s : State) : Out := .next (if s.funcBit 4 then s.notice entry rep else s)
/-- Whether a command names the sequencer's slot. -/
def State.atSlot (s : State) (entry rep : Nat) : Bool := s.funcBit 4 && s.seq.slot.entry == entry && s.seq.slot.rep == rep
/-- Whether a slot has been noticed and has not opened yet. -/
def State.awaitsOpen (s : State) (entry rep : Nat) : Bool :=
  s.funcBit 4 && ((s.seq.st == .noticed && s.seq.slot.entry == entry && s.seq.slot.rep == rep) ||
    s.seq.next.any fun n => n.1.entry == entry && n.1.rep == rep)
/-- `SLOTCMD` with OPEN: made once the four dies have drained and the earlier slot is closed, for which it waits (R385, R386); for
a slot that has not been noticed it has no effect. -/
def execSlotcmdOpen (entry rep : Nat) (s : State) : Out :=
  .next (if s.awaitsOpen entry rep then { s with seq := { s.seq with asked := s.seq.asked ++ [(entry, rep)] } }.tryOpen
    else s.openWritten entry rep)
/-- `SLOTCMD` with CLOSE; the length of an overrun is the hub's time. -/
def execSlotcmdClose (entry rep : Nat) (s : State) : Out :=
  .next (if s.atSlot entry rep then { s.closeSlot (Config.freeWord 4 s.opSeq).toNat with opSeq := s.opSeq + 1 } else s)

/-! ### The dies (Table 24-11) -/

/-- A message for a die is taken. -/
def takeMsg {α : Type} [DecidableEq α] (l : List (Nat × α)) (die : Nat) : Option (α × List (Nat × α)) :=
  (l.find? fun e => e.1 == die).map fun e => (e.2, l.erase e)

/-- `SLOT_NOTICE_RECEIVE`: the count starts, or the notice is kept while an earlier slot is not over. -/
def execSlotNoticeReceive (die : Nat) (s : State) : Out :=
  match takeMsg s.seq.notices die with
  | none => .next s
  | some ((id, lead), rest) =>
    let d := s.die die
    let s1 := { s with seq := { s.seq with notices := rest } }
    if d.slot = .run then .next (s1.setDie die { d with slot := .count (d.dcyc + leadCycles lead), slotId := id })
    else .next (s1.setDie die { d with kept := d.kept ++ [(id, lead, d.dcyc)] })

/-- The cores of a compute die. -/
def coresOf (die : Nat) : List Nat := (List.range 768).filter fun c => dieOf c == die

/-- Whether an entry is a command at work between resumable points: an attention command is not, between windows. -/
def QEnt.busy (e : QEnt) : Bool :=
  match e with
  | .cmd c => c.started && !c.done && !c.suspended && (match c.body with
    | .attn _ => false
    | _ => true)
  | .fence _ => false
/-- The engines of a core that are at work, as bits [6:0] of Table 05-3. -/
def Core.busyMask (x : Core) : Nat := x.queues.foldl (fun a q => if q.2.any QEnt.busy then a + 2 ^ q.1 else a) 0
def QEnt.suspend (e : QEnt) : QEnt :=
  match e with
  | .cmd c => if e.busy then .cmd { c with suspended := true } else e
  | .fence _ => e

/-- Busy commands of a core are suspended, with a record and a count. -/
def State.suspendCore (s : State) (entry core : Nat) : State :=
  let x := s.core core
  let m := x.busyMask
  if m = 0 then s
  else
    let s1 := s.setCore core { x with queues := x.queues.map fun (q : Nat × List QEnt) => (q.1, q.2.map QEnt.suspend) }
    (s1.count 3 1).postTrap ⟨0, ⟨0x40, BitVec.ofNat 32 entry, BitVec.ofNat 32 m, 0, 0⟩, 0, 0, core, 0, 0, 0⟩

/-- `SLOT_COUNT_ZERO`: DRAINED is sent. -/
def execSlotCountZero (die : Nat) (s : State) : Out :=
  let d := s.die die
  match d.slot with
  | .count u =>
    if d.dcyc < u then .next s
    else
      let s1 := (coresOf die).foldl (fun s c => s.suspendCore d.slotId.entry c) s
      let s2 := s1.setDie die { s1.die die with slot := .drained }
      .next { s2 with seq := { s2.seq with drains := s2.seq.drains ++ [(die, d.slotId)] } }
  | _ => .next s

/-- `SLOT_DRAINED_RECEIVE`: the answer counts for the slot it names. -/
def execSlotDrainedReceive (die : Nat) (s : State) : Out :=
  match takeMsg s.seq.drains die with
  | none => .next s
  | some (id, rest) =>
    let q := { s.seq with drains := rest }
    if q.st = .noticed ∧ q.slot = id then .next { s with seq := { q with drained := q.drained ++ [die] } }.tryOpen
    else .next { s with seq := { q with next := q.next.map fun n => if n.1 = id then (n.1, n.2 ++ [die]) else n } }

/-- `SLOT_OPEN_RECEIVE`: accesses stall (R384). -/
def execSlotOpenReceive (die : Nat) (s : State) : Out :=
  match takeMsg s.seq.opens die with
  | none => .next s
  | some (id, rest) =>
    let d := s.die die
    if d.slot = .drained ∧ d.slotId = id then
      .next { s.setDie die { d with slot := .held } with seq := { s.seq with opens := rest } }
    else .next s

/-- A command that a slot has suspended resumes; a fault holds an attention command still. -/
def QEnt.unsuspend (e : QEnt) : QEnt :=
  match e with
  | .cmd c => .cmd { c with suspended := c.fault.isSome }
  | .fence _ => e

/-- A core's engines go on. -/
def State.resumeCore (s : State) (core : Nat) : State :=
  let x := s.core core
  (s.setCore core { x with queues := x.queues.map fun (q : Nat × List QEnt) => (q.1, q.2.map QEnt.unsuspend) }).settleQueues
    core 4096

/-- `SLOT_CLOSE_RECEIVE`: held commands start and suspended ones resume; the oldest kept notice starts its count, less
the time since it came (R385). -/
def execSlotCloseReceive (die : Nat) (s : State) : Out :=
  match takeMsg s.seq.closes die with
  | none => .next s
  | some (id, rest) =>
    let d := s.die die
    if d.slot = .held ∧ d.slotId = id then
      let d1 := match d.kept with
        | (n, lead, at_) :: r => { d with slot := .count (at_ + leadCycles lead), slotId := n, kept := r }
        | [] => { d with slot := .run }
      let s1 := { s.setDie die d1 with seq := { s.seq with closes := rest } }
      .next ((coresOf die).foldl State.resumeCore s1).wakeSave
    else .next s

end Sys2Proof.Machine
end

