-- ==== Sys2Proof/Machine/SpecialForms.lean ====
section
/-!
DEFINITION. Class 0x3, special functions (Table 13-8): one meaning for each form.
-/

namespace Sys2Proof.Machine

/-- `RCP` (R69, R240). -/
def execRcp (x : Args) (s : State) : Out :=
  s.alu (.rcp x) x false .general fun i => fOut (rcpV i.a.toNat)

/-- `RSQ` (R67, R68, R240). -/
def execRsq (x : Args) (s : State) : Out :=
  s.alu (.rsq x) x false .general fun i => fOut (rsqV i.a.toNat)

/-- `SQRT` (R67, R68, R240). -/
def execSqrt (x : Args) (s : State) : Out :=
  s.alu (.sqrt x) x false .general fun i => fOut (sqrtV i.a.toNat)

/-- `EX2` (R67, R68, R240). -/
def execEx2 (x : Args) (s : State) : Out :=
  s.alu (.ex2 x) x false .general fun i => fOut (ex2V i.a.toNat)

/-- `LG2` (R67, R68, R240). -/
def execLg2 (x : Args) (s : State) : Out :=
  s.alu (.lg2 x) x false .general fun i => fOut (lg2V i.a.toNat)

/-- `SIN` (R67, R68, R240). -/
def execSin (x : Args) (s : State) : Out :=
  s.alu (.sin x) x false .general fun i => fOut (sinV i.a.toNat)

/-- `COS` (R67, R68, R240). -/
def execCos (x : Args) (s : State) : Out :=
  s.alu (.cos x) x false .general fun i => fOut (cosV i.a.toNat)

/-- `TANH` (R67, R68, R240). -/
def execTanh (x : Args) (s : State) : Out :=
  s.alu (.tanh x) x false .general fun i => fOut (tanhV i.a.toNat)

end Sys2Proof.Machine
end

