-- ==== Sys2Proof/Machine/Dispatch.lean ====
section
/-!
DEFINITION. The meaning of every instruction and event: one arm for each constructor of `Instr`.
-/

namespace Sys2Proof.Machine

open Sys2Proof

def exec (i : Instr) (s : State) : Host.Outcome State Fault Refusal :=
  match i with
  | .nop x => Sys2Proof.Machine.execNop x s
  | .mov t x => Sys2Proof.Machine.execMov t x s
  | .iadd t x => Sys2Proof.Machine.execIadd t x s
  | .isub t x => Sys2Proof.Machine.execIsub t x s
  | .iaddc t x => Sys2Proof.Machine.execIaddc t x s
  | .imul t x => Sys2Proof.Machine.execImul t x s
  | .imulh t x => Sys2Proof.Machine.execImulh t x s
  | .imad t x => Sys2Proof.Machine.execImad t x s
  | .imadw t x => Sys2Proof.Machine.execImadw t x s
  | .idiv t x => Sys2Proof.Machine.execIdiv t x s
  | .irem t x => Sys2Proof.Machine.execIrem t x s
  | .iabs t x => Sys2Proof.Machine.execIabs t x s
  | .ineg t x => Sys2Proof.Machine.execIneg t x s
  | .imin t x => Sys2Proof.Machine.execImin t x s
  | .imax t x => Sys2Proof.Machine.execImax t x s
  | .icmp k t x => Sys2Proof.Machine.execIcmp k t x s
  | .isel t x => Sys2Proof.Machine.execIsel t x s
  | .andL t x => Sys2Proof.Machine.execAnd t x s
  | .orL t x => Sys2Proof.Machine.execOr t x s
  | .xorL t x => Sys2Proof.Machine.execXor t x s
  | .andn t x => Sys2Proof.Machine.execAndn t x s
  | .notL t x => Sys2Proof.Machine.execNot t x s
  | .shl t x => Sys2Proof.Machine.execShl t x s
  | .shr t x => Sys2Proof.Machine.execShr t x s
  | .shra t x => Sys2Proof.Machine.execShra t x s
  | .rotl t x => Sys2Proof.Machine.execRotl t x s
  | .funnel x => Sys2Proof.Machine.execFunnel x s
  | .popc t x => Sys2Proof.Machine.execPopc t x s
  | .clz t x => Sys2Proof.Machine.execClz t x s
  | .ctz t x => Sys2Proof.Machine.execCtz t x s
  | .brev t x => Sys2Proof.Machine.execBrev t x s
  | .bfx t x => Sys2Proof.Machine.execBfx t x s
  | .bfi x => Sys2Proof.Machine.execBfi x s
  | .lea sh t x => Sys2Proof.Machine.execLea sh t x s
  | .plop tt x => Sys2Proof.Machine.execPlop tt x s
  | .pmovPack x => Sys2Proof.Machine.execPmovPack x s
  | .pmovUnpack x => Sys2Proof.Machine.execPmovUnpack x s
  | .gettag x => Sys2Proof.Machine.execGettag x s
  | .taggen x => Sys2Proof.Machine.execTaggen x s
  | .fadd r t x => Sys2Proof.Machine.execFadd r t x s
  | .fsub r t x => Sys2Proof.Machine.execFsub r t x s
  | .fmul r t x => Sys2Proof.Machine.execFmul r t x s
  | .ffma r t x => Sys2Proof.Machine.execFfma r t x s
  | .fmin t x => Sys2Proof.Machine.execFmin t x s
  | .fmax t x => Sys2Proof.Machine.execFmax t x s
  | .fabs t x => Sys2Proof.Machine.execFabs t x s
  | .fneg t x => Sys2Proof.Machine.execFneg t x s
  | .fcmp k t x => Sys2Proof.Machine.execFcmp k t x s
  | .fclass x => Sys2Proof.Machine.execFclass x s
  | .frnd r x => Sys2Proof.Machine.execFrnd r x s
  | .fscale r x => Sys2Proof.Machine.execFscale r x s
  | .hadd2 r t x => Sys2Proof.Machine.execHadd2 r t x s
  | .hmul2 r t x => Sys2Proof.Machine.execHmul2 r t x s
  | .hfma2 r t x => Sys2Proof.Machine.execHfma2 r t x s
  | .fdot2 r t x => Sys2Proof.Machine.execFdot2 r t x s
  | .cvt r dt st x => Sys2Proof.Machine.execCvt r dt st x s
  | .pack2 r t x => Sys2Proof.Machine.execPack2 r t x s
  | .unpack2 t x => Sys2Proof.Machine.execUnpack2 t x s
  | .had16 x => Sys2Proof.Machine.execHad16 x s
  | .qblk f x => Sys2Proof.Machine.execQblk f x s
  | .dqblk f x => Sys2Proof.Machine.execDqblk f x s
  | .seedflip x => Sys2Proof.Machine.execSeedflip x s
  | .rcp x => Sys2Proof.Machine.execRcp x s
  | .rsq x => Sys2Proof.Machine.execRsq x s
  | .sqrt x => Sys2Proof.Machine.execSqrt x s
  | .ex2 x => Sys2Proof.Machine.execEx2 x s
  | .lg2 x => Sys2Proof.Machine.execLg2 x s
  | .sin x => Sys2Proof.Machine.execSin x s
  | .cos x => Sys2Proof.Machine.execCos x s
  | .tanh x => Sys2Proof.Machine.execTanh x s
  | .bra disp x => Sys2Proof.Machine.execBra disp x s
  | .brx conv x => Sys2Proof.Machine.execBrx conv x s
  | .call disp x => Sys2Proof.Machine.execCall disp x s
  | .callx conv x => Sys2Proof.Machine.execCallx conv x s
  | .ret x => Sys2Proof.Machine.execRet x s
  | .join x => Sys2Proof.Machine.execJoin x s
  | .exitL x => Sys2Proof.Machine.execExit x s
  | .sleep n x => Sys2Proof.Machine.execSleep n x s
  | .ldg w o off x => Sys2Proof.Machine.execLdg w o off x s
  | .stg w o off x => Sys2Proof.Machine.execStg w o off x s
  | .lds w o off x => Sys2Proof.Machine.execLds w o off x s
  | .sts w o off x => Sys2Proof.Machine.execSts w o off x s
  | .ldgv w o off x => Sys2Proof.Machine.execLdgv w o off x s
  | .stgv w o off x => Sys2Proof.Machine.execStgv w o off x s
  | .ldsv w o off x => Sys2Proof.Machine.execLdsv w o off x s
  | .stsv w o off x => Sys2Proof.Machine.execStsv w o off x s
  | .lineset st off x => Sys2Proof.Machine.execLineset st off x s
  | .lineq off x => Sys2Proof.Machine.execLineq off x s
  | .pref off x => Sys2Proof.Machine.execPref off x s
  | .cctl k off x => Sys2Proof.Machine.execCctl k off x s
  | .ldgw o off x => Sys2Proof.Machine.execLdgw o off x s
  | .stgw o off x => Sys2Proof.Machine.execStgw o off x s
  | .atomg op t o off x => Sys2Proof.Machine.execAtomg op t o off x s
  | .atoms op t o off x => Sys2Proof.Machine.execAtoms op t o off x s
  | .redg op t o off x => Sys2Proof.Machine.execRedg op t o off x s
  | .casg t o off x => Sys2Proof.Machine.execCasg t o off x s
  | .cass t o off x => Sys2Proof.Machine.execCass t o off x s
  | .fence o x => Sys2Proof.Machine.execFence o x s
  | .qfence x => Sys2Proof.Machine.execQfence x s
  | .cbar op t x => Sys2Proof.Machine.execCbar op t x s
  | .expect x => Sys2Proof.Machine.execExpect x s
  | .arrive x => Sys2Proof.Machine.execArrive x s
  | .waitr x => Sys2Proof.Machine.execWaitr x s
  | .ballot x => Sys2Proof.Machine.execBallot x s
  | .vote m x => Sys2Proof.Machine.execVote m x s
  | .shfl m t x => Sys2Proof.Machine.execShfl m t x s
  | .bcast t x => Sys2Proof.Machine.execBcast t x s
  | .redb op t x => Sys2Proof.Machine.execRedb op t x s
  | .scanb op t exc x => Sys2Proof.Machine.execScanb op t exc x s
  | .matchL t x => Sys2Proof.Machine.execMatch t x s
  | .actmask x => Sys2Proof.Machine.execActmask x s
  | .pbind g x => Sys2Proof.Machine.execPbind g x s
  | .punbind x => Sys2Proof.Machine.execPunbind x s
  | .pstat x => Sys2Proof.Machine.execPstat x s
  | .pskip x => Sys2Proof.Machine.execPskip x s
  | .pflush x => Sys2Proof.Machine.execPflush x s
  | .bpend disp x => Sys2Proof.Machine.execBpend disp x s
  | .prewind x => Sys2Proof.Machine.execPrewind x s
  | .tld x => Sys2Proof.Machine.execTld x s
  | .tst x => Sys2Proof.Machine.execTst x s
  | .tzero x => Sys2Proof.Machine.execTzero x s
  | .mloop x => Sys2Proof.Machine.execMloop x s
  | .gmloop x => Sys2Proof.Machine.execGmloop x s
  | .accalloc x => Sys2Proof.Machine.execAccalloc x s
  | .accfree x => Sys2Proof.Machine.execAccfree x s
  | .accrd x => Sys2Proof.Machine.execAccrd x s
  | .accwr x => Sys2Proof.Machine.execAccwr x s
  | .accst t x => Sys2Proof.Machine.execAccst t x s
  | .mwait x => Sys2Proof.Machine.execMwait x s
  | .segnew x => Sys2Proof.Machine.execSegnew x s
  | .segseal x => Sys2Proof.Machine.execSegseal x s
  | .segretire x => Sys2Proof.Machine.execSegretire x s
  | .ctxnew x => Sys2Proof.Machine.execCtxnew x s
  | .ctxfree x => Sys2Proof.Machine.execCtxfree x s
  | .link x => Sys2Proof.Machine.execLink x s
  | .unlink x => Sys2Proof.Machine.execUnlink x s
  | .fork x => Sys2Proof.Machine.execFork x s
  | .ctxflat x => Sys2Proof.Machine.execCtxflat x s
  | .append x => Sys2Proof.Machine.execAppend x s
  | .patch x => Sys2Proof.Machine.execPatch x s
  | .attn o gated x => Sys2Proof.Machine.execAttn o gated x s
  | .specb x => Sys2Proof.Machine.execSpecb x s
  | .speca x => Sys2Proof.Machine.execSpeca x s
  | .specr x => Sys2Proof.Machine.execSpecr x s
  | .ctxq x => Sys2Proof.Machine.execCtxq x s
  | .palloc x => Sys2Proof.Machine.execPalloc x s
  | .pfree x => Sys2Proof.Machine.execPfree x s
  | .promote x => Sys2Proof.Machine.execPromote x s
  | .demote x => Sys2Proof.Machine.execDemote x s
  | .cpy m so dof x => Sys2Proof.Machine.execCpy m so dof x s
  | .tcpy m x => Sys2Proof.Machine.execTcpy m x s
  | .cpyfill m n dof x => Sys2Proof.Machine.execCpyfill m n dof x s
  | .spawn x => Sys2Proof.Machine.execSpawn x s
  | .splitw x => Sys2Proof.Machine.execSplitw x s
  | .retw x => Sys2Proof.Machine.execRetw x s
  | .retwSv x => Sys2Proof.Machine.execRetwSv x s
  | .waitq x => Sys2Proof.Machine.execWaitq x s
  | .qopen x => Sys2Proof.Machine.execQopen x s
  | .qclose x => Sys2Proof.Machine.execQclose x s
  | .qread x => Sys2Proof.Machine.execQread x s
  | .postres x => Sys2Proof.Machine.execPostres x s
  | .msend x => Sys2Proof.Machine.execMsend x s
  | .gbar x => Sys2Proof.Machine.execGbar x s
  | .rsend x => Sys2Proof.Machine.execRsend x s
  | .rrecv x => Sys2Proof.Machine.execRrecv x s
  | .mcast x => Sys2Proof.Machine.execMcast x s
  | .movk k x => Sys2Proof.Machine.execMovk k x s
  | .movr k x => Sys2Proof.Machine.execMovr k x s
  | .trap n x => Sys2Proof.Machine.execTrap n x s
  | .svc n x => Sys2Proof.Machine.execSvc n x s
  | .eret x => Sys2Proof.Machine.execEret x s
  | .slotq x => Sys2Proof.Machine.execSlotq x s
  | .csave x => Sys2Proof.Machine.execCsave x s
  | .crestore x => Sys2Proof.Machine.execCrestore x s
  | .pickerDecision core picker => Sys2Proof.Machine.execPickerDecision core picker s
  | .stallElapse at_ mask => Sys2Proof.Machine.execStallElapse at_ mask s
  | .hintReplayElapse at_ mask => Sys2Proof.Machine.execHintReplayElapse at_ mask s
  | .asyncTrapTake at_ => Sys2Proof.Machine.execAsyncTrapTake at_ s
  | .loadResultReturn core idx => Sys2Proof.Machine.execLoadResultReturn core idx s
  | .sleepExpire at_ lane => Sys2Proof.Machine.execSleepExpire at_ lane s
  | .lineWaiterWake at_ => Sys2Proof.Machine.execLineWaiterWake at_ s
  | .bundleRetire at_ => Sys2Proof.Machine.execBundleRetire at_ s
  | .phRecordArrive die idx => Sys2Proof.Machine.execPhRecordArrive die idx s
  | .phTimerExpire die ph => Sys2Proof.Machine.execPhTimerExpire die ph s
  | .bundleForm die ph => Sys2Proof.Machine.execBundleForm die ph s
  | .readyQueuePop die cores => Sys2Proof.Machine.execReadyQueuePop die cores s
  | .gangPlaceAttempt launch replica => Sys2Proof.Machine.execGangPlaceAttempt launch replica s
  | .gangHoldAnswer launch replica core => Sys2Proof.Machine.execGangHoldAnswer launch replica core s
  | .placerBackoffExpire launch replica => Sys2Proof.Machine.execPlacerBackoffExpire launch replica s
  | .crewStart core slot => Sys2Proof.Machine.execCrewStart core slot s
  | .qdMint idx => Sys2Proof.Machine.execQdMint idx s
  | .qdBorrow idx => Sys2Proof.Machine.execQdBorrow idx s
  | .borrowGrantArrive at_ lane => Sys2Proof.Machine.execBorrowGrantArrive at_ lane s
  | .qdReturn idx => Sys2Proof.Machine.execQdReturn idx s
  | .qdArm idx => Sys2Proof.Machine.execQdArm idx s
  | .matrixCommandStart core idx => Sys2Proof.Machine.execMatrixCommandStart core idx s
  | .matrixCommandComplete core idx => Sys2Proof.Machine.execMatrixCommandComplete core idx s
  | .gmloopQueryAnswer core idx => Sys2Proof.Machine.execGmloopQueryAnswer core idx s
  | .copyTransferLand core queue => Sys2Proof.Machine.execCopyTransferLand core queue s
  | .portElementFetch at_ port idx => Sys2Proof.Machine.execPortElementFetch at_ port idx s
  | .portWriteEntryPerform at_ port => Sys2Proof.Machine.execPortWriteEntryPerform at_ port s
  | .attnStart core => Sys2Proof.Machine.execAttnStart core s
  | .attnWindowComplete core => Sys2Proof.Machine.execAttnWindowComplete core s
  | .patchPerform core => Sys2Proof.Machine.execPatchPerform core s
  | .mcastPerform core => Sys2Proof.Machine.execMcastPerform core s
  | .msendDeliver core idx => Sys2Proof.Machine.execMsendDeliver core idx s
  | .redgApply core idx => Sys2Proof.Machine.execRedgApply core idx s
  | .reductionPacketArrive gang idx => Sys2Proof.Machine.execReductionPacketArrive gang idx s
  | .reductionTimeout gang tree => Sys2Proof.Machine.execReductionTimeout gang tree s
  | .reductionFlushArrive gang idx => Sys2Proof.Machine.execReductionFlushArrive gang idx s
  | .segretireSweep seg => Sys2Proof.Machine.execSegretireSweep seg s
  | .promotionComplete page => Sys2Proof.Machine.execPromotionComplete page s
  | .demotionComplete page => Sys2Proof.Machine.execDemotionComplete page s
  | .tierMoverVisit acct => Sys2Proof.Machine.execTierMoverVisit acct s
  | .farReadRefill core => Sys2Proof.Machine.execFarReadRefill core s
  | .uncorrectableError loc => Sys2Proof.Machine.execUncorrectableError loc s
  | .errorCorrected => Sys2Proof.Machine.execErrorCorrected s
  | .originRefetchComplete line => Sys2Proof.Machine.execOriginRefetchComplete line s
  | .faultEntryPost core idx => Sys2Proof.Machine.execFaultEntryPost core idx s
  | .rootMessagePost idx => Sys2Proof.Machine.execRootMessagePost idx s
  | .tlbiPage asid va large => Sys2Proof.Machine.execTlbiPage asid va large s
  | .tlbiAsid asid => Sys2Proof.Machine.execTlbiAsid asid s
  | .tlbiAll => Sys2Proof.Machine.execTlbiAll s
  | .freplayReplay core idx => Sys2Proof.Machine.execFreplayReplay core idx s
  | .freplayRefuse core idx => Sys2Proof.Machine.execFreplayRefuse core idx s
  | .freplayFill core idx => Sys2Proof.Machine.execFreplayFill core idx s
  | .tresume at_ adv => Sys2Proof.Machine.execTresume at_ adv s
  | .lend lseq => Sys2Proof.Machine.execLend lseq s
  | .cctsync core => Sys2Proof.Machine.execCctsync core s
  | .calctlInstall => Sys2Proof.Machine.execCalctlInstall s
  | .calendarFrame => Sys2Proof.Machine.execCalendarFrame s
  | .slotcmdNotice entry rep => Sys2Proof.Machine.execSlotcmdNotice entry rep s
  | .slotcmdOpen entry rep => Sys2Proof.Machine.execSlotcmdOpen entry rep s
  | .slotcmdClose entry rep => Sys2Proof.Machine.execSlotcmdClose entry rep s
  | .qreplyBorrow at_ lane grant => Sys2Proof.Machine.execQreplyBorrow at_ lane grant s
  | .qreplyArm at_ lane value => Sys2Proof.Machine.execQreplyArm at_ lane value s
  | .qreplyOpen at_ lane value => Sys2Proof.Machine.execQreplyOpen at_ lane value s
  | .qreplyClose at_ lane value => Sys2Proof.Machine.execQreplyClose at_ lane value s
  | .qreset dom => Sys2Proof.Machine.execQreset dom s
  | .qpub dom => Sys2Proof.Machine.execQpub dom s
  | .seedWrite v => Sys2Proof.Machine.execSeedWrite v s
  | .supervisorRegisterWrite house k v => Sys2Proof.Machine.execSupervisorRegisterWrite house k v s
  | .slotNotice entry rep => Sys2Proof.Machine.execSlotNotice entry rep s
  | .slotNoticeReceive die => Sys2Proof.Machine.execSlotNoticeReceive die s
  | .slotCountZero die => Sys2Proof.Machine.execSlotCountZero die s
  | .slotDrainedReceive die => Sys2Proof.Machine.execSlotDrainedReceive die s
  | .slotOpen => Sys2Proof.Machine.execSlotOpen s
  | .slotOpenReceive die => Sys2Proof.Machine.execSlotOpenReceive die s
  | .slotMaxlenExpire => Sys2Proof.Machine.execSlotMaxlenExpire s
  | .maintenanceComplete ns => Sys2Proof.Machine.execMaintenanceComplete ns s
  | .slotCloseReceive die => Sys2Proof.Machine.execSlotCloseReceive die s
  | .windowWrite w off bytes => Sys2Proof.Machine.execWindowWrite w off bytes s
  | .windowOpen w acct peer port session => Sys2Proof.Machine.execWindowOpen w acct peer port session s
  | .windowClose w => Sys2Proof.Machine.execWindowClose w s
  | .fabricDatagram src port bytes => Sys2Proof.Machine.execFabricDatagram src port bytes s
  | .recordDecide w => Sys2Proof.Machine.execRecordDecide w s
  | .launchComplete lseq => Sys2Proof.Machine.execLaunchComplete lseq s
  | .mailboxReport mseq resp mdata => Sys2Proof.Machine.execMailboxReport mseq resp mdata s
  | .mailboxRaisefsvn mseq resp mdata => Sys2Proof.Machine.execMailboxRaisefsvn mseq resp mdata s
  | .mailboxUnknownCommand cmd mseq => Sys2Proof.Machine.execMailboxUnknownCommand cmd mseq s
  | .measurementExtend m data => Sys2Proof.Machine.execMeasurementExtend m data s
  | .moduleReset => Sys2Proof.Machine.execModuleReset s
  | .bootDhcpTimeout => Sys2Proof.Machine.execBootDhcpTimeout s
  | .bootFetchComplete http image => Sys2Proof.Machine.execBootFetchComplete http image s
  | .bootRetryExpire => Sys2Proof.Machine.execBootRetryExpire s
  | .pcieUncorrectableError => Sys2Proof.Machine.execPcieUncorrectableError s
  | .cxlPortFail port => Sys2Proof.Machine.execCxlPortFail port s
  | .storePerformed core idx => Sys2Proof.Machine.execStorePerformed core idx s
  | .pageWalkComplete core idx => Sys2Proof.Machine.execPageWalkComplete core idx s
  | .hostApertureAccess write acct va bytes => Sys2Proof.Machine.execHostApertureAccess write acct va bytes s
  | .bootDhcpReply addr url => Sys2Proof.Machine.execBootDhcpReply addr url s
  | .objectLoad acct codeVa dataVa file => Sys2Proof.Machine.execObjectLoad acct codeVa dataVa file s
  | .objectUnload obj => Sys2Proof.Machine.execObjectUnload obj s

end Sys2Proof.Machine
end

