-- ==== Sys2Proof/Machine/Step.lean ====
section
/-!
DEFINITION. One step of the machine, and the placing of a word where the next step fetches it.
-/

namespace Sys2Proof.Machine

/-- One step: the course that was chosen executes its instruction; with none chosen, one event happens. -/
def step (s : State) : Host.Outcome State Fault Refusal :=
  match s.front with
  | .done t => .next t
  | .run i t => exec i t

/-- The translation that a loaded program's page has: account 0, the first 64 MiB, release-consistent. -/
def loadTlb : Tlb :=
  { asid := 0, va := 0, large := true, pa := 0, ord := .rc, user := true, writable := true, far := false, cmp := false,
    acct := 0, origin := none }

/-- A launched crew of one bundle of 32 lanes at address 0, of version 3 with 248 registers, 8,192 scratchpad lines and
16 tiles. -/
def loadCrew : Crew :=
  { (default : Crew) with
    ver := 3, nreg := 248, slines := 8192, ntiles := 16, nbundles := 1,
    bundles := [(0, { (default : Bundle) with live := 0xFFFFFFFF, lanes := (List.range 32).map fun l => (l, default) })] }

/-- The instruction stored where the next step fetches (DESIGN CHOICE, assumption 3): house core 0's next course where the form is
privileged, else the first course of a crew that stands for a loaded and placed launch on core 0. -/
def State.withFetchWord (s : State) (nbits w : Nat) : State :=
  let bytes := wordBytes (BitVec.ofNat 128 (w % 2 ^ nbits))
  let priv := ((decodeTableWord nbits w).map Instr.privileged).getD false
  let s1 := { s with mem := s.mem.writeL 0 bytes }
  if priv then { s1 with issue := [⟨768, 0, 0, 1, 0, 0, false⟩] }
  else
    let k := s1.core 0
    { s1.setCore 0 { k with crews := put k.crews 0 loadCrew, tlb := loadTlb :: k.tlb } with
      issue := [⟨0, 0, 0, 0xFFFFFFFF, 0, 0, false⟩] }

end Sys2Proof.Machine
end

