-- ==== Sys2Proof/Safety.lean ====
section
/-!
DEFINITION. What counts as a safe run, and the words that the statements about the machine use: the conditions under
which an instruction executes, and what may differ after it.
-/

namespace Sys2Proof.Machine

/-! ### Safe runs -/

/-- An outcome that goes on. -/
def runsOn (o : Out) : Prop := ∃ t : State, o = .next t

/-- The two byte stores outside a chip are in canonical form: addresses strictly rising, and no entry equal to what an
unlisted address reads as (DESIGN CHOICE, assumption 4). -/
def State.memOk (s : State) : Prop := s.mem.wf = true ∧ s.hostMem.wf = true

/-- A state from which every run of `n` steps goes on with its byte stores in canonical form. -/
def State.safeFor (s : State) : Nat → Prop
  | 0 => s.memOk
  | n + 1 => s.memOk ∧ ∃ t, step s = .next t ∧ State.safeFor t n

/-! ### When an instruction executes -/

/-- Whether an operand names a port. -/
def isPort : Opnd → Bool
  | .q _ | .peek _ => true
  | _ => false

/-- No operand names a port, so that the instruction neither pops nor pushes. -/
def noPorts (x : Args) : Bool := !(isPort x.d || isPort x.a || isPort x.b || isPort x.c)

/-- The elements taken by an instruction that names no port. -/
abbrev noneTaken : Taken := ⟨[], none⟩

/-- The course's crew was placed as a gang, so that its storage is reserved for it (R25): no instruction of it waits for
storage. -/
def State.gangClass (s : State) : Bool := !s.curCrew.byTags

/-- A course of a compute core that issues for the first time, in a bundle that no trap has stopped (R47). -/
def State.fresh (s : State) : Prop := s.cur.core < 768 ∧ s.cur.again = false ∧ (s.bundle s.ref).stopped = none

/-- The newest write to each of some locations happens before operation `n` of a lane, which therefore reads what it left
(R102). -/
def State.knowsNewest (s : State) (b : BRef) (l n : Nat) (cs : List Nat) : Prop :=
  ∀ c ∈ cs, ∀ e, (findD s.vers c []).head? = some e → (s.laneReader b l n).sees e = true

/-- The value of a 32-bit source operand in a lane of the course (R187 to R190). -/
def State.src32 (s : State) (x : Args) (l : Nat) (o : Opnd) : Word := (s.rd s.ref noneTaken x false 1 l o).setWidth 32
/-- The value of a 64-bit source operand; `sgn` says that its literal is sign-extended. -/
def State.src64 (s : State) (x : Args) (sgn : Bool) (l : Nat) (o : Opnd) : DWord := s.rd s.ref noneTaken x sgn 2 l o

/-! ### What an instruction leaves -/

/-- `t` differs from `s` at the course's own place only: in its crew's crew registers, and in the lanes, flags, tags and
FSTAT of its bundle, with what is kept of the cycle of a write of these (R64, R112). -/
def State.atCourse (s t : State) : Prop :=
  ∃ (c : SMap Word) (w : SMap (Nat × Nat)) (bs : SMap Bundle),
    t = s.setCrew s.cur.core s.cur.slot { s.curCrew with c := c, cBy := w, bundles := bs } ∧
    (∀ j, j ≠ s.cur.bundle → find bs j = find s.curCrew.bundles j) ∧
    t.bundle s.ref = { s.bundle s.ref with
      lanes := (t.bundle s.ref).lanes, flags := (t.bundle s.ref).flags, tags := (t.bundle s.ref).tags,
      fstat := (t.bundle s.ref).fstat, raised := (t.bundle s.ref).raised }

/-- Every lane of the course stands at the next word. -/
def State.passed (s t : State) : Prop := ∀ l ∈ s.lanes, (t.lane s.ref l).pc = s.cur.pc + 16

/-- The registers a destination covers. -/
def vDst (i : Instr) (x : Args) (k : Nat) : Bool :=
  match x.d with
  | .v n => decide (n.val ≤ k) && decide (k < n.val + (i.shape.getD default).d.regs)
  | _ => false

/-- The predicates an instruction writes: its destination, and the carry of `IADDC`. -/
def pDst (i : Instr) (x : Args) (p : Fin 8) : Bool :=
  ((i.shape.getD default).d.kind == .predDst && x.d == .p p) || ((i.shape.getD default).c.kind == .pzCarry && x.c == .p p)

/-- The instruction completes, and leaves a 32-bit result in register n of every lane predicated on. -/
def writes32 (s : State) (i : Instr) (x : Args) (n : Nat) (f : Nat → Word) : Prop :=
  ∃ t, exec i s = .next t ∧ s.passed t ∧ ∀ l ∈ s.act x, (t.lane s.ref l).v1 n = f l

/-- The instruction completes, and leaves a 64-bit result in the pair n:n+1 of every lane predicated on. -/
def writes64 (s : State) (i : Instr) (x : Args) (n : Nat) (f : Nat → DWord) : Prop :=
  ∃ t, exec i s = .next t ∧ s.passed t ∧ ∀ l ∈ s.act x, (t.lane s.ref l).v2 n = f l

/-- The instruction completes, and leaves a predicate in every lane predicated on. -/
def writesPred (s : State) (i : Instr) (x : Args) (p : Fin 8) (f : Nat → Bool) : Prop :=
  ∃ t, exec i s = .next t ∧ s.passed t ∧ ∀ l ∈ s.act x, (t.lane s.ref l).pred p = f l

/-- The instructions that compute a result of a lane, or of the lanes of a course, from their sources alone: classes
0x0 to 0x3 and 0x7, but for `NOP` and `TAGGEN`. -/
def laneForm (i : Instr) : Bool :=
  match i.shape with
  | some sh => (sh.opc / 256 ≤ 3 || sh.opc / 256 == 7) && sh.opc != 0 && sh.opc != 0x025
  | none => false

end Sys2Proof.Machine
end

