-- ==== Sys2Proof/Certificates/Slice0/Obligations.lean ====
section
/-!
DEFINITION. The statements about the model.
-/

open Sys2Proof Sys2Proof.Machine

/-! ### Lane instructions (classes 0x0 to 0x3 and 0x7) -/

/-- What a lane instruction leaves as it was: the lanes outside its course, every register and predicate but its destination
in the lanes predicated on, and the crew registers it does not name. -/
def laneFrame (s t : State) (i : Instr) (x : Args) : Prop :=
  (∀ l, l ∉ s.lanes → t.lane s.ref l = s.lane s.ref l) ∧
  (∀ l k, l ∉ s.act x ∨ vDst i x k = false → (t.lane s.ref l).v1 k = (s.lane s.ref l).v1 k) ∧
  (∀ l p, l ∉ s.act x ∨ pDst i x p = false → (t.lane s.ref l).pred p = (s.lane s.ref l).pred p) ∧
  ((∀ n, x.d ≠ .c n) → t.curCrew.c = s.curCrew.c)

/-- Every lane instruction completes in a crew of the gang class when it names no port: the lanes of its course stand at
the next word, and nothing changes but its destination in the lanes predicated on, and the flags, tags and FSTAT of its
bundle.

R26: in a crew of the queued class it completes with the same frame when its core has storage for all that its destination
can take; and where its destination grows and the core has none left, it waits with nothing written. -/
def Obligations.LaneFormsCompleteAndFrame : Prop :=
  (∀ (s : State) (i : Instr) (x : Args), laneForm i = true → i.args = some x → noPorts x = true → s.gangClass = true →
    ∃ t, exec i s = .next t ∧ s.atCourse t ∧ s.passed t ∧ laneFrame s t i x ∧
      (s.cur.again = false → (t.bundle s.ref).flags = (s.bundle s.ref).flags)) ∧
  (∀ (s : State) (i : Instr) (x : Args), laneForm i = true → i.args = some x → noPorts x = true → s.gangClass = false →
    (s.core s.cur.core).rfUse + 1024 ≤ rfBytes →
    ∃ t, exec i s = .next t ∧ s.passed t ∧ t.mem = s.mem ∧ t.curCrew.scratch = s.curCrew.scratch ∧ laneFrame s t i x) ∧
  (∀ (s : State) (r : Rm) (d a : Ty) (x : Args) (v : Fin 248), noPorts x = true → s.gangClass = false → x.d = .v v →
    d.regs = 1 → s.act x ≠ [] → (∀ k < 8, (s.bundle s.ref).tagOf v k = .uniform) → rfBytes ≤ (s.core s.cur.core).rfUse →
    ∃ t, exec (.cvt r d a x) s = .next t ∧ t.mem = s.mem ∧ ∀ l ∈ s.act x, (t.bundle s.ref).waiting l = true ∧
      (t.lane s.ref l).pc = (s.lane s.ref l).pc ∧ ∀ k, (t.lane s.ref l).v1 k = (s.lane s.ref l).v1 k)

/-- R216 at 32 bits: sums, products, negation and absolute value, as arithmetic modulo 2^32 on the bits, and the high
half of a product.

R216 at 64 bits, and `IMADW`.

R216: minimum and maximum at both widths.

R217: the carry in and out of `IADDC` is unsigned for every type and held in a predicate; with p7 the carry in is 1
and the carry out is discarded, with the zero operand the carry in is 0.

R57: division and remainder at both widths; by zero the quotient is all ones and the remainder the dividend, and the
most negative value by -1 gives itself and 0 (so do the results of `BitVec` division that stand here). No integer
instruction raises a flag of FSTAT, and none traps on its values. -/
def Obligations.IntegerArithmetic : Prop :=
  (∀ (s : State) (x : Args) (n : Fin 248) (t : Ty), noPorts x = true → s.gangClass = true → x.d = .v n → t.isInt = true →
     t.regs = 1 →
     let a := fun l => s.src32 x l x.a
     let b := fun l => s.src32 x l x.b
     let c := fun l => s.src32 x l x.c
     writes32 s (.iadd t x) x n (fun l => a l + b l) ∧
     writes32 s (.isub t x) x n (fun l => a l - b l) ∧
     writes32 s (.imul t x) x n (fun l => a l * b l) ∧
     writes32 s (.imad t x) x n (fun l => a l * b l + c l) ∧
     writes32 s (.ineg t x) x n (fun l => 0 - a l) ∧
     writes32 s (.iabs t x) x n (fun l => if (a l).msb then 0 - a l else a l) ∧
     writes32 s (.imulh .s32 x) x n (fun l => (((a l).signExtend 64 * (b l).signExtend 64) >>> 32).setWidth 32) ∧
     writes32 s (.imulh .n32 x) x n (fun l => (((a l).setWidth 64 * (b l).setWidth 64) >>> 32).setWidth 32)) ∧
  (∀ (s : State) (x : Args) (n : Fin 248) (t : Ty), noPorts x = true → s.gangClass = true → x.d = .v n → t.regs = 2 →
     let a := fun l => s.src64 x (litSext t) l x.a
     let b := fun l => s.src64 x (litSext t) l x.b
     let c := fun l => s.src64 x (litSext t) l x.c
     writes64 s (.iadd t x) x n (fun l => a l + b l) ∧
     writes64 s (.isub t x) x n (fun l => a l - b l) ∧
     writes64 s (.imul t x) x n (fun l => a l * b l) ∧
     writes64 s (.imad t x) x n (fun l => a l * b l + c l) ∧
     writes64 s (.ineg t x) x n (fun l => 0 - a l) ∧
     writes64 s (.iabs t x) x n (fun l => if (a l).msb then 0 - a l else a l) ∧
     writes64 s (.imadw .s32 x) x n (fun l =>
       (s.src32 x l x.a).signExtend 64 * (s.src32 x l x.b).signExtend 64 + s.src64 x false l x.c) ∧
     writes64 s (.imadw .n32 x) x n (fun l =>
       (s.src32 x l x.a).setWidth 64 * (s.src32 x l x.b).setWidth 64 + s.src64 x false l x.c)) ∧
  (∀ (s : State) (x : Args) (n : Fin 248), noPorts x = true → s.gangClass = true → x.d = .v n →
     let a := fun l => s.src32 x l x.a
     let b := fun l => s.src32 x l x.b
     writes32 s (.imin .n32 x) x n (fun l => if (a l).ule (b l) then a l else b l) ∧
     writes32 s (.imax .n32 x) x n (fun l => if (b l).ule (a l) then a l else b l) ∧
     writes32 s (.imin .s32 x) x n (fun l => if (a l).sle (b l) then a l else b l) ∧
     writes32 s (.imax .s32 x) x n (fun l => if (b l).sle (a l) then a l else b l) ∧
     let a2 := fun g l => s.src64 x g l x.a
     let b2 := fun g l => s.src64 x g l x.b
     writes64 s (.imin .n64 x) x n (fun l => if (a2 false l).ule (b2 false l) then a2 false l else b2 false l) ∧
     writes64 s (.imax .n64 x) x n (fun l => if (b2 false l).ule (a2 false l) then a2 false l else b2 false l) ∧
     writes64 s (.imin .s64 x) x n (fun l => if (a2 true l).sle (b2 true l) then a2 true l else b2 true l) ∧
     writes64 s (.imax .s64 x) x n (fun l => if (b2 true l).sle (a2 true l) then a2 true l else b2 true l)) ∧
  (∀ (s : State) (x : Args) (n : Fin 248) (t : Ty), noPorts x = true → s.gangClass = true → x.d = .v n → t.isInt = true →
     let cin := fun l =>
       match x.c with
       | .p p => if p = 7 ∨ (s.lane s.ref l).p.getLsbD p then 1 else 0
       | _ => 0
     (t.regs = 1 →
       let full := fun l => (s.src32 x l x.a).toNat + (s.src32 x l x.b).toNat + cin l
       ∃ u, exec (.iaddc t x) s = .next u ∧ s.passed u ∧
         ∀ l ∈ s.act x, (u.lane s.ref l).v1 n = BitVec.ofNat 32 (full l) ∧
           ∀ p : Fin 8, p ≠ 7 →
             (u.lane s.ref l).pred p = if x.c = .p p then decide (2 ^ 32 ≤ full l) else (s.lane s.ref l).pred p) ∧
     (t.regs = 2 →
       let full := fun l => (s.src64 x (litSext t) l x.a).toNat + (s.src64 x (litSext t) l x.b).toNat + cin l
       ∃ u, exec (.iaddc t x) s = .next u ∧ s.passed u ∧
         ∀ l ∈ s.act x, (u.lane s.ref l).v2 n = BitVec.ofNat 64 (full l) ∧
           ∀ p : Fin 8, p ≠ 7 →
             (u.lane s.ref l).pred p = if x.c = .p p then decide (2 ^ 64 ≤ full l) else (s.lane s.ref l).pred p)) ∧
  (∀ (s : State) (x : Args), noPorts x = true → s.gangClass = true →
     (∀ n : Fin 248, x.d = .v n →
       let a := fun l => s.src32 x l x.a
       let b := fun l => s.src32 x l x.b
       let a2 := fun g l => s.src64 x g l x.a
       let b2 := fun g l => s.src64 x g l x.b
       writes32 s (.idiv .n32 x) x n (fun l => if b l = 0 then BitVec.allOnes 32 else a l / b l) ∧
       writes32 s (.irem .n32 x) x n (fun l => if b l = 0 then a l else a l % b l) ∧
       writes32 s (.idiv .s32 x) x n (fun l => if b l = 0 then BitVec.allOnes 32 else (a l).sdiv (b l)) ∧
       writes32 s (.irem .s32 x) x n (fun l => if b l = 0 then a l else (a l).srem (b l)) ∧
       writes64 s (.idiv .n64 x) x n (fun l => if b2 false l = 0 then BitVec.allOnes 64 else a2 false l / b2 false l) ∧
       writes64 s (.irem .n64 x) x n (fun l => if b2 false l = 0 then a2 false l else a2 false l % b2 false l) ∧
       writes64 s (.idiv .s64 x) x n (fun l => if b2 true l = 0 then BitVec.allOnes 64 else (a2 true l).sdiv (b2 true l)) ∧
       writes64 s (.irem .s64 x) x n (fun l => if b2 true l = 0 then a2 true l else (a2 true l).srem (b2 true l))) ∧
     ∀ (i : Instr) (sh : Shape), i.shape = some sh → sh.opc < 0x100 → i.args = some x →
       ∃ t, exec i s = .next t ∧ s.atCourse t ∧ s.passed t ∧ (t.bundle s.ref).fstat = (s.bundle s.ref).fstat)

/-- R218: `ICMP` writes to its predicate the value of its condition. -/
def Obligations.IntegerComparisons : Prop :=
  ∀ (s : State) (x : Args) (p : Fin 8), noPorts x = true → s.gangClass = true → x.d = .p p → p ≠ 7 →
    let a := fun l => s.src32 x l x.a
    let b := fun l => s.src32 x l x.b
    (∀ t : Ty, t.isInt = true → t.regs = 1 →
      writesPred s (.icmp .eq t x) x p (fun l => a l == b l) ∧ writesPred s (.icmp .ne t x) x p (fun l => a l != b l)) ∧
    writesPred s (.icmp .lt .n32 x) x p (fun l => (a l).ult (b l)) ∧
    writesPred s (.icmp .le .n32 x) x p (fun l => (a l).ule (b l)) ∧
    writesPred s (.icmp .gt .n32 x) x p (fun l => (b l).ult (a l)) ∧
    writesPred s (.icmp .ge .n32 x) x p (fun l => (b l).ule (a l)) ∧
    writesPred s (.icmp .lt .s32 x) x p (fun l => (a l).slt (b l)) ∧
    writesPred s (.icmp .le .s32 x) x p (fun l => (a l).sle (b l)) ∧
    writesPred s (.icmp .gt .s32 x) x p (fun l => (b l).slt (a l)) ∧
    writesPred s (.icmp .ge .s32 x) x p (fun l => (b l).sle (a l)) ∧
    let a2 := fun g l => s.src64 x g l x.a
    let b2 := fun g l => s.src64 x g l x.b
    (∀ t : Ty, t.isInt = true → t.regs = 2 →
      writesPred s (.icmp .eq t x) x p (fun l => a2 (litSext t) l == b2 (litSext t) l) ∧
      writesPred s (.icmp .ne t x) x p (fun l => a2 (litSext t) l != b2 (litSext t) l)) ∧
    writesPred s (.icmp .lt .n64 x) x p (fun l => (a2 false l).ult (b2 false l)) ∧
    writesPred s (.icmp .le .n64 x) x p (fun l => (a2 false l).ule (b2 false l)) ∧
    writesPred s (.icmp .gt .n64 x) x p (fun l => (b2 false l).ult (a2 false l)) ∧
    writesPred s (.icmp .ge .n64 x) x p (fun l => (b2 false l).ule (a2 false l)) ∧
    writesPred s (.icmp .lt .s64 x) x p (fun l => (a2 true l).slt (b2 true l)) ∧
    writesPred s (.icmp .le .s64 x) x p (fun l => (a2 true l).sle (b2 true l)) ∧
    writesPred s (.icmp .gt .s64 x) x p (fun l => (b2 true l).slt (a2 true l)) ∧
    writesPred s (.icmp .ge .s64 x) x p (fun l => (b2 true l).sle (a2 true l))

/-- R219: the selection and logic forms operate on all bits, at either width; so does the move (R227).

R220: a shift count is an unsigned 32-bit number and is not reduced modulo the width, but for `ROTL` and
`FUNNEL`. -/
def Obligations.LogicAndShiftForms : Prop :=
  (∀ (s : State) (x : Args) (n : Fin 248) (t : Ty), noPorts x = true → s.gangClass = true → x.d = .v n → t.isInt = true →
     (t.regs = 1 →
       let a := fun l => s.src32 x l x.a
       let b := fun l => s.src32 x l x.b
       writes32 s (.mov t x) x n a ∧
       writes32 s (.andL t x) x n (fun l => a l &&& b l) ∧
       writes32 s (.orL t x) x n (fun l => a l ||| b l) ∧
       writes32 s (.xorL t x) x n (fun l => a l ^^^ b l) ∧
       writes32 s (.andn t x) x n (fun l => a l &&& ~~~(b l)) ∧
       writes32 s (.notL t x) x n (fun l => ~~~(a l)) ∧
       writes32 s (.isel t x) x n (fun l => if s.src32 x l x.c = 0 then b l else a l)) ∧
     (t.regs = 2 →
       let a := fun l => s.src64 x (litSext t) l x.a
       let b := fun l => s.src64 x (litSext t) l x.b
       writes64 s (.mov t x) x n a ∧
       writes64 s (.andL t x) x n (fun l => a l &&& b l) ∧
       writes64 s (.orL t x) x n (fun l => a l ||| b l) ∧
       writes64 s (.xorL t x) x n (fun l => a l ^^^ b l) ∧
       writes64 s (.andn t x) x n (fun l => a l &&& ~~~(b l)) ∧
       writes64 s (.notL t x) x n (fun l => ~~~(a l)) ∧
       writes64 s (.isel t x) x n (fun l => if s.src32 x l x.c = 0 then b l else a l))) ∧
  (∀ (s : State) (x : Args) (n : Fin 248) (t : Ty), noPorts x = true → s.gangClass = true → x.d = .v n → t.isInt = true →
     let k := fun l => (s.src32 x l x.b).toNat
     writes32 s (.funnel x) x n (fun l =>
       ((s.src32 x l x.b ++ s.src32 x l x.a : BitVec 64) >>> ((s.src32 x l x.c).toNat % 32)).setWidth 32) ∧
     (t.regs = 1 →
       let a := fun l => s.src32 x l x.a
       writes32 s (.shl t x) x n (fun l => if k l < 32 then a l <<< k l else 0) ∧
       writes32 s (.shr t x) x n (fun l => if k l < 32 then a l >>> k l else 0) ∧
       writes32 s (.shra t x) x n (fun l =>
         if k l < 32 then (a l).sshiftRight (k l) else if (a l).msb then BitVec.allOnes 32 else 0) ∧
       writes32 s (.rotl t x) x n (fun l => (a l).rotateLeft (k l % 32))) ∧
     (t.regs = 2 →
       let a := fun l => s.src64 x (litSext t) l x.a
       writes64 s (.shl t x) x n (fun l => if k l < 64 then a l <<< k l else 0) ∧
       writes64 s (.shr t x) x n (fun l => if k l < 64 then a l >>> k l else 0) ∧
       writes64 s (.shra t x) x n (fun l =>
         if k l < 64 then (a l).sshiftRight (k l) else if (a l).msb then BitVec.allOnes 64 else 0) ∧
       writes64 s (.rotl t x) x n (fun l => (a l).rotateLeft (k l % 64))))

/-- R221 to R223: the counts, the reversal, the bit fields and the scaled address. -/
def Obligations.BitForms : Prop :=
  ∀ (s : State) (x : Args) (n : Fin 248), noPorts x = true → s.gangClass = true → x.d = .v n →
    let a := fun l => s.src32 x l x.a
    let ctl := fun l => s.src32 x l x.b
    let pos := fun l => (ctl l).toNat % 32
    let len := fun l => min ((ctl l).toNat / 256 % 64) (32 - pos l)
    let mask := fun l => BitVec.ofNat 32 ((2 ^ len l - 1) * 2 ^ pos l)
    (∀ t : Ty, t.isInt = true → t.regs = 1 →
      writes32 s (.popc t x) x n (fun l => BitVec.ofNat 32 ((List.range 32).filter fun i => (a l).getLsbD i).length) ∧
      writes32 s (.clz t x) x n (fun l => BitVec.ofNat 32 (((List.range 32).find? fun i => (a l).getLsbD (31 - i)).getD 32)) ∧
      writes32 s (.ctz t x) x n (fun l => BitVec.ofNat 32 (((List.range 32).find? fun i => (a l).getLsbD i).getD 32)) ∧
      writes32 s (.brev t x) x n (fun l => (a l).reverse)) ∧
    (∀ t : Ty, t.isInt = true → t.regs = 2 →
      let w := fun l => s.src64 x (litSext t) l x.a
      writes32 s (.popc t x) x n (fun l => BitVec.ofNat 32 ((List.range 64).filter fun i => (w l).getLsbD i).length) ∧
      writes32 s (.clz t x) x n (fun l => BitVec.ofNat 32 (((List.range 64).find? fun i => (w l).getLsbD (63 - i)).getD 64)) ∧
      writes32 s (.ctz t x) x n (fun l => BitVec.ofNat 32 (((List.range 64).find? fun i => (w l).getLsbD i).getD 64)) ∧
      writes64 s (.brev t x) x n (fun l => (w l).reverse)) ∧
    writes32 s (.bfx .n32 x) x n (fun l => (a l >>> pos l) &&& BitVec.ofNat 32 (2 ^ len l - 1)) ∧
    writes32 s (.bfx .s32 x) x n (fun l =>
      if len l = 0 then 0 else ((a l) <<< (32 - len l - pos l)).sshiftRight (32 - len l)) ∧
    writes32 s (.bfi x) x n (fun l => (s.src32 x l x.c &&& ~~~(mask l)) ||| ((a l <<< pos l) &&& mask l)) ∧
    ∀ sh : Fin 16,
      writes64 s (.lea sh .n32 x) x n (fun l => s.src64 x false l x.a + ((ctl l).setWidth 64 <<< sh.val)) ∧
      writes64 s (.lea sh .s32 x) x n (fun l => s.src64 x false l x.a + ((ctl l).signExtend 64 <<< sh.val))

/-- R224 and R225: `PLOP` is any function of three predicates, and `PMOV` packs the eight predicates into a register, p7
reading 1, or unpacks one bit.

R21, R22 and R226: `GETTAG` reads the tag of a register in the lane's slice, as it stands before the instruction
writes; `TAGGEN` makes a register general in every slice it touches, and changes no value.

R227: `NOP` has no effect beyond its STALL and its flag marks. -/
def Obligations.PredicateAndTagForms : Prop :=
  (∀ (s : State) (x : Args), noPorts x = true → s.gangClass = true →
     (∀ (p : Fin 8) (tt : Byte), x.d = .p p → p ≠ 7 →
       let bit := fun l (o : Opnd) => match o with
         | .p q => (s.lane s.ref l).pred q
         | _ => false
       writesPred s (.plop tt x) x p (fun l =>
         tt.getLsbD ((if bit l x.a then 4 else 0) + (if bit l x.b then 2 else 0) + (if bit l x.c then 1 else 0))) ∧
       writesPred s (.pmovUnpack x) x p (fun l => (s.src32 x l x.a).getLsbD ((s.src32 x l x.b).toNat % 32))) ∧
     (∀ n : Fin 248, x.d = .v n → writes32 s (.pmovPack x) x n (fun l => (((s.lane s.ref l).p ||| 0x80).setWidth 32)))) ∧
  (∀ (s : State) (x : Args) (n : Fin 248), noPorts x = true → s.gangClass = true →
     (∀ k : Fin 248, x.d = .v n → x.a = .v k →
       writes32 s (.gettag x) x n (fun l =>
         match (s.bundle s.ref).tag k (l / 4) with
         | .uniform => 0
         | .affine => 1
         | .general => 2)) ∧
     (x.d = .v n → ∃ t, exec (.taggen x) s = .next t ∧ s.atCourse t ∧ s.passed t ∧
       (∀ l ∈ s.act x, (t.bundle s.ref).tag n (l / 4) = .general) ∧
       ∀ l k, (t.lane s.ref l).v1 k = (s.lane s.ref l).v1 k)) ∧
  (∀ (s : State) (x : Args), ∃ t, exec (.nop x) s = .next t ∧ s.atCourse t ∧ s.passed t ∧
     t.curCrew.c = s.curCrew.c ∧ (t.bundle s.ref).tags = (s.bundle s.ref).tags ∧
     (t.bundle s.ref).fstat = (s.bundle s.ref).fstat ∧
     ∀ l, t.lane s.ref l = { s.lane s.ref l with pc := (t.lane s.ref l).pc, hold := (t.lane s.ref l).hold })

/-- R187 to R190, R13 and R20: what an operand code reads.

R189: a crew register as destination takes the value of the highest-numbered lane predicated on, and nothing when no
lane is.

R112: of the writes of a crew register in one cycle the value of the highest-numbered bundle remains. -/
def Obligations.OperandsAndDestinations : Prop :=
  (∀ (s : State) (x : Args) (l : Nat),
     (∀ n : Fin 248, s.src32 x l (.v n) = (s.lane s.ref l).v1 n ∧
       ∀ g, s.src64 x g l (.v n) = (s.lane s.ref l).v1 (n.val + 1) ++ (s.lane s.ref l).v1 n) ∧
     (∀ n : Fin 16, s.src32 x l (.c n) = s.curCrew.c1 n ∧
       ∀ g, s.src64 x g l (.c n) = s.curCrew.c1 (n.val + 1) ++ s.curCrew.c1 n) ∧
     (∀ p : Fin 8, s.src32 x l (.p p) = if p = 7 ∨ (s.lane s.ref l).p.getLsbD p then 1 else 0) ∧
     s.src32 x l .imm = x.lit ∧ s.src64 x true l .imm = x.lit.signExtend 64 ∧ s.src64 x false l .imm = x.lit.setWidth 64 ∧
     s.src32 x l .zero = 0 ∧ (∀ g, s.src64 x g l .zero = 0) ∧
     (∀ k g, s.src64 x g l (.special k) = (s.src32 x l (.special k)).setWidth 64) ∧
     s.src32 x l (.special .lane) = BitVec.ofNat 32 l ∧ s.src32 x l (.special .slice) = BitVec.ofNat 32 (l / 4) ∧
     s.src32 x l (.special .core) = BitVec.ofNat 32 s.cur.core ∧
     s.src32 x l (.special .grank) = BitVec.ofNat 32 s.curCrew.grank) ∧
  (∀ (s : State) (x : Args) (n : Fin 16) (t : Ty), noPorts x = true → s.gangClass = true → x.d = .c n → t.isInt = true →
     t.regs = 1 →
     ∃ u, exec (.mov t x) s = .next u ∧ s.passed u ∧
       (s.act x = [] → u.curCrew.c = s.curCrew.c) ∧
       let prior := find s.curCrew.cBy n
       (∀ l, (s.act x).getLast? = some l →
         u.curCrew.c1 n = (if prior.any fun e => e.1 == (s.core s.cur.core).cyc && decide (s.cur.bundle < e.2)
           then s.curCrew.c1 n else s.src32 x l x.a) ∧
         ∀ m : Nat, m ≠ n → u.curCrew.c1 m = s.curCrew.c1 m))

/-- Whether bits are an FP32 NaN. -/
def isNan32 (w : Word) : Bool := decide (0x7F800000#32 < (w &&& 0x7FFFFFFF#32))

/-- R61 and R229: `FABS` clears the sign bit and `FNEG` inverts it, whatever the bits are, and neither raises a flag.

R62: `FMIN` and `FMAX` order -0 below +0, return the other operand beside one NaN, and the canonical NaN for two.

R230: `FCMP` at FP32: -0 equals +0, and every condition but `.ne` and `.un` is false beside a NaN.

R231: `FCLASS` writes a mask with exactly one bit set, by Table 13-6, and raises no flag. -/
def Obligations.FloatComparisons : Prop :=
  (∀ (s : State) (x : Args) (n : Fin 248), noPorts x = true → s.gangClass = true → x.d = .v n →
     writes32 s (.fabs .f32 x) x n (fun l => s.src32 x l x.a &&& 0x7FFFFFFF) ∧
     writes32 s (.fneg .f32 x) x n (fun l => s.src32 x l x.a ^^^ 0x80000000) ∧
     (∀ t : Ty, t = .f16 ∨ t = .bf16 →
       writes32 s (.fabs t x) x n (fun l => s.src32 x l x.a &&& 0x7FFF) ∧
       writes32 s (.fneg t x) x n (fun l => (s.src32 x l x.a ^^^ 0x8000) &&& 0xFFFF)) ∧
     ∀ (t : Ty) (u : State), (exec (.fabs t x) s = .next u ∨ exec (.fneg t x) s = .next u) →
       (u.bundle s.ref).fstat = (s.bundle s.ref).fstat) ∧
  (∀ (s : State) (x : Args) (n : Fin 248), noPorts x = true → s.gangClass = true → x.d = .v n →
     let a := fun l => s.src32 x l x.a
     let b := fun l => s.src32 x l x.b
     let key := fun w : Word => if w.msb then -((w &&& 0x7FFFFFFF).toNat : Int) - 1 else (w.toNat : Int)
     let pick := fun (less : Bool) l =>
       if isNan32 (a l) && isNan32 (b l) then 0x7FC00000#32
       else if isNan32 (a l) then b l
       else if isNan32 (b l) then a l
       else if (decide (key (a l) < key (b l))) == less then a l else b l
     writes32 s (.fmin .f32 x) x n (pick true) ∧ writes32 s (.fmax .f32 x) x n (pick false)) ∧
  (∀ (s : State) (x : Args) (p : Fin 8), noPorts x = true → s.gangClass = true → x.d = .p p → p ≠ 7 →
     let a := fun l => s.src32 x l x.a
     let b := fun l => s.src32 x l x.b
     let un := fun l => isNan32 (a l) || isNan32 (b l)
     let key := fun w : Word => if w.msb then -((w &&& 0x7FFFFFFF).toNat : Int) else (w.toNat : Int)
     writesPred s (.fcmp .eq .f32 x) x p (fun l => !un l && decide (key (a l) = key (b l))) ∧
     writesPred s (.fcmp .ne .f32 x) x p (fun l => un l || decide (key (a l) ≠ key (b l))) ∧
     writesPred s (.fcmp .lt .f32 x) x p (fun l => !un l && decide (key (a l) < key (b l))) ∧
     writesPred s (.fcmp .le .f32 x) x p (fun l => !un l && decide (key (a l) ≤ key (b l))) ∧
     writesPred s (.fcmp .gt .f32 x) x p (fun l => !un l && decide (key (b l) < key (a l))) ∧
     writesPred s (.fcmp .ge .f32 x) x p (fun l => !un l && decide (key (b l) ≤ key (a l))) ∧
     writesPred s (.fcmp .un .f32 x) x p un ∧ writesPred s (.fcmp .ord .f32 x) x p (fun l => !un l)) ∧
  (∀ (s : State) (x : Args) (n : Fin 248), noPorts x = true → s.gangClass = true → x.d = .v n →
     (∀ u, exec (.fclass x) s = .next u → (u.bundle s.ref).fstat = (s.bundle s.ref).fstat) ∧
     writes32 s (.fclass x) x n (fun l =>
       let w := s.src32 x l x.a
       let m := w &&& 0x7FFFFFFF#32
       if isNan32 w then (if w.getLsbD 22 then 0x002 else 0x001)
       else if m = 0x7F800000#32 then (if w.msb then 0x004 else 0x200)
       else if m = 0 then (if w.msb then 0x020 else 0x040)
       else if m < 0x00800000#32 then (if w.msb then 0x010 else 0x080)
       else (if w.msb then 0x008 else 0x100)))

/-- R61: with a NaN among its sources an FP32 sum, difference, product or fused product is the canonical quiet NaN in every
rounding mode. R65 and R233: each element of a pair takes the canonical NaN by its own sources, whatever the other element
is; and `FDOT2` of a NaN addend is the canonical FP32 NaN.

R63 and R64: FSTAT is sticky under every lane instruction, a course with every lane predicated off raises nothing, and
Inf - Inf raises NV with the canonical NaN as its result.

R228: an FP32 sum does not depend on the order of its operands, in any rounding mode. -/
def Obligations.FloatNansAndFlags : Prop :=
  (∀ (s : State) (x : Args) (n : Fin 248) (r : Rm), noPorts x = true → s.gangClass = true → x.d = .v n →
     (∀ l ∈ s.act x, isNan32 (s.src32 x l x.a) = true ∨ isNan32 (s.src32 x l x.b) = true) →
     writes32 s (.fadd r .f32 x) x n (fun _ => 0x7FC00000) ∧
     writes32 s (.fsub r .f32 x) x n (fun _ => 0x7FC00000) ∧
     writes32 s (.fmul r .f32 x) x n (fun _ => 0x7FC00000) ∧
     writes32 s (.ffma r .f32 x) x n (fun _ => 0x7FC00000)) ∧
  ((∀ (s t : State) (i : Instr) (x : Args), laneForm i = true → i.args = some x → noPorts x = true → s.gangClass = true →
     exec i s = .next t → ((t.bundle s.ref).fstat &&& (s.bundle s.ref).fstat) = (s.bundle s.ref).fstat) ∧
   (∀ (s : State) (r : Rm) (x : Args), noPorts x = true → s.gangClass = true → s.act x = [] →
     ∃ t, exec (.fadd r .f32 x) s = .next t ∧ s.passed t ∧ (t.bundle s.ref).fstat = (s.bundle s.ref).fstat) ∧
   (∀ (s : State) (r : Rm) (x : Args) (n : Fin 248), noPorts x = true → s.gangClass = true → x.d = .v n → s.act x ≠ [] →
     (∀ l ∈ s.act x, s.src32 x l x.a = 0x7F800000 ∧ s.src32 x l x.b = 0xFF800000) →
     ∃ t, exec (.fadd r .f32 x) s = .next t ∧ s.passed t ∧ (t.bundle s.ref).fstat.getLsbD 4 = true ∧
       ∀ l ∈ s.act x, (t.lane s.ref l).v1 n = 0x7FC00000)) ∧
  (∀ (s : State) (x : Args) (n : Fin 248) (r : Rm), noPorts x = true → s.gangClass = true → x.d = .v n →
     ∃ t u, exec (.fadd r .f32 x) s = .next t ∧ exec (.fadd r .f32 { x with a := x.b, b := x.a }) s = .next u ∧
       s.passed t ∧ s.passed u ∧ ∀ l ∈ s.act x, (t.lane s.ref l).v1 n = (u.lane s.ref l).v1 n) ∧
  (∀ (s : State) (x : Args) (n : Fin 248) (r : Rm), noPorts x = true → s.gangClass = true → x.d = .v n →
     let a := fun l => s.src32 x l x.a
     let b := fun l => s.src32 x l x.b
     ((∀ l ∈ s.act x, isNan32 (a l <<< 16) = true ∨ isNan32 (b l <<< 16) = true) →
       ∀ i, (i = .hadd2 r .bf16x2 x ∨ i = .hmul2 r .bf16x2 x ∨ i = .hfma2 r .bf16x2 x) →
         ∃ t, exec i s = .next t ∧ s.passed t ∧ ∀ l ∈ s.act x, ((t.lane s.ref l).v1 n).extractLsb' 0 16 = 0x7FC0#16) ∧
     ((∀ l ∈ s.act x, isNan32 (a l &&& 0xFFFF0000) = true ∨ isNan32 (b l &&& 0xFFFF0000) = true) →
       ∀ i, (i = .hadd2 r .bf16x2 x ∨ i = .hmul2 r .bf16x2 x ∨ i = .hfma2 r .bf16x2 x) →
         ∃ t, exec i s = .next t ∧ s.passed t ∧ ∀ l ∈ s.act x, ((t.lane s.ref l).v1 n).extractLsb' 16 16 = 0x7FC0#16) ∧
     ((∀ l ∈ s.act x, isNan32 (s.src32 x l x.c) = true) → writes32 s (.fdot2 r .bf16x2 x) x n (fun _ => 0x7FC00000) ∧
       writes32 s (.fdot2 r .f16x2 x) x n (fun _ => 0x7FC00000)))

/-- R232 to R235: conversions that saturate or keep bits, and the exact conversions of pairs. -/
def Obligations.ConversionForms : Prop :=
  ∀ (s : State) (x : Args) (n : Fin 248) (r : Rm), noPorts x = true → s.gangClass = true → x.d = .v n →
    let a := fun l => s.src32 x l x.a
    writes32 s (.cvt r .s8 .s32 x) x n (fun l => BitVec.ofInt 32 (max (-128) (min 127 (a l).toInt))) ∧
    writes32 s (.cvt r .n8 .s32 x) x n (fun l => BitVec.ofInt 32 (max 0 (min 255 (a l).toInt))) ∧
    writes32 s (.cvt r .s32 .s16 x) x n (fun l => ((a l).setWidth 16).signExtend 32) ∧
    writes32 s (.cvt r .b32 .b64 x) x n (fun l => (s.src64 x false l x.a).setWidth 32) ∧
    ((∀ l ∈ s.act x, isNan32 (a l) = true) → writes32 s (.cvt r .s32 .f32 x) x n (fun _ => 0)) ∧
    ((∀ l ∈ s.act x, a l = 0x7F800000) → writes32 s (.cvt r .s32 .f32 x) x n (fun _ => 0x7FFFFFFF)) ∧
    ((∀ l ∈ s.act x, a l = 0xFF800000) → writes32 s (.cvt r .n32 .f32 x) x n (fun _ => 0)) ∧
    ((∀ l ∈ s.act x, isNan32 ((a l) <<< 16) = false ∧ isNan32 (a l) = false) →
      writes64 s (.unpack2 .bf16x2 x) x n (fun l => (a l &&& 0xFFFF0000#32) ++ (a l <<< 16))) ∧
    (let b := fun l => s.src32 x l x.b
     (∀ l ∈ s.act x, (a l).setWidth 16 = 0 ∧ (b l).setWidth 16 = 0 ∧ isNan32 (a l) = false ∧ isNan32 (b l) = false) →
      writes32 s (.pack2 r .bf16x2 x) x n (fun l => b l ||| (a l >>> 16))) ∧
    ((∀ l ∈ s.act x, isNan32 (a l) = true) → writes32 s (.frnd r x) x n (fun _ => 0x7FC00000)) ∧
    ((∀ l ∈ s.act x, a l = 0x80000000) → writes32 s (.fscale r x) x n (fun _ => 0x80000000))

/-- R68 and R69: the special functions at zeros and infinities (Tables 03-3 and 03-4). -/
def Obligations.SpecialFunctionInputs : Prop :=
  ∀ (s : State) (x : Args) (n : Fin 248) (a : Word), noPorts x = true → s.gangClass = true → x.d = .v n →
    (∀ l ∈ s.act x, s.src32 x l x.a = a) →
    let gives := fun i (v : Word) => writes32 s i x n (fun _ => v)
    let nan := 0x7FC00000#32
    let inf := 0x7F800000#32
    let minf := 0xFF800000#32
    let one := 0x3F800000#32
    (a = minf → gives (.sqrt x) nan ∧ gives (.rsq x) nan ∧ gives (.ex2 x) 0 ∧ gives (.lg2 x) nan ∧ gives (.sin x) nan ∧
      gives (.cos x) nan ∧ gives (.tanh x) 0xBF800000 ∧ gives (.rcp x) 0x80000000) ∧
    (a = 0x80000000 → gives (.sqrt x) 0x80000000 ∧ gives (.rsq x) minf ∧ gives (.ex2 x) one ∧ gives (.lg2 x) minf ∧
      gives (.sin x) 0x80000000 ∧ gives (.cos x) one ∧ gives (.tanh x) 0x80000000 ∧ gives (.rcp x) minf) ∧
    (a = 0 → gives (.sqrt x) 0 ∧ gives (.rsq x) inf ∧ gives (.ex2 x) one ∧ gives (.lg2 x) minf ∧ gives (.sin x) 0 ∧
      gives (.cos x) one ∧ gives (.tanh x) 0 ∧ gives (.rcp x) inf) ∧
    (a = inf → gives (.sqrt x) inf ∧ gives (.rsq x) 0 ∧ gives (.ex2 x) inf ∧ gives (.lg2 x) inf ∧ gives (.sin x) nan ∧
      gives (.cos x) nan ∧ gives (.tanh x) one ∧ gives (.rcp x) 0) ∧
    (isNan32 a = true → gives (.sqrt x) nan ∧ gives (.rsq x) nan ∧ gives (.ex2 x) nan ∧ gives (.lg2 x) nan ∧
      gives (.sin x) nan ∧ gives (.cos x) nan ∧ gives (.tanh x) nan ∧ gives (.rcp x) nan)

/-- R74, R236 and R238: the flips of a block index, with [31:16] zero, and the words of a block that `QBLK` leaves at zero
(Table 13-9). R239: `DQBLK` of a NaN block gives its group the canonical NaN. R75 and R237: a NaN that any lane of a group
supplies to `HAD16` makes every result of the group the canonical NaN. -/
def Obligations.BlockForms : Prop :=
  ∀ (s : State) (x : Args) (n : Fin 248), noPorts x = true → s.gangClass = true → x.d = .v n →
    writes32 s (.seedflip x) x n (fun l =>
      let y := s.src32 x l x.a ^^^ (s.src32 x l x.b * 0x2545F491)
      let y := y ^^^ (y >>> 15)
      let y := y * 0x2C1B3C6D
      (y ^^^ (y >>> 12)) &&& 0xFFFF) ∧
    (∀ f : Bf, ∃ t, exec (.qblk f x) s = .next t ∧ s.passed t ∧
      ∀ l ∈ s.act x, (match f with
        | .sb3 => 2
        | .sb5 => 3
        | .sb8 => 5) ≤ l % 16 → (t.lane s.ref l).v1 n = 0) ∧
    (∀ f : Bf, ∃ t, exec (.dqblk f x) s = .next t ∧ s.passed t ∧
      ∀ l ∈ s.act x, 16 * (l / 16) ∈ s.act x → (s.src32 x (16 * (l / 16)) x.a).setWidth 8 = 0xFF#8 →
        (t.lane s.ref l).v1 n = 0x7FC00000) ∧
    ∃ t, exec (.had16 x) s = .next t ∧ s.passed t ∧
      ∀ l ∈ s.act x, ∀ m ∈ s.act x, m / 16 = l / 16 → isNan32 (s.src32 x m x.a) = true →
        (t.lane s.ref l).v1 n = 0x7FC00000

/-! ### Cross-lane (class 0x7) -/

/-- R268 to R271: votes, ballots, shuffles and broadcasts over the lanes that take part. -/
def Obligations.CrossLaneForms : Prop :=
  ∀ (s : State) (x : Args), noPorts x = true → s.gangClass = true →
    let a := fun l => s.src32 x l x.a
    let mask := fun p => maskOf ((s.act x).filter p)
    (∀ n : Fin 248, x.d = .v n →
      writes32 s (.ballot x) x n (fun _ => mask fun l => a l != 0) ∧
      writes32 s (.actmask x) x n (fun _ => s.cur.mask) ∧
      writes32 s (.matchL .b32 x) x n (fun l => mask fun m => a m == a l) ∧
      writes32 s (.shfl .idx .b32 x) x n (fun l =>
        let j := (s.src32 x l x.b).toNat
        if j ∈ s.act x then a j else a l) ∧
      writes32 s (.shfl .xor .b32 x) x n (fun l =>
        let j := l ^^^ (s.src32 x l x.b).toNat
        if j ∈ s.act x then a j else a l) ∧
      writes32 s (.shfl .up .b32 x) x n (fun l =>
        let k := (s.src32 x l x.b).toNat
        if k ≤ l ∧ l - k ∈ s.act x then a (l - k) else a l) ∧
      writes32 s (.shfl .down .b32 x) x n (fun l =>
        let j := l + (s.src32 x l x.b).toNat
        if j ∈ s.act x then a j else a l) ∧
      (∀ m, (s.act x).head? = some m → writes32 s (.bcast .b32 x) x n (fun _ =>
        let j := (s.src32 x m x.b).toNat
        if j ∈ s.act x then a j else a m)) ∧
      let w := fun l => s.src64 x true l x.a
      let from2 := fun (i : Int) l => if 0 ≤ i ∧ i.toNat ∈ s.act x then w i.toNat else w l
      let b := fun l => (s.src32 x l x.b).toNat
      writes32 s (.matchL .b64 x) x n (fun l => mask fun m => w m == w l) ∧
      writes64 s (.shfl .idx .b64 x) x n (fun l => from2 (b l) l) ∧
      writes64 s (.shfl .xor .b64 x) x n (fun l => from2 ((l ^^^ b l : Nat) : Int) l) ∧
      writes64 s (.shfl .up .b64 x) x n (fun l => from2 ((l : Int) - b l) l) ∧
      writes64 s (.shfl .down .b64 x) x n (fun l => from2 ((l : Int) + b l) l) ∧
      ∀ m, (s.act x).head? = some m → writes64 s (.bcast .b64 x) x n (fun _ => if b m ∈ s.act x then w (b m) else w m)) ∧
    (∀ p : Fin 8, x.d = .p p → p ≠ 7 →
      writesPred s (.vote .all x) x p (fun _ => (s.act x).all fun l => a l != 0) ∧
      writesPred s (.vote .any x) x p (fun _ => (s.act x).any fun l => a l != 0) ∧
      writesPred s (.vote .uni x) x p (fun _ => (s.act x).all fun l => (s.act x).all fun m => a l == a m))

/-- R272: an integer reduction gives every lane that takes part the combination of all of them, and a scan the combination
of the lanes up to it, or below it for an exclusive one, whose first lane gets the identity. -/
def Obligations.ReductionsAndScans : Prop :=
  ∀ (s : State) (x : Args) (n : Fin 248) (t : Ty), noPorts x = true → s.gangClass = true → x.d = .v n →
    t = .s32 ∨ t = .n32 →
    let sum := fun (ls : List Nat) => ls.foldl (fun (r : Word) l => r + s.src32 x l x.a) 0
    let union := fun (ls : List Nat) => ls.foldl (fun (r : Word) l => r ||| s.src32 x l x.a) 0
    let below := fun l => (s.act x).filter fun m => decide (m < l)
    let upTo := fun l => (s.act x).filter fun m => decide (m ≤ l)
    writes32 s (.redb .add t x) x n (fun _ => sum (s.act x)) ∧
    writes32 s (.redb .or t x) x n (fun _ => union (s.act x)) ∧
    writes32 s (.scanb .add t false x) x n (fun l => sum (upTo l)) ∧
    writes32 s (.scanb .add t true x) x n (fun l => sum (below l)) ∧
    writes32 s (.scanb .or t true x) x n (fun l => union (below l))

/-! ### Control (class 0x4) -/

/-- What a compute core's trap leaves: the bundle stopped with the trap's record, and its registers, predicates, weight
and tags, the crew registers and the scratchpad as they were (R47, R52). -/
def stopsAt (s t : State) (lanes : Word) (info : TrapInfo) : Prop :=
  (t.bundle s.ref).stopped = some ⟨s.cur.pc, lanes, s.cur.mask, info⟩ ∧
  (∀ l k p, (t.lane s.ref l).v1 k = (s.lane s.ref l).v1 k ∧ (t.lane s.ref l).pred p = (s.lane s.ref l).pred p ∧
    (t.lane s.ref l).wt = (s.lane s.ref l).wt) ∧
  (t.bundle s.ref).tags = (s.bundle s.ref).tags ∧ t.curCrew.c = s.curCrew.c ∧ t.curCrew.scratch = s.curCrew.scratch

/-- The same, of an instruction that has read nothing of memory: nothing else of the bundle changes. -/
def stopsWith (s t : State) (lanes : Word) (info : TrapInfo) : Prop :=
  stopsAt s t lanes info ∧ ((s.bundle s.ref).parked = [] →
    t.bundle s.ref = { s.bundle s.ref with stopped := some ⟨s.cur.pc, lanes, s.cur.mask, info⟩ })

/-- The 8-byte words of a scratchpad after a write of bytes: a word the bytes touch makes its match check once (R88), and
every other word is as it was. -/
def wroteScratch (m m' : Mem) (ea : Nat) (bs : List Byte) : Prop :=
  ∀ q, m'.readNat (8 * q) 8 =
    if ea < 8 * q + 8 ∧ 8 * q < ea + bs.length then rwMatch ((m.writeL ea bs).readNat (8 * q) 8) else m.readNat (8 * q) 8

/-- R243: a branch sets a new PC in each lane predicated on, every other lane of the course goes on at the next word, and
nothing else changes; `BRX` when its targets are multiples of 16, which agree when it is convergent.

R186, R244 and R23: an indirect branch to a target that is not a multiple of 16 traps ALIGN with the target in TINFO0,
and a convergent one whose lanes disagree traps FMTDIV with the lowest lane's target; no lane branches.

R245 and R246: a call with room on the call stack makes its lanes one deeper and takes them to the target, and one call of
a lane leaves its return address in its slot; a return takes a lane that knows the newest bytes of its slot to the address
there, and makes it one shallower.

R245 and R246: a call at depth 64 traps STACK with 0 in TINFO0, and a return at depth 0 with 2; nothing is stored. -/
def Obligations.BranchesAndCalls : Prop :=
  (∀ (s : State) (x : Args),
     let goes := fun (i : Instr) (target : Nat → DWord) => ∃ t, exec i s = .next t ∧ s.atCourse t ∧
       t.curCrew.c = s.curCrew.c ∧ (t.bundle s.ref).tags = (s.bundle s.ref).tags ∧
       (∀ l ∈ s.act x, (t.lane s.ref l).pc = target l) ∧
       (∀ l ∈ s.lanes, l ∉ s.act x → (t.lane s.ref l).pc = s.cur.pc + 16) ∧
       ∀ l k p, (t.lane s.ref l).v1 k = (s.lane s.ref l).v1 k ∧ (t.lane s.ref l).pred p = (s.lane s.ref l).pred p
     (∀ disp : Word, goes (.bra disp x) (fun _ => s.cur.pc + disp.signExtend 64)) ∧
     ((∀ l ∈ s.act x, (s.src64 x false l x.a).toNat % 16 = 0) → goes (.brx false x) (fun l => s.src64 x false l x.a)) ∧
     ∀ a : DWord, (∀ l ∈ s.lanes, s.src64 x false l x.a = a) → a.toNat % 16 = 0 →
       goes (.brx true x) (fun _ => a)) ∧
  (∀ (s : State) (x : Args) (l : Nat), s.fresh → (s.act x).head? = some l →
     let a := s.src64 x false l x.a
     (s.act x = [l] → a.toNat % 16 ≠ 0 → ∃ t, exec (.brx false x) s = .next t ∧
       stopsWith s t (maskOf [l]) ⟨4, a.setWidth 32, 0, BitVec.ofNat 32 (a.toNat / 2 ^ 32 % 2 ^ 24), 0⟩) ∧
     (∀ m ∈ s.act x, s.src64 x false m x.a ≠ a → ∃ t, exec (.brx true x) s = .next t ∧
       stopsWith s t (maskOf (s.act x)) ⟨7, 2, 0, a.setWidth 32, (a >>> 32).setWidth 32⟩)) ∧
  (∀ (s : State) (x : Args), (s.core s.cur.core).pend = [] →
     let k := s.curCrew
     let slot := fun l d => k.slines * 128 - 256 * k.nbundles * (d + 1) + 8 * (32 * s.cur.bundle + l)
     let clear := fun l d (bad : LineSt → Bool) => ∀ n ∈ linesTouched (slot l d) 8, bad (s.line s.cur.core s.cur.slot n) = false
     ((∀ l ∈ s.act x, (s.lane s.ref l).cd < 64 ∧ 256 * k.nbundles * ((s.lane s.ref l).cd + 1) ≤ k.slines * 128 ∧
         clear l (s.lane s.ref l).cd (· == .poisoned)) →
       (∀ disp : Word, ∃ t, exec (.call disp x) s = .next t ∧
         (∀ l ∈ s.act x, (t.lane s.ref l).cd = (s.lane s.ref l).cd + 1 ∧ (t.lane s.ref l).pc = s.cur.pc + disp.signExtend 64) ∧
         ∀ l, s.act x = [l] → s.hasCrew s.cur.core s.cur.slot = true →
           wroteScratch k.scratch t.curCrew.scratch (slot l (s.lane s.ref l).cd) (leBytes (s.cur.pc + 16).toNat 8)) ∧
       ((∀ l ∈ s.act x, (s.src64 x false l x.a).toNat % 16 = 0) → ∃ t, exec (.callx false x) s = .next t ∧
         ∀ l ∈ s.act x, (t.lane s.ref l).cd = (s.lane s.ref l).cd + 1 ∧ (t.lane s.ref l).pc = s.src64 x false l x.a)) ∧
     ((∀ l ∈ s.act x, 0 < (s.lane s.ref l).cd ∧ clear l ((s.lane s.ref l).cd - 1) (fun st => st != .full) ∧
         (s.scr s.cur.core s.cur.slot).readNat (slot l ((s.lane s.ref l).cd - 1)) 8 % 16 = 0 ∧
         s.knowsNewest s.ref l s.opSeq ((List.range 8).map fun i =>
           s.scrCell s.cur.core s.cur.slot (slot l ((s.lane s.ref l).cd - 1) + i))) →
       ∃ t, exec (.ret x) s = .next t ∧ s.atCourse t ∧ ∀ l ∈ s.act x,
         (t.lane s.ref l).cd = (s.lane s.ref l).cd - 1 ∧
         (t.lane s.ref l).pc = BitVec.ofNat 64 ((s.scr s.cur.core s.cur.slot).readNat (slot l ((s.lane s.ref l).cd - 1)) 8))) ∧
  (∀ (s : State) (x : Args) (l : Nat), s.fresh → s.act x = [l] →
     (∀ disp : Word, (s.lane s.ref l).cd = 64 → ∃ t, exec (.call disp x) s = .next t ∧
       stopsWith s t (maskOf [l]) ⟨0x12, 0, 0, 0, 0⟩) ∧
     ((s.lane s.ref l).cd = 0 → ∃ t, exec (.ret x) s = .next t ∧
       stopsWith s t (maskOf [l]) ⟨0x12, 2, 0, 0, 0⟩))

/-- R41 and R247: a `JOIN` at which the whole live set stands releases it at once, and one that part of the live set has
reached parks the lanes predicated on at the `JOIN`'s own address.

R42, R131 and R247: `EXIT` takes the lanes predicated on out of the live set, and the weight of each goes to its
bundle's return sums.

R248: `SLEEP n` puts each lane predicated on to sleep until max(n, 1) core cycles have passed, when `SLEEP_EXPIRE`
takes it to the next word. -/
def Obligations.JoinExitAndSleep : Prop :=
  (∀ (s : State) (x : Args), s.cur.again = false → (s.bundle s.ref).parked = [] →
     (s.act x = lanesOf (s.bundle s.ref).live → s.act x ≠ [] →
       ∃ t, exec (.join x) s = .next t ∧ s.passed t ∧ (t.bundle s.ref).parked = []) ∧
     (∀ m ∈ lanesOf (s.bundle s.ref).live, m ∉ s.act x →
       ∃ t, exec (.join x) s = .next t ∧
         (∀ l ∈ s.act x, (t.bundle s.ref).waiting l = true ∧ (t.lane s.ref l).pc = s.cur.pc) ∧
         ∀ l ∈ s.lanes, l ∉ s.act x → (t.bundle s.ref).waiting l = false ∧ (t.lane s.ref l).pc = s.cur.pc + 16)) ∧
  (∀ (s : State) (x : Args), s.curCrew.barriers = [] → s.curCrew.gang = none →
     ∃ t, exec (.exitL x) s = .next t ∧
       (∀ l < 32, (t.bundle s.ref).live.getLsbD l = ((s.bundle s.ref).live.getLsbD l && !(s.act x).contains l)) ∧
       (∀ l ∈ s.act x, (t.lane s.ref l).wt = 0) ∧
       ∀ l, s.act x = [l] → findD (t.bundle s.ref).rsums (s.lane s.ref l).wd.toNat 0 =
         findD (s.bundle s.ref).rsums (s.lane s.ref l).wd.toNat 0 + (s.lane s.ref l).wt.toNat) ∧
  ((∀ (s : State) (n : Word) (x : Args), s.cur.again = false → (s.bundle s.ref).parked = [] → s.act x ≠ [] →
     ∃ t, exec (.sleep n x) s = .next t ∧
       (t.bundle s.ref).parked = [⟨s.cur.pc, (s.act x).map fun l => (l, .sleep ((s.core s.cur.core).cyc + max n.toNat 1)),
         15, x.sched.setw, false, false, false⟩] ∧
       (∀ l ∈ s.act x, (t.lane s.ref l).pc = s.cur.pc) ∧
       ∀ l ∈ s.lanes, l ∉ s.act x → (t.lane s.ref l).pc = s.cur.pc + 16) ∧
   (∀ (s : State) (b : BRef) (l u : Nat) (pc : DWord) (r w : Fin 16), s.hasBundle b = true →
     (s.bundle b).parked = [⟨pc, [(l, .sleep u)], r, w, false, false, false⟩] → u ≤ (s.core b.core).cyc →
     ∃ t, exec (.sleepExpire b l) s = .next t ∧ (t.lane b l).pc = pc + 16 ∧ (t.bundle b).parked = []) ∧
   (∀ (s : State) (b : BRef) (l u : Nat) (pc : DWord) (r w : Fin 16), s.hasBundle b = true →
     (s.bundle b).parked = [⟨pc, [(l, .sleep u)], r, w, false, false, false⟩] → (s.core b.core).cyc < u →
     ∃ t, exec (.sleepExpire b l) s = .next t ∧ (t.bundle b).parked = (s.bundle b).parked))

/-! ### Memory (class 0x5) -/

/-- A load completes as an instruction and leaves its accesses outstanding, `parts` in ascending lane order, for the
registers of its destination, which no lane may read before they have come. Nothing of memory, and no register, has
changed. -/
def loadIssues (s : State) (i : Instr) (x : Args) (regs : Nat) (sgn : Bool) (parts : List Part) : Prop :=
  s.act x ≠ [] → ∃ t, exec i s = .next t ∧ s.passed t ∧ t.mem = s.mem ∧ t.curCrew.scratch = s.curCrew.scratch ∧
    (t.core s.cur.core).pend = (s.core s.cur.core).pend ++
      [⟨s.opSeq, s.ref, .load sgn regs, parts, x.d, x.sched.setw, (s.core s.cur.core).cyc, [], []⟩] ∧
    (∀ l k, (t.lane s.ref l).v1 k = (s.lane s.ref l).v1 k) ∧
    ∀ v : Fin 248, x.d = .v v → v.val + regs ≤ 248 → ∀ l ∈ s.act x, ∀ j < regs, (t.lane s.ref l).pendV.getLsbD (v.val + j) = true

/-- A store completes as an instruction with its bytes outstanding. -/
def storeIssues (s : State) (i : Instr) (x : Args) (parts : List Part) : Prop :=
  s.act x ≠ [] → ∃ t, exec i s = .next t ∧ s.passed t ∧ t.mem = s.mem ∧ t.curCrew.scratch = s.curCrew.scratch ∧
    (t.core s.cur.core).pend = (s.core s.cur.core).pend ++
      [⟨s.opSeq, s.ref, .store, parts, .none, x.sched.setw, (s.core s.cur.core).cyc, [], []⟩] ∧
    ∀ l k, (t.lane s.ref l).v1 k = (s.lane s.ref l).v1 k

/-- A core's oldest outstanding entry, of kind `kind` and a bundle of that core, has one part left to perform, which nothing
holds back: its lines are not being refetched, its page is not a cache page, its die runs, and no fence stands behind it. -/
def lastPart (s : State) (core : Nat) (p : Pend) (a : Part) (rest : List Pend) : Prop :=
  (s.core core).pend = p :: rest ∧ p.ref.core = core ∧ p.parts = [a] ∧ a.far = false ∧ (s.die (dieOf core)).slot = .run ∧
  (a.scr = none → (∀ c ∈ a.cells, s.refetching c = none ∧ s.cellPoison c = false) ∧ s.pageAt a.va = none) ∧
  ∀ q ∈ rest, ∀ c, q.kind ≠ .fence c

/-- R249 to R254: global loads, plain, vector and word-indexed, of any ordering: one part for each page a lane touches.

R102, R250: the results of an outstanding load of one part arrive, whose lane knows the newest bytes of it: the lane's
register takes the word they spell, lowest byte first, sign- or zero-extended below 32 bits; the access is no longer
outstanding, and the register is no longer pending. -/
def Obligations.GlobalLoads : Prop :=
  (∀ (s : State) (x : Args) (off : Word) (o : Order), noPorts x = true → s.gangClass = true →
     let base := fun l => s.src64 x false l x.a + off.signExtend 64
     let loads := fun (i : Instr) (n regs : Nat) (sgn : Bool) (ea : Nat → Nat) => ∀ xs,
       s.xlateAll s.ref .read ((s.act x).map fun l => (l, ea l, n)) = .ok xs →
       loadIssues s i x regs sgn (xs.flatMap fun e => e.2.parts e.1 n true false o none (s.unOf e.1) [])
     loads (.ldg .n8 o off x) 1 1 false (fun l => (base l).toNat) ∧
     loads (.ldg .s8 o off x) 1 1 true (fun l => (base l).toNat) ∧
     loads (.ldg .n16 o off x) 2 1 false (fun l => (base l).toNat) ∧
     loads (.ldg .s16 o off x) 2 1 true (fun l => (base l).toNat) ∧
     loads (.ldg .b32 o off x) 4 1 false (fun l => (base l).toNat) ∧
     loads (.ldg .b64 o off x) 8 2 false (fun l => (base l).toNat) ∧
     (∀ w : VecN, loads (.ldgv w o off x) (4 * w.count) w.count false (fun l => (base l).toNat)) ∧
     loads (.ldgw o off x) 4 1 false (fun l => (base l + 4 * (s.src32 x l x.b).setWidth 64).toNat)) ∧
  (∀ (s : State) (b : BRef) (p : Pend) (a : Part) (rest : List Pend) (v : Fin 248) (sgn : Bool),
     s.hasBundle b = true → p.ref = b → lastPart s b.core p a rest → p.got = [] → p.dst = .v v → a.scr = none →
     p.kind = .load sgn 1 → (s.crew b.core b.slot).barriers = [] →
     (a.cells.length = 1 ∨ a.cells.length = 2 ∨ a.cells.length = 4) → s.knowsNewest b a.lane (if a.ord = .un then a.un else p.id) a.cells →
     ∃ t, exec (.loadResultReturn b.core 0) s = .next t ∧ (t.core b.core).pend = rest ∧ t.mem = s.mem ∧
       (let w := leNat (a.cells.map s.cell)
        (t.lane b a.lane).v1 v = if sgn && a.cells.length != 4 then
           (if a.cells.length = 1 then (BitVec.ofNat 8 w).signExtend 32 else (BitVec.ofNat 16 w).signExtend 32)
         else BitVec.ofNat 32 w) ∧
       (t.lane b a.lane).pendV.getLsbD v = false ∧
       ∀ m k, m ≠ a.lane ∨ k ≠ v.val → (t.lane b m).v1 k = (s.lane b m).v1 k)

/-- R249, R250, R253 and R254: global stores of any ordering; a store writes the low bytes of its source, and a vector store
its registers in turn.

R96 and R102: an outstanding store is performed: its bytes are written, and every other byte of memory reads as
before. -/
def Obligations.GlobalStores : Prop :=
  (∀ (s : State) (x : Args) (off : Word) (o : Order), noPorts x = true → s.gangClass = true →
     let base := fun l => s.src64 x false l x.a + off.signExtend 64
     let low := fun n l => leBytes (s.src64 x false l x.b).toNat n
     let low32 := fun n l => leBytes (s.src32 x l x.b).toNat n
     let stores := fun (i : Instr) (n : Nat) (ea : Nat → Nat) (bytes : Nat → List Byte) => ∀ xs,
       s.xlateAll s.ref .write ((s.act x).map fun l => (l, ea l, n)) = .ok xs →
       storeIssues s i x (xs.flatMap fun e => e.2.parts e.1 n false true o (s.relOf e.1) (s.unOf e.1) (bytes e.1))
     (∀ w, w = MemW.n8 ∨ w = MemW.s8 → stores (.stg w o off x) 1 (fun l => (base l).toNat) (low32 1)) ∧
     (∀ w, w = MemW.n16 ∨ w = MemW.s16 → stores (.stg w o off x) 2 (fun l => (base l).toNat) (low32 2)) ∧
     stores (.stg .b32 o off x) 4 (fun l => (base l).toNat) (low32 4) ∧
     stores (.stg .b64 o off x) 8 (fun l => (base l).toNat) (low 8) ∧
     (∀ (w : VecN) (v : Fin 248), x.b = .v v → stores (.stgv w o off x) (4 * w.count) (fun l => (base l).toNat)
       (fun l => (List.range w.count).flatMap fun j => leBytes ((s.lane s.ref l).v1 (v.val + j)).toNat 4)) ∧
     stores (.stgw o off x) 4 (fun l => (base l + 4 * (s.src32 x l x.b).setWidth 64).toNat)
       (fun l => leBytes (s.src32 x l x.c).toNat 4)) ∧
  (∀ (s : State) (core : Nat) (p : Pend) (rest : List Pend) (pa : Part) (a : Nat) (bs : List Byte),
     lastPart s core p pa rest → p.kind = .store → pa.scr = none →
     pa.cells = ((List.range bs.length).map fun i => a + i) → pa.data = bs →
     ∃ t, exec (.storePerformed core 0) s = .next t ∧ (t.core core).pend = rest ∧
       (∀ i, ∀ h : i < bs.length, t.mem.read (a + i) = bs[i]) ∧
       ∀ c, c < a ∨ a + bs.length ≤ c → t.mem.read c = s.mem.read c)

/-- Every lane predicated on has its bytes inside its crew's own allocation, in lines that are full. -/
def ownFull (s : State) (x : Args) (n : Nat) (ea : Nat → Word) : Prop :=
  ∀ l ∈ s.act x, (ea l).toNat < 2 ^ 20 ∧ (ea l).toNat + n ≤ s.curCrew.slines * 128 ∧
    ∀ j ∈ linesTouched (ea l).toNat n, s.curCrew.line j = .full

/-- R84, R86, R105, R250 and R253: a scratchpad load from full lines of the own allocation issues: one part for each line
a lane touches; and so does a store, whether its lines are empty or full.

R102, R250: an outstanding load of one part in scratchpad, whose lane knows the newest bytes of it, delivers the bytes at its
place and changes none.

R84, R86, R88 and R250: an outstanding store of one part in scratchpad writes its bytes there, and nothing else of the
scratchpad changes, but a receipt word that the bytes touch, which makes its match check.

R83, R84 and R86: a scratchpad load beyond its allocation traps SEGV with the address, and one that touches a poisoned
line traps POISON. -/
def Obligations.ScratchpadAccesses : Prop :=
  (∀ (s : State) (x : Args) (o : Order) (off : BitVec 20), noPorts x = true → s.gangClass = true →
     let ea := fun l => s.src32 x l x.a + off.signExtend 32
     let loads := fun (i : Instr) (n regs : Nat) (sgn : Bool) => ownFull s x n ea → loadIssues s i x regs sgn
       ((s.act x).flatMap fun l => s.scrParts l s.cur.core s.cur.slot (ea l).toNat n o none (s.unOf l) [])
     loads (.lds .n8 o off x) 1 1 false ∧ loads (.lds .s8 o off x) 1 1 true ∧
     loads (.lds .n16 o off x) 2 1 false ∧ loads (.lds .s16 o off x) 2 1 true ∧
     loads (.lds .b32 o off x) 4 1 false ∧ loads (.lds .b64 o off x) 8 2 false ∧
     (∀ w : VecN, loads (.ldsv w o off x) (4 * w.count) w.count false) ∧
     let stores := fun (i : Instr) (n : Nat) (bytes : Nat → List Byte) =>
       (∀ l ∈ s.act x, (ea l).toNat < 2 ^ 20 ∧ (ea l).toNat + n ≤ s.curCrew.slines * 128 ∧
         ∀ j ∈ linesTouched (ea l).toNat n, s.line s.cur.core s.cur.slot j ≠ .poisoned) →
       storeIssues s i x ((s.act x).flatMap fun l =>
         s.scrParts l s.cur.core s.cur.slot (ea l).toNat n o (s.relOf l) (s.unOf l) (bytes l))
     (∀ w, w = MemW.n8 ∨ w = MemW.s8 → stores (.sts w o off x) 1 fun l => leBytes (s.src32 x l x.b).toNat 1) ∧
     (∀ w, w = MemW.n16 ∨ w = MemW.s16 → stores (.sts w o off x) 2 fun l => leBytes (s.src32 x l x.b).toNat 2) ∧
     stores (.sts .b32 o off x) 4 (fun l => leBytes (s.src32 x l x.b).toNat 4) ∧
     stores (.sts .b64 o off x) 8 (fun l => leBytes (s.src64 x false l x.b).toNat 8) ∧
     ∀ (w : VecN) (v : Fin 248), x.b = .v v → stores (.stsv w o off x) (4 * w.count) fun l =>
       (List.range w.count).flatMap fun j => leBytes ((s.lane s.ref l).v1 (v.val + j)).toNat 4) ∧
  (∀ (s : State) (b : BRef) (p : Pend) (a : Part) (rest : List Pend) (v : Fin 248) (off n : Nat),
     s.hasBundle b = true → p.ref = b → lastPart s b.core p a rest → p.got = [] → p.kind = .load false (n / 4) →
     p.dst = .v v → a.scr = some (b.core, b.slot, off) → a.ord = .rc →
     a.cells = ((List.range n).map fun i => s.scrCell b.core b.slot (off + i)) → n = 4 ∨ n = 8 →
     s.knowsNewest b a.lane p.id a.cells → (s.crew b.core b.slot).barriers = [] →
     ∃ t, exec (.loadResultReturn b.core 0) s = .next t ∧ (t.core b.core).pend = rest ∧
       (t.crew b.core b.slot).scratch = (s.crew b.core b.slot).scratch ∧
       ∀ j < n / 4, (t.lane b a.lane).v1 (v.val + j) =
         BitVec.ofNat 32 ((s.crew b.core b.slot).scratch.readNat (off + 4 * j) 4)) ∧
  (∀ (s : State) (b : BRef) (p : Pend) (a : Part) (rest : List Pend) (off : Nat) (bs : List Byte),
     s.hasBundle b = true → p.ref = b → lastPart s b.core p a rest → p.kind = .store → a.scr = some (b.core, b.slot, off) →
     a.cells = ((List.range bs.length).map fun i => s.scrCell b.core b.slot (off + i)) → a.data = bs → bs ≠ [] →
     ∃ t, exec (.storePerformed b.core 0) s = .next t ∧ (t.core b.core).pend = rest ∧
       wroteScratch (s.crew b.core b.slot).scratch (t.crew b.core b.slot).scratch off bs ∧
       (t.crew b.core b.slot).lineSt = (s.crew b.core b.slot).lineSt ∧ t.mem = s.mem) ∧
  (∀ (s : State) (x : Args) (l : Nat) (o : Order) (off : BitVec 20), noPorts x = true → s.fresh → s.act x = [l] →
     let ea := s.src32 x l x.a + off.signExtend 32
     (s.curCrew.slines * 128 < ea.toNat + 4 → ea.toNat < 2 ^ 20 → ∃ t, exec (.lds .b32 o off x) s = .next t ∧
       stopsWith s t (maskOf [l]) ⟨5, ea, 0, 0, 0⟩) ∧
     (ea.toNat + 1 ≤ s.curCrew.slines * 128 → ea.toNat < 2 ^ 20 →
       s.line s.cur.core s.cur.slot (ea.toNat / 128) = .poisoned →
       ∃ t, exec (.lds .n8 o off x) s = .next t ∧ stopsWith s t (maskOf [l]) ⟨6, ea, 0, 0, 0⟩))

/-- R255 and R256: `LINESET` sets the lines of its range and no other line, and changes no data; `LINEQ` reads the codes of
sixteen lines, 0b11 beyond the allocation.

R257: `PREF` and `CCTL` change no value that anything reads, and trap at no address. -/
def Obligations.LineStatesAndCacheControl : Prop :=
  (∀ (s : State) (x : Args) (off : BitVec 20), noPorts x = true → s.gangClass = true →
     s.hasCrew s.cur.core s.cur.slot = true →
     let ea := fun l => (s.src32 x l x.a + off.signExtend 32).toNat
     let n := fun l => (s.src32 x l x.b).toNat
     (∀ l ∈ s.act x, ea l < 2 ^ 20 ∧ ea l < s.curCrew.slines * 128) →
     (∀ st : LineSt, st ≠ .full ∨ (s.core s.cur.core).pend = [] → (∀ l ∈ s.act x, ea l / 128 + n l ≤ s.curCrew.slines) →
       ∃ t, exec (.lineset st off x) s = .next t ∧ s.passed t ∧ t.curCrew.scratch = s.curCrew.scratch ∧
         ∀ j, t.curCrew.line j = if ∃ l ∈ s.act x, ea l / 128 ≤ j ∧ j < ea l / 128 + n l then st else s.curCrew.line j) ∧
     ∀ v : Fin 248, x.d = .v v → ∃ t, exec (.lineq off x) s = .next t ∧ s.passed t ∧
       ∀ l ∈ s.act x, ∀ i < 16, ((t.lane s.ref l).v1 v).toNat / 4 ^ i % 4 =
         if ea l / 128 + i < s.curCrew.slines then
           (match s.curCrew.line (ea l / 128 + i) with
             | .empty => 0
             | .full => 1
             | .poisoned => 2)
         else 3) ∧
  (∀ (s : State) (x : Args) (off : Word) (k : CctlVar),
     let quiet := fun i => ∃ t, exec i s = .next t ∧ s.passed t ∧ t.mem = s.mem ∧ t.curCrew.scratch = s.curCrew.scratch ∧
       ∀ l r p, (t.lane s.ref l).v1 r = (s.lane s.ref l).v1 r ∧ (t.lane s.ref l).pred p = (s.lane s.ref l).pred p
     quiet (.pref off x) ∧ quiet (.cctl k off x))

/-! ### Atomics and synchronisation (class 0x6) -/

/-- R258 and R259: what an integer atomic makes of the value it finds. -/
def atomOf {w : Nat} (op : AtomOp) (t : ATy) (old b : BitVec w) : BitVec w :=
  match op with
  | .add => old + b
  | .min => if t = .s32 ∨ t = .s64 then (if old.sle b then old else b) else (if old.ule b then old else b)
  | .max => if t = .s32 ∨ t = .s64 then (if b.sle old then old else b) else (if b.ule old then old else b)
  | .and => old &&& b
  | .or => old ||| b
  | .xor => old ^^^ b
  | .exch => b

/-- Every form of an atomic operation (R258): `runs` is told the instruction, its bytes, and what a lane makes of the value it
finds. A float sum rounds to nearest. -/
def opForms (s : State) (x : Args) (i : AtomOp → ATy → Instr) (runs : Instr → Nat → (Nat → Nat → Option Nat) → Prop) : Prop :=
  (∀ op (t : ATy), (t = .b32 ∨ t = .s32 ∨ t = .n32) →
    runs (i op t) 4 fun l old => some (atomOf op t (BitVec.ofNat 32 old) (s.src32 x l x.b)).toNat) ∧
  (∀ op (t : ATy), (t = .b64 ∨ t = .s64 ∨ t = .n64) →
    runs (i op t) 8 fun l old => some (atomOf op t (BitVec.ofNat 64 old) (s.src64 x true l x.b)).toNat) ∧
  runs (i .add .f32) 4 (fun l old => some (rneAdd old (s.src32 x l x.b).toNat)) ∧
  runs (i .exch .f32) 4 fun l _ => some (s.src32 x l x.b).toNat

/-- Both forms of a compare and swap (R259), which writes nothing where it does not find b. -/
def casForms (s : State) (x : Args) (i : ATy → Instr) (runs : Instr → Nat → (Nat → Nat → Option Nat) → Prop) : Prop :=
  (∀ t : ATy, (t = .b32 ∨ t = .s32 ∨ t = .n32) → runs (i t) 4 fun l old =>
    if BitVec.ofNat 32 old = s.src32 x l x.b then some (s.src32 x l x.c).toNat else none) ∧
  ∀ t : ATy, (t = .b64 ∨ t = .s64 ∨ t = .n64) → runs (i t) 8 fun l old =>
    if BitVec.ofNat 64 old = s.src64 x true l x.b then some (s.src64 x true l x.c).toNat else none

/-- R85, R96, R258 and R259: scratchpad atomics at naturally aligned words of the own allocation, when the core has nothing
outstanding, are performed lane by lane in ascending order: each returns the value it found and leaves the new one, as one
update of its 8-byte word, for the next to find; `CASS` writes only when it finds b. -/
def Obligations.ScratchpadAtomics : Prop :=
  ∀ (s : State) (x : Args) (v : Fin 248) (off : BitVec 20) (o : Order), noPorts x = true → s.gangClass = true →
    s.curCrew.det = false → x.d = .v v → s.hasCrew s.cur.core s.cur.slot = true → (s.core s.cur.core).pend = [] →
    let ea := fun l => (s.src32 x l x.a + off.signExtend 32).toNat
    let runs := fun (i : Instr) (n : Nat) (new : Nat → Nat → Option Nat) =>
      (∀ l ∈ s.act x, ea l % n = 0 ∧ ea l < 2 ^ 20 ∧ ea l + n ≤ s.curCrew.slines * 128 ∧ s.curCrew.line (ea l / 128) = .full) →
      v.val + n / 4 ≤ 248 →
      ∃ (t : State) (m : Nat → Mem), exec i s = .next t ∧ s.passed t ∧ m 0 = s.curCrew.scratch ∧
        m (s.act x).length = t.curCrew.scratch ∧ ∀ k l, (s.act x)[k]? = some l →
          let old := (m k).readNat (ea l) n
          (∀ j < n / 4, (t.lane s.ref l).v1 (v.val + j) = BitVec.ofNat 32 (old / 2 ^ (32 * j))) ∧
          match new l old with
          | some w => wroteScratch (m k) (m (k + 1)) (ea l) (leBytes w n)
          | none => m (k + 1) = m k
    opForms s x (fun op t => .atoms op t o off x) runs ∧ casForms s x (fun t => .cass t o off x) runs

/-- R96, R258 and R259: global atomics on near pages that are no cache pages, when their core has nothing outstanding, are
performed when they issue, lane by lane in ascending order: memory holds each new value at its bytes and every other byte as
before, for the next to find, and the values found are on their way to their destination.

R258: `REDG` leaves its operation outstanding, and `REDG_APPLY` applies it to what memory then holds. -/
def Obligations.GlobalAtomics : Prop :=
  (∀ (s : State) (x : Args) (v : Fin 248) (a : Nat → Nat) (tl : Nat → Tlb), noPorts x = true → s.gangClass = true →
     s.curCrew.det = false → s.act x ≠ [] → x.d = .v v → s.refetch = [] → (s.core s.cur.core).pend = [] →
     let cells := fun n l => (List.range n).map fun i => a l + i
     let capbase := (s.supReg 0x10C).toNat
     let byte := fun (m : Mem) c => if capbase ≤ c ∧ c < capbase + 0x10000 then s.physByte c else m.read c
     let runs := fun (ea : Nat → Nat) (i : Instr) (n : Nat) (new : Nat → Nat → Option Nat) =>
       (∀ l ∈ s.act x, ea l % n = 0 ∧ s.pageAt (ea l) = none ∧ ∀ c ∈ cells n l, c < 2 ^ 53 ∧ s.cellPoison c = false) →
       s.xlateAll s.ref .atomic ((s.act x).map fun l => (l, ea l, n)) =
         .ok ((s.act x).map fun l => (l, ⟨cells n l, [tl l], ea l⟩)) →
       ∃ (t : State) (p : Pend) (m : Nat → Mem), exec i s = .next t ∧ s.passed t ∧ (t.core s.cur.core).pend = [p] ∧
         p.id = s.opSeq ∧ p.dst = .v v ∧ p.parts = [] ∧ m 0 = s.mem ∧ m (s.act x).length = t.mem ∧
         p.got.length = (s.act x).length ∧ ∀ k l, (s.act x)[k]? = some l →
           let found := (cells n l).map (byte (m k))
           p.got[k]? = some (l, 0, found) ∧
           match new l (leNat found) with
           | some w => (∀ i < n, (m (k + 1)).read (a l + i) = (leBytes w n).getD i 0) ∧
               ∀ c, c < a l ∨ a l + n ≤ c → (m (k + 1)).read c = (m k).read c
           | none => m (k + 1) = m k
     ∀ (o : Order) (off : BitVec 28) (off2 : Word),
       opForms s x (fun op t => .atomg op t o off x)
         (runs fun l => (s.src64 x true l x.a + (off.signExtend 32).signExtend 64).toNat) ∧
       casForms s x (fun t => .casg t o off2 x) (runs fun l => (s.src64 x true l x.a + off2.signExtend 64).toNat)) ∧
  (∀ (s : State) (x : Args) (op : AtomOp) (t : ATy) (o : Order) (off : BitVec 28) (xs : List (Nat × Xl)) (n : Nat)
     (data : Nat → List Byte), noPorts x = true → s.curCrew.det = false → s.act x ≠ [] →
     (t = .b64 ∨ t = .s64 ∨ t = .n64) ∧ n = 8 ∧ data = (fun l => leBytes (s.src64 x false l x.b).toNat 8) ∨
       (t = .b32 ∨ t = .s32 ∨ t = .n32 ∨ t = .f32) ∧ n = 4 ∧ data = (fun l => leBytes (s.src32 x l x.b).toNat 4) →
     let ea := fun l => (s.src64 x false l x.a + (off.signExtend 32).signExtend 64).toNat
     (∀ l ∈ s.act x, ea l % n = 0) →
     s.xlateAll s.ref .atomic ((s.act x).map fun l => (l, ea l, n)) = .ok xs →
     ∃ u, exec (.redg op t o off x) s = .next u ∧ s.passed u ∧ u.mem = s.mem ∧
       (u.core s.cur.core).pend = (s.core s.cur.core).pend ++ [⟨s.opSeq, s.ref, .redg op t,
         xs.flatMap (fun e => e.2.parts e.1 n true true o (s.relOf e.1) (s.unOf e.1) (data e.1)),
         .none, x.sched.setw, (s.core s.cur.core).cyc, [], []⟩]) ∧
  (∀ (s : State) (core a : Nat) (p : Pend) (pa : Part) (rest : List Pend) (op : AtomOp) (t : ATy) (b n new : Nat),
     lastPart s core p pa rest → p.kind = .redg op t → pa.scr = none →
     let cells := (List.range n).map fun i => a + i
     pa.cells = cells → pa.data = leBytes b n → (∀ c ∈ cells, c < 2 ^ 53) →
     let old := leNat (s.cells cells)
     (t = .b64 ∨ t = .s64 ∨ t = .n64) ∧ n = 8 ∧ new = (atomOf op t (BitVec.ofNat 64 old) (BitVec.ofNat 64 b)).toNat ∨
       (t = .b32 ∨ t = .s32 ∨ t = .n32) ∧ n = 4 ∧ new = (atomOf op t (BitVec.ofNat 32 old) (BitVec.ofNat 32 b)).toNat ∨
       t = .f32 ∧ op = .add ∧ n = 4 ∧ new = rneAdd old (b % 2 ^ 32) →
     ∃ u, exec (.redgApply core 0) s = .next u ∧ (u.core core).pend = rest ∧
       (∀ i < n, u.mem.read (a + i) = (leBytes new n).getD i 0) ∧
       ∀ c, c < a ∨ a + n ≤ c → u.mem.read c = s.mem.read c)

/-- R54: in a deterministic launch an atomic with a result traps DETVIOL, and so does any `REDG` but an FP32 addition. -/
def Obligations.DeterministicLaunchTraps : Prop :=
  ∀ (s : State) (x : Args), s.curCrew.det = true → s.act x ≠ [] → s.fresh →
    (∀ op t o off, ∃ u, exec (.atomg op t o off x) s = .next u ∧ stopsWith s u (maskOf (s.act x)) ⟨0x0E, 0, 0, 0, 0⟩) ∧
    (∀ t o off, ∃ u, exec (.casg t o off x) s = .next u ∧ stopsWith s u (maskOf (s.act x)) ⟨0x0E, 0, 0, 0, 0⟩) ∧
    (∀ op t o off, (op = .add → t ≠ .f32) → ∃ u, exec (.redg op t o off x) s = .next u ∧
      stopsWith s u (maskOf (s.act x)) ⟨0x0E, 0, 0, 0, 0⟩) ∧
    ∃ u, exec (.msend x) s = .next u ∧ stopsWith s u (maskOf (s.act x)) ⟨0x0E, 0, 0, 0, 0⟩

/-- R99, R101 and R261: a `FENCE` does not wait: its lanes go on, with their accesses outstanding as before; a `FENCE.ar`
stands among them, and nothing of its lanes that is not on a UN page passes it; one with nothing before it takes its place in
the fence order at once.

R99: a `FENCE.rel` or `FENCE.ar` makes its lanes' next store or atomic a release.

R104: a `FENCE` of scope .sys orders its lanes' accesses to UN pages.

R109: `QFENCE` with every queue it names empty completes at once, and a marker stands behind what its queue holds. -/
def Obligations.Fences : Prop :=
  (∀ (s : State) (o : Order) (x : Args), ∃ t, exec (.fence o x) s = .next t ∧ s.passed t ∧ t.mem = s.mem ∧
    (∀ l k, (t.lane s.ref l).v1 k = (s.lane s.ref l).v1 k) ∧
    ((t.core s.cur.core).pend.filter fun p => match p.kind with
      | .fence _ => false
      | _ => true).map (fun p => (p.id, p.kind, p.parts.map fun a => (a.cells, a.data))) =
      ((s.core s.cur.core).pend.filter fun p => match p.kind with
      | .fence _ => false
      | _ => true).map (fun p => (p.id, p.kind, p.parts.map fun a => (a.cells, a.data))) ∧
    (∀ l ∈ s.act x, (o.kind = .rel ∨ o.kind = .ar → (t.lane s.ref l).mind.relNext ≠ none) ∧
      (o.scope = .sys → (t.lane s.ref l).mind.un = s.opSeq)) ∧
    (o.kind = .ar → s.act x ≠ [] → (s.core s.cur.core).pend = [] → (t.core s.cur.core).pend = [])) ∧
  (∀ (n : Nat) (p q f : Part), f.acq.isSome = true → f.rel.isSome = true → f.ord = .rc → p.ord ≠ .un → q.lane = f.lane →
     p.lane = f.lane → q.ord ≠ .un → Part.holds n q f = true ∧ Part.holds n f p = true) ∧
  (∀ (s : State) (x : Args), x.lit = 0 ∨ s.act x = [] → ∃ t, exec (.qfence x) s = .next t ∧ s.atCourse t ∧ s.passed t) ∧
  (∀ (s : State) (x : Args) (q : Fin 7) (c : Cmd), s.act x ≠ [] → x.lit = 1#32 <<< q.val →
    (s.core s.cur.core).queues = [(q.val, [.cmd c])] → q ≠ 6 → (∀ b ∈ s.bundlesOf s.cur.core, (s.bundle b).ports = []) →
    ∃ t, exec (.qfence x) s = .next t ∧ s.passed t ∧ t.queue s.cur.core q = [.cmd c, .fence s.opSeq])

/-- R263 and R264: a crew barrier at which every live lane of the crew stands releases it, and delivers the payload of all
its lanes; one that part of them has reached parks the lanes predicated on. -/
def Obligations.CrewBarriers : Prop :=
  ∀ (s : State) (x : Args), noPorts x = true → s.gangClass = true → s.cur.again = false → x.b = .zero →
    (s.core s.cur.core).pend = [] → s.curCrew.barriers = [] → (s.bundle s.ref).parked = [] →
    s.curCrew.bundles = [(s.cur.bundle, s.bundle s.ref)] → s.hasBundle s.ref = true → s.act x ≠ [] →
    (s.act x = lanesOf (s.bundle s.ref).live →
      (∃ t, exec (.cbar .none .b32 x) s = .next t ∧ s.passed t ∧ (t.bundle s.ref).parked = []) ∧
      ∀ v : Fin 248, x.d = .v v → ∃ t, exec (.cbar .add .s32 x) s = .next t ∧ s.passed t ∧ (t.bundle s.ref).parked = [] ∧
        ∀ l ∈ s.act x, (t.lane s.ref l).v1 v = (s.act x).foldl (fun (r : Word) m => r + s.src32 x m x.a) 0) ∧
    (∀ m ∈ lanesOf (s.bundle s.ref).live, m ∉ s.act x →
      ∃ t, exec (.cbar .none .b32 x) s = .next t ∧ ∀ l ∈ s.act x, (t.bundle s.ref).waiting l = true ∧
        (t.lane s.ref l).pc = s.cur.pc)

/-- R88, R89 and R265: `EXPECT n` and `ARRIVE n` of one lane add to EXPECTED and ARRIVED of a receipt word; when the counts
become equal and EXPECTED is not zero, both return to zero and GEN advances.

R90 and R266: `WAITR` goes on at once where GEN differs from the value it names, and otherwise its lane waits; an
arrival that completes the word wakes it. -/
def Obligations.ReceiptWords : Prop :=
  (∀ (s : State) (x : Args) (l off a e g : Nat), noPorts x = true → s.act x = [l] →
     s.hasCrew s.cur.core s.cur.slot = true → (s.core s.cur.core).pend = [] → (s.src32 x l x.a).toNat = off →
     off % 8 = 0 → off < 2 ^ 20 → off + 8 ≤ s.curCrew.slines * 128 → s.curCrew.line (off / 128) = .full →
     s.curCrew.scratch.readNat off 8 = a * 2 ^ 40 + e * 2 ^ 16 + g → a < 2 ^ 24 → e < 2 ^ 24 → g < 2 ^ 16 →
     let n := (s.src32 x l x.b).toNat
     0 < n →
     let word := fun a e g => if e ≠ 0 ∧ a = e then (g + 1) % 2 ^ 16 else a * 2 ^ 40 + e * 2 ^ 16 + g
     (e + n < 2 ^ 24 → ∃ t, exec (.expect x) s = .next t ∧ s.passed t ∧ t.curCrew.scratch.readNat off 8 = word a (e + n) g) ∧
     (a + n < 2 ^ 24 → ∃ t, exec (.arrive x) s = .next t ∧ s.passed t ∧ t.curCrew.scratch.readNat off 8 = word (a + n) e g) ∧
     (2 ^ 24 ≤ e + n → s.fresh → ∃ t, exec (.expect x) s = .next t ∧
       stopsWith s t (maskOf [l]) ⟨0x0A, s.src32 x l x.a, 0, 0, 0⟩)) ∧
  (∀ (s : State) (x : Args) (l off : Nat), noPorts x = true → s.act x = [l] → s.cur.again = false →
     (s.core s.cur.core).pend = [] → (s.bundle s.ref).parked = [] → (s.src32 x l x.a).toNat = off → off % 8 = 0 → off < 2 ^ 20 →
     off + 8 ≤ s.curCrew.slines * 128 → s.curCrew.line (off / 128) = .full →
     let g := (s.src32 x l x.b).setWidth 16
     (s.curCrew.scratch.readNat off 8 % 2 ^ 16 ≠ g.toNat → ∃ t, exec (.waitr x) s = .next t ∧ s.passed t) ∧
     (s.curCrew.scratch.readNat off 8 % 2 ^ 16 = g.toNat → ∃ t, exec (.waitr x) s = .next t ∧
       (t.lane s.ref l).pc = s.cur.pc ∧
       (t.bundle s.ref).parked = [⟨s.cur.pc, [(l, .receipt s.cur.core s.cur.slot off g)], 15, x.sched.setw, false, false, false⟩]))

/-! ### Ports (class 0x8) -/

/-- R139, R149 and R275: what each port instruction does to its port and to no other. `bindCode` is the result code of
Table 07-3. -/
def Obligations.PortControls : Prop :=
  ∀ (s : State) (x : Args) (n : Fin 8), x.a = .q n → noPorts { x with a := .none } = true → s.act x ≠ [] →
    let q := s.port s.ref n
    let others := fun t : State => ∀ m, m ≠ n.val → t.port s.ref m = s.port s.ref m
    let k := fun l => (s.src64 x false l x.b).toNat % 2 ^ 48
    (q.pending = 0 → q.bound = true → ∃ t, exec (.punbind x) s = .next t ∧ s.passed t ∧ others t ∧
      (t.port s.ref n).bound = false ∧ (t.port s.ref n).err = q.err ∧ (t.port s.ref n).fidx = q.fidx ∧
      (t.port s.ref n).faddr = q.faddr) ∧
    (q.pending = 0 → q.bound = false → ∃ t, exec (.punbind x) s = .next t ∧ s.passed t ∧ others t ∧ t.port s.ref n = q) ∧
    (q.bound = true → ∀ c, (∀ l ∈ s.act x, k l = c) →
      (∃ t, exec (.pskip x) s = .next t ∧ s.passed t ∧ others t ∧ (t.port s.ref n).pos = min (q.pos + c) q.len) ∧
      (∃ t, exec (.prewind x) s = .next t ∧ s.passed t ∧ others t ∧ (t.port s.ref n).pos = min c q.len ∧
        (t.port s.ref n).buf = [])) ∧
    (q.bound = true → ∀ disp : Word, ∃ t, exec (.bpend disp x) s = .next t ∧ s.atCourse t ∧
      ∀ l ∈ s.lanes, (t.lane s.ref l).pc = if l ∈ s.act x ∧ q.pos = q.len then s.cur.pc + disp.signExtend 64 else s.cur.pc + 16) ∧
    (q.bound = false → s.fresh → ∀ i, (i = .pskip x ∨ i = .prewind x ∨ ∃ disp, i = .bpend disp x) →
      ∃ t, exec i s = .next t ∧ stopsWith s t (maskOf (s.act x)) ⟨8, BitVec.ofNat 32 (0x100 + n), 0, 0, 0⟩) ∧
    (s.gangClass = true → ∀ v : Fin 248, x.d = .v v → ∀ sel : Word, (∀ l ∈ s.act x, s.src32 x l x.b = sel) →
      (sel = 1 → writes64 s (.pstat x) x v (fun _ => BitVec.ofNat 64 q.fidx)) ∧
      (sel = 2 → writes64 s (.pstat x) x v (fun _ => q.faddr)) ∧
      (sel = 0 → q.bound = false → writes64 s (.pstat x) x v (fun _ => BitVec.ofNat 64 (q.err * 2 ^ 56))) ∧
      (sel = 0 → q.bound = true → writes64 s (.pstat x) x v (fun _ => BitVec.ofNat 64
        (2 ^ 63 + (if descWrite q.d then 2 ^ 62 else 0) + (if q.pos = q.len then 2 ^ 61 else 0) +
          (if descLaned q.d then 2 ^ 60 else 0) + q.err * 2 ^ 56 + q.pending * 2 ^ 48 + q.pos)))) ∧
    (∀ p : Fin 8, x.d = .p p → p ≠ 7 → q.pending = 0 →
      let binds := fun (i : Instr) (d : Nat) =>
        let code := bindCode d ((s.bundle s.ref).otherPorts n)
        ∃ t, exec i s = .next t ∧ s.passed t ∧ others t ∧ (∀ l ∈ s.act x, (t.lane s.ref l).pred p = (code == 0)) ∧
          (code = 0 → (t.port s.ref n).bound = true ∧ (t.port s.ref n).desc = BitVec.ofNat 512 d ∧
            (t.port s.ref n).pos = 0 ∧ (t.port s.ref n).err = 0) ∧
          (code ≠ 0 → t.port s.ref n = { q with err := code })
      (∀ (a : Word) (l : Nat), (∀ l ∈ s.act x, s.src32 x l x.b = a) → (s.act x).head? = some l → a.toNat % 64 = 0 →
        a.toNat < 2 ^ 20 → a.toNat + 64 ≤ s.curCrew.slines * 128 → s.curCrew.line (a.toNat / 128) = .full →
        (s.core s.cur.core).pend = [] →
        s.knowsNewest s.ref l s.opSeq ((List.range 64).map fun i => s.scrCell s.cur.core s.cur.slot (a.toNat + i)) →
        binds (.pbind false x) (s.curCrew.scratch.readNat a.toNat 64)) ∧
      (∀ (a : DWord) (l : Nat) (cells : List Nat) (tl : Tlb), (∀ l ∈ s.act x, s.src64 x false l x.b = a) →
        (s.act x).head? = some l → a.toNat % 64 = 0 → s.xlateAll s.ref .read [(l, a.toNat, 64)] = .ok [(l, ⟨cells, [tl], a.toNat⟩)] →
        tl.far = false → (s.core s.cur.core).pend = [] → (∀ c ∈ cells, s.refetching c = none ∧ s.cellPoison c = false) →
        s.knowsNewest s.ref l (if tl.ord = .un then s.unOf l else s.opSeq) cells →
        binds (.pbind true x) (leNat (s.cells cells))) ∧
      (∀ l ∈ s.act x, ∀ m ∈ s.act x, s.src32 x l x.b ≠ s.src32 x m x.b →
        ∃ t, exec (.pbind false x) s = .next t ∧ s.passed t ∧ others t ∧ t.port s.ref n = { q with err := 6 } ∧
          ∀ l ∈ s.act x, (t.lane s.ref l).pred p = false))

/-- R142 to R145: a 32-bit `MOV` pops a read port, each lane its own element by the port's mode, with 0 beyond the end, and
the position advances; a peek takes the same elements and leaves the port as it is; a pop at the end, from an unbound
port or from a write port traps PORTEND with its reason; and a `MOV` to a scratchpad write port adds one entry to its write
queue. -/
def Obligations.PortTransfers : Prop :=
  (∀ (s : State) (x : Args) (n : Fin 8) (v : Fin 248), noPorts { x with a := .none } = true → s.gangClass = true →
    x.d = .v v → s.act x ≠ [] →
    let q := s.port s.ref n
    let idx := fun l => q.pos + if descLaned q.d then l else ((s.act x).filter fun m => decide (m < l)).length
    let val := fun l => if idx l < q.len then (match find q.buf (idx l) with
      | some (.data bs) => BitVec.ofNat 32 (leNat bs)
      | _ => 0) else 0
    (q.bound = true → descWrite q.d = false → descTarget q.d ≠ 2 → q.pos ≠ q.len →
      (∀ l ∈ s.act x, idx l < q.len → s.elemOutside s.ref q.d (idx l) = false ∧ ∃ bs, find q.buf (idx l) = some (.data bs)) →
      (x.a = .q n → ∃ t, exec (.mov .b32 x) s = .next t ∧ s.passed t ∧ (∀ l ∈ s.act x, (t.lane s.ref l).v1 v = val l) ∧
        (t.port s.ref n).pos = min (q.pos + if descLaned q.d then 32 else (s.act x).length) q.len ∧
        ∀ m, m ≠ n.val → t.port s.ref m = s.port s.ref m) ∧
      (x.a = .peek n → ∃ t, exec (.mov .b32 x) s = .next t ∧ s.passed t ∧ (∀ l ∈ s.act x, (t.lane s.ref l).v1 v = val l) ∧
        (t.bundle s.ref).ports = (s.bundle s.ref).ports)) ∧
    (x.a = .q n → s.fresh → ∀ reason, (reason = 1 ∧ q.bound = false) ∨ (reason = 2 ∧ q.bound = true ∧ descWrite q.d = true) ∨
        (reason = 0 ∧ q.bound = true ∧ descWrite q.d = false ∧ q.pos = q.len) →
      ∃ t, exec (.mov .b32 x) s = .next t ∧
        stopsWith s t (maskOf (s.act x)) ⟨8, BitVec.ofNat 32 (reason * 0x100 + n), 0, 0, 0⟩)) ∧
  (∀ (s : State) (x : Args) (n : Fin 8), noPorts { x with d := .none } = true → x.d = .q n → s.act x ≠ [] →
    let q := s.port s.ref n
    let idx := fun l => q.pos + if descLaned q.d then l else ((s.act x).filter fun m => decide (m < l)).length
    let ls := (s.act x).filter fun l => decide (idx l < q.len)
    q.bound = true → descWrite q.d = true → descTarget q.d = 1 → q.pos ≠ q.len → q.pending < 64 →
    (∀ l ∈ ls, elemAddr q.d (idx l) < 2 ^ 20 ∧ elemAddr q.d (idx l) + descEsize q.d ≤ s.curCrew.slines * 128) →
    ∃ t, exec (.mov .b32 x) s = .next t ∧ s.passed t ∧
      (t.port s.ref n).wq = q.wq ++ [.push ⟨ls.map fun l => (l, .scr s.cur.core s.cur.slot (elemAddr q.d (idx l)),
          leBytes (s.src32 x l x.a).toNat (descEsize q.d)), x.sched.setw, [], s.opSeq, s.unsOf s.ref (s.act x), []⟩] ∧
      (t.port s.ref n).pos = min (q.pos + if descLaned q.d then 32 else (s.act x).length) q.len ∧
      t.curCrew.scratch = s.curCrew.scratch)

/-- R110, R144 to R146 and R275: the pattern engine fetches an element within 128 of the position, of whose bytes the newest
writes happen before the form that set the position; the oldest entry of a write queue is performed; `PFLUSH` goes on at once when the write queues its mask names are empty, and waits otherwise. -/
def Obligations.PortEngine : Prop :=
  (∀ (s : State) (b : BRef) (n i : Nat) (cells : List Nat) (es : List Tlb),
    let q := s.port b n
    s.hasBundle b = true → q.bound = true → descWrite q.d = false → descTarget q.d = 0 → q.pos ≤ i → i < q.pos + 128 →
    i < q.len → find q.buf i = none → s.elemOutside b q.d i = false → (s.die (dieOf b.core)).slot = .run →
    s.xlate b 0 (elemAddr q.d i) (descEsize q.d) .read = .ok ⟨cells, es, elemAddr q.d i⟩ → (∀ e ∈ es, e.far = false) →
    (s.core b.core).pend = [] → (∀ c ∈ cells, s.refetching c = none ∧
      ∀ e, (findD s.vers c []).head? = some e → (s.portReader b q []).sees e = true) →
    (∀ j < descEsize q.d, s.cellPoison (cells.getD j 0) = false) → cells.length = descEsize q.d →
    ∃ t, exec (.portElementFetch b n i) s = .next t ∧ find (t.port b n).buf i = some (.data (s.cells cells)) ∧
      (t.port b n).pos = q.pos ∧ t.mem = s.mem) ∧
  (∀ (s : State) (b : BRef) (n a l va : Nat) (bs : List Byte) (uns : List (Nat × Nat)) (e : PushEnt),
    s.hasBundle b = true → (s.die (dieOf b.core)).slot = .run → (s.core b.core).pend = [] → (s.port b n).wq = [.push e] →
    e.els = [(l, .phys ((List.range bs.length).map fun i => a + i) va uns false, bs)] → e.owed = [] →
    s.pageAt va = none → s.pageAt (va + bs.length - 1) = none →
    ∃ t, exec (.portWriteEntryPerform b n) s = .next t ∧ (t.port b n).wq = [] ∧
      (∀ i, ∀ h : i < bs.length, t.mem.read (a + i) = bs[i]) ∧
      ∀ c, c < a ∨ a + bs.length ≤ c → t.mem.read c = s.mem.read c) ∧
  (∀ (s : State) (x : Args) (m : Word), noPorts x = true → s.act x ≠ [] → (∀ l ∈ s.act x, s.src32 x l x.a = m) →
    let due := ∃ n < 8, m.getLsbD n = true ∧ (s.port s.ref n).bound = true ∧ descWrite (s.port s.ref n).d = true ∧
      (s.port s.ref n).pending ≠ 0
    (¬due → ∃ t, exec (.pflush x) s = .next t ∧ s.passed t ∧ (t.bundle s.ref).ports = (s.bundle s.ref).ports) ∧
    (due → ∃ t, exec (.pflush x) s = .next t ∧
      ∀ l ∈ s.lanes, (t.bundle s.ref).waiting l = true ∧ (t.lane s.ref l).pc = s.cur.pc))

/-! ### Matrix (class 0x9) -/

/-- A command of the course enters a queue of its core behind the entries it holds, and takes a share of each lane's weight:
the lanes go on, and nothing else of the registers, the scratchpad or memory has changed. -/
def entersWith (s : State) (i : Instr) (x : Args) (q : Nat) (held : List (Nat × Nat)) (b : Body) (share : Nat → Nat) : Prop :=
  ∃ t, exec i s = .next t ∧ s.passed t ∧
    t.queue s.cur.core q = s.queue s.cur.core q ++ [.cmd ⟨s.opSeq, s.ref, x.sched.setw, held, false, false, none, 0,
      false, s.unsOf s.ref (s.act x), [], b⟩] ∧
    (∀ p, p ≠ q → t.queue s.cur.core p = s.queue s.cur.core p) ∧ t.mem = s.mem ∧ t.curCrew.scratch = s.curCrew.scratch ∧
    t.curCrew.c = s.curCrew.c ∧ ∀ l k p, (t.lane s.ref l).v1 k = (s.lane s.ref l).v1 k ∧
      (t.lane s.ref l).pred p = (s.lane s.ref l).pred p ∧
      (t.lane s.ref l).wt = (s.lane s.ref l).wt - BitVec.ofNat 32 (share l)

/-- A command that takes no weight enters its queue. -/
def enters (s : State) (i : Instr) (x : Args) (q : Nat) (held : List (Nat × Nat)) (b : Body) : Prop :=
  entersWith s i x q held b fun _ => 0

/-- R276: `TLD`, `TST` and `TZERO` enter the matrix queue; a scratchpad address that is not a multiple of 16 traps ALIGN
and one whose tile does not lie in the allocation traps SEGV.

R23, R80, R278, R279, R282 and R283: a multiplication whose format word, handle, operand block and sources pass their
checks enters the matrix queue, and one whose format word is reserved, or whose handle the crew does not hold, traps with
nothing entered. A `GMLOOP` asks the three other members, and once they have agreed its parts enter their queues. -/
def Obligations.TileAndMultiplyCommands : Prop :=
  (∀ (s : State) (x : Args) (n : Fin 16) (l : Nat), noPorts x = true → (s.act x).head? = some l →
     let a := s.src32 x l x.a
     let size := tshBytes (s.curCrew.tshAll.getD n 0)
     (x.d = .t n → enters s (.tzero x) x qMat [] (.mat (.tzero n))) ∧
     (a.toNat % 16 = 0 → a.toNat < 2 ^ 20 → a.toNat + size ≤ s.curCrew.slines * 128 → a.toNat < s.curCrew.slines * 128 →
       (x.d = .t n → enters s (.tld x) x qMat [] (.mat (.tld n s.cur.core s.cur.slot a.toNat size))) ∧
       (x.b = .t n → enters s (.tst x) x qMat [] (.mat (.tst n s.cur.core s.cur.slot a.toNat size)))) ∧
     (s.fresh → ∀ i, (i = .tld x ∧ x.d = .t n) ∨ (i = .tst x ∧ x.b = .t n) →
       (a.toNat % 16 ≠ 0 → ∃ t, exec i s = .next t ∧ stopsWith s t (maskOf (s.act x)) ⟨4, a, 0, 0, 0⟩) ∧
       (a.toNat % 16 = 0 → a.toNat < 2 ^ 20 → s.curCrew.slines * 128 < a.toNat + size →
         ∃ t, exec i s = .next t ∧ stopsWith s t (maskOf (s.act x)) ⟨5, a, 0, 0, 0⟩))) ∧
  (∀ (s : State) (x : Args) (l : Nat), noPorts x = true → s.act x = [l] →
     let h := s.src32 x l x.a
     let f := (s.src32 x l x.b).toNat
     let k := s.curCrew
     let xc := s.core s.cur.core
     let ob := s.obVal noneTaken x l
     (∀ c, fmtOk k.ver f = true → xc.holdsHandle s.cur.slot h = true → obCmd f h ob 256 k.tshAll = some c →
       matCheck xc s.cur.slot k c true true = none → enters s (.mloop x) x qMat [] (.mat (.mloop c))) ∧
     (s.fresh →
       (fmtOk k.ver f = false → ∃ t, exec (.mloop x) s = .next t ∧ stopsWith s t (maskOf [l]) ⟨7, 1, 0, 0, 0⟩) ∧
       (fmtOk k.ver f = true → xc.holdsHandle s.cur.slot h = false →
         ∃ t, exec (.mloop x) s = .next t ∧ stopsWith s t (maskOf [l]) ⟨5, h, 0, 0, 0⟩) ∧
       (fmtOk k.ver f = true → k.gang = none →
         ∃ t, exec (.gmloop x) s = .next t ∧ stopsWith s t (maskOf [l]) ⟨7, 6, 0, 0, 0⟩)) ∧
     (∀ c gn, k.gang = some gn →
       let g := findD s.gangs gn default
       2 ≤ g.w → 2 ≤ g.h → k.grank = 0 → fmtOk k.ver f = true → xc.holdsHandle s.cur.slot h = true →
       obCmd f h ob 512 k.tshAll = some c →
       matCheck xc s.cur.slot k { c with m := min 256 c.m, n := min 256 c.n } true true = none →
       s.myQueries = [] → s.cur.again = false → ∃ t q1 q2 q3, exec (.gmloop x) s = .next t ∧
         (t.core s.cur.core).queries = xc.queries ++ [q1, q2, q3] ∧ q1.rank = 1 ∧ q2.rank = g.w ∧ q3.rank = g.w + 1 ∧
         (∀ q, (q = q1 ∨ q = q2 ∨ q = q3) → q.id = s.opSeq ∧ q.cmd = c ∧ q.answer = none ∧ q.ref = s.ref) ∧
         (t.bundle s.ref).waiting l = true) ∧
     (∀ q1 q2 q3 gn, k.gang = some gn → s.myQueries = [q1, q2, q3] →
       (∀ q, (q = q1 ∨ q = q2 ∨ q = q3) → q.answer = some none) →
       let g := findD s.gangs gn default
       (∀ e ∈ quads g.w, ∀ d ∈ quads g.w, e ≠ d → (g.at_ e.2.2).1 ≠ (g.at_ d.2.2).1) →
       ∃ t, exec (.gmloop x) s = .next t ∧ s.passed t ∧ ∀ e ∈ quads g.w, ∀ p, quadrant q1.cmd e.1 e.2.1 = some p →
         t.queue (g.at_ e.2.2).1 qMat = s.queue (g.at_ e.2.2).1 qMat ++ [.cmd ⟨q1.id, s.ref, x.sched.setw, [], false, false,
           none, 0, false, s.unsOf s.ref [l], [],
           .mat (.gpart p e.1 e.2.1 (g.at_ (e.1 * g.w)) (g.at_ e.2.1) (g.at_ e.2.2))⟩]))

/-- R91, R92, R285 and R286: `ACCALLOC` gives the crew free blocks, zeroed, under a handle that names them, or answers no
when they can never be free; the forms that name a handle enter the matrix queue when the crew holds it and the element
lies in its tile, and trap SEGV with the handle otherwise; `MWAIT` goes on when no matrix command of its bundle is
outstanding. -/
def Obligations.AccumulatorForms : Prop :=
  ∀ (s : State) (x : Args), noPorts x = true → s.gangClass = true →
    let xc := s.core s.cur.core
    let h := fun l => s.src32 x l x.a
    let at_ := fun l o => (bits (s.src32 x l o).toNat 15 8, bits (s.src32 x l o).toNat 7 0)
    let inTile := fun (h : Word) (e : Nat × Nat) => e.1 < 64 * (hRB h + 1) ∧ e.2 < 64 * (hCB h + 1)
    let quiet := fun (h : Word) => s.writersOf s.cur.core h = [] ∧ ∀ b ∈ hBlocks h, xc.accPoison.getLsbD b = false
    (∀ (l : Nat) (v : Fin 248) (p : Fin 8), s.act x = [l] → x.a = .v v → x.d = .p p → p ≠ 7 →
      let tm := s.src32 x l x.b
      let k := (hRB tm + 1) * (hCB tm + 1)
      (k ≤ (xc.freeFor s.cur.slot).length → ∃ t, exec (.accalloc x) s = .next t ∧ s.passed t ∧
        (t.lane s.ref l).pred p = true ∧ hRB ((t.lane s.ref l).v1 v) = hRB tm ∧ hCB ((t.lane s.ref l).v1 v) = hCB tm ∧
        ∀ b ∈ (xc.freeFor s.cur.slot).take k, ((t.lane s.ref l).v1 v).getLsbD b = true ∧
          find (t.core s.cur.core).accHeld b = some (s.cur.slot, (t.lane s.ref l).v1 v) ∧
          ∀ i, (t.core s.cur.core).accWord b i = 0) ∧
      ((xc.freeFor s.cur.slot).length < k →
        ((List.range 16).filter fun b => find xc.accRes b == some s.cur.slot).length + xc.pool.length < k →
        ∃ t, exec (.accalloc x) s = .next t ∧ s.passed t ∧ (t.lane s.ref l).pred p = false ∧
          (t.lane s.ref l).v1 v = (s.lane s.ref l).v1 v ∧ (t.core s.cur.core).accHeld = xc.accHeld)) ∧
    (∀ l, s.act x = [l] →
      (xc.holdsHandle s.cur.slot (h l) = true → enters s (.accfree x) x qMat [] (.mat (.accfree (h l)))) ∧
      (xc.holdsHandle s.cur.slot (h l) = false → s.fresh → ∀ i, (i = .accfree x ∨ i = .accrd x ∨ i = .accwr x) →
        ∃ t, exec i s = .next t ∧ stopsWith s t (maskOf [l]) ⟨5, h l, 0, 0, 0⟩)) ∧
    (s.act x ≠ [] → (∀ l ∈ s.act x, xc.holdsHandle s.cur.slot (h l) = true ∧ inTile (h l) (at_ l x.b)) →
      let elem := fun l => hElem (h l) (at_ l x.b).1 (at_ l x.b).2
      enters s (.accwr x) x qMat [] (.mat (.accwr ((s.act x).map fun l => ((elem l).1, (elem l).2, s.src32 x l x.c)))) ∧
      ((∀ l ∈ s.act x, quiet (h l)) →
        enters s (.accrd x) x qMat [] (.mat (.accrd ((s.act x).map fun l => (l, (elem l).1, (elem l).2)) x.d)))) ∧
    (∀ (ty : AccTy) (l : Nat) (xs : List (Nat × Xl)), s.act x = [l] →
      let hc := s.src32 x l x.b
      let rows := (List.range (64 * (hRB hc + 1))).map fun r =>
        (l, ((s.src64 x false l x.a).toNat + r * ((s.src32 x l x.c).toNat % 2 ^ 24)) % 2 ^ 64, accRowSize ty (64 * (hCB hc + 1)))
      xc.holdsHandle s.cur.slot hc = true → quiet hc → s.xlateAll s.ref .write rows = .ok xs →
      enters s (.accst ty x) x qMat ((xs.flatMap fun e => e.2.es).map fun e => (e.asid, e.va))
        (.mat (.accst ty hc (xs.map fun e => e.2.place)))) ∧
    (s.act x ≠ [] →
      (s.matOps s.ref = [] → ∃ t, exec (.mwait x) s = .next t ∧ s.passed t) ∧
      (s.matOps s.ref ≠ [] → ∃ t, exec (.mwait x) s = .next t ∧
        ∀ l ∈ s.lanes, (t.bundle s.ref).waiting l = true ∧ (t.lane s.ref l).pc = s.cur.pc))

/-- R279, R283 to R285: an entry that nothing holds back starts; one K-step of a multiplication gives every accumulator
element of its rows and columns its next value and takes the command one step further; a started `TZERO` is performed, its
tile zero and clean, and leaves the queue; a `GMLOOP` query is answered yes, pinning the handle, or no. -/
def Obligations.MatrixEngine : Prop :=
  (∀ (s : State) (core i : Nat) (c : Cmd), (s.queue core qMat)[i]? = some (.cmd c) → c.started = false →
    s.matFree core i c = true → s.cmdOwed c = false → (s.die (dieOf core)).slot = .run →
    ∃ t, exec (.matrixCommandStart core i) s = .next t ∧ (t.queue core qMat)[i]? = some (.cmd { c with started := true }) ∧
      t.mem = s.mem) ∧
  (∀ (s : State) (core : Nat) (c : Cmd) (m : MatCmd), s.queue core qMat = [.cmd c] → c.started = true → c.suspended = false →
    c.done = false → c.body = .mat (.mloop m) → c.step < m.s →
    let k := s.crew c.ref.core c.ref.slot
    srcHeld k m.asrc (fmtA m.fmt) c.step m.m = false → srcHeld k m.bsrc (fmtB m.fmt) c.step m.n = false →
    (hBlocks m.handle).length = (hRB m.handle + 1) * (hCB m.handle + 1) → m.m ≤ 64 * (hRB m.handle + 1) →
    m.n ≤ 64 * (hCB m.handle + 1) →
    ∃ t, exec (.matrixCommandComplete core 0) s = .next t ∧ t.queue core qMat = [.cmd { c with step := c.step + 1 }] ∧
      ∀ r < m.m, ∀ q < m.n,
        let e := hElem m.handle r q
        (t.core core).accWord e.1 e.2 = BitVec.ofNat 32 (kstep m.fmt ((s.core core).accWord e.1 e.2).toNat
          (s.srcRow (s.cmdReader qMat c) c.own m.asrc (fmtA m.fmt) c.step r)
          (s.srcRow (s.cmdReader qMat c) c.own m.bsrc (fmtB m.fmt) c.step q))) ∧
  (∀ (s : State) (core n : Nat) (c : Cmd), s.queue core qMat = [.cmd c] → c.started = true → c.suspended = false →
    c.done = false → c.body = .mat (.tzero n) → c.ref.core = core →
    ∃ t, exec (.matrixCommandComplete core 0) s = .next t ∧ t.queue core qMat = [] ∧ t.mem = s.mem ∧
      tileOf (t.crew core c.ref.slot) n = ⟨[], false⟩) ∧
  (∀ (s : State) (core : Nat) (q : Query) (rest : List Query), (s.core core).queries = q :: rest → q.answer = none →
    q.cmd.m = 0 →
    ((s.core q.core).holdsHandle q.slot q.cmd.handle = true → ∃ t, exec (.gmloopQueryAnswer core 0) s = .next t ∧
      (t.core core).queries = { q with answer := some none } :: rest ∧
      (q.id, q.slot, q.cmd.handle) ∈ (t.core q.core).pins) ∧
    ((s.core q.core).holdsHandle q.slot q.cmd.handle = false → ∃ t, exec (.gmloopQueryAnswer core 0) s = .next t ∧
      (t.core core).queries = { q with answer := some (some ⟨5, q.cmd.handle, 0, 0, 0⟩) } :: rest ∧
      ∀ j, (t.core j).pins = (s.core j).pins))

/-! ### Segments, contexts and cache pages (class 0xA) -/

/-- A manager form completes with a status and a value in its result register (Table 16-1). -/
def answers (s : State) (i : Instr) (x : Args) (st v : Nat) (holds : State → Prop) : Prop :=
  ∃ t, exec i s = .next t ∧ s.passed t ∧
    (∀ n : Fin 248, x.d = .v n → ∀ l ∈ s.act x, (t.lane s.ref l).v1 n = BitVec.ofNat 32 (st * 2 ^ 28 + v % 2 ^ 24)) ∧
    (∀ l k, l ∉ s.act x ∨ x.d ≠ .v k → (t.lane s.ref l).v1 k = (s.lane s.ref l).v1 k) ∧ holds t

/-- A block of `n` bytes stands in full lines of the own allocation at an address of the alignment given, and a lane knows
the newest bytes of it. -/
def blockAt (s : State) (l a n align : Nat) : Prop :=
  a % align = 0 ∧ a < 2 ^ 20 ∧ a + n ≤ s.curCrew.slines * 128 ∧ (∀ j ∈ linesTouched a n, s.curCrew.line j = .full) ∧
  s.knowsNewest s.ref l s.opSeq ((List.range n).map fun i => s.scrCell s.cur.core s.cur.slot (a + i))

/-- R151 to R154, R296 and R297: a new segment is open, the launch's account's, under the lowest free handle and a name of its
own; a seal makes its pages read-only; a retired segment that no link names is swept away with its pages; what names no
segment, or an ill-formed record, is refused with nothing changed. -/
def Obligations.SegmentForms : Prop :=
  (∀ (s : State) (x : Args) (l : Nat), noPorts x = true → s.gangClass = true → (s.core s.cur.core).pend = [] →
    s.act x = [l] → (∃ n : Fin 248, x.d = .v n) →
    let a := (s.src32 x l x.a).toNat
    let h := a % 2 ^ 20
    let v := s.curCrew.scratch.readNat a 64
    let from_ := bits v 467 448
    let expects : Bool := if v.testBit 468 then s.ownCtx from_ && decide (bits v 439 416 ≤ (s.ctx from_).len)
      else from_ == 0 && bits v 439 416 == 0
    (blockAt s l a 64 64 →
      (segImageOk v = true → expects = true → ∀ n, freeHandle s.segs = some n →
        answers s (.segnew x) x 0 n fun t => t.serial = (s.serial + 1) % 2 ^ 44 ∧ (∀ m, m ≠ n → find t.segs m = find s.segs m) ∧
          ∃ g, find t.segs n = some g ∧ g.state = 0 ∧ g.acct = s.myAcct % 2 ^ 32 ∧
            g.name = (s.serial * 2 ^ 20 + n) % 2 ^ 64 ∧ g.ntok = bits v 151 128 ∧ g.plAddr = bits v 383 320) ∧
      (segImageOk v = false ∨ expects = false →
        answers s (.segnew x) x 4 0 fun t => t.segs = s.segs ∧ t.serial = s.serial)) ∧
    (find s.segs h = none → answers s (.segseal x) x 4 0 (fun t => t.segs = s.segs) ∧
      answers s (.segretire x) x 4 0 fun t => t.segs = s.segs) ∧
    ∀ g, find s.segs h = some g →
      (g.acct ≠ s.myAcct → answers s (.segseal x) x 4 0 (fun t => t.segs = s.segs) ∧
        answers s (.segretire x) x 4 0 fun t => t.segs = s.segs) ∧
      (g.acct = s.myAcct → ∀ ns, s.pageList s.cur.core g = .ok ns →
        (g.state = 0 → (g.ev = true → (find s.ctxs g.ectx).isSome = true) →
          (∀ n ∈ ns, ∃ p, s.page n = some p ∧ p.ofSeg = true ∧ p.owner = h) →
          answers s (.segseal x) x 0 0 fun t => (t.seg h).state = 1 ∧
            (t.seg h).postmark = (if g.ev then (s.ident g.ectx g.ebase).toNat else 0) ∧
            ∀ n ∈ ns, ∃ p, t.page n = some p ∧ p.ro = true) ∧
        answers s (.segretire x) x 0 0 fun t => (t.seg h).state = 2 ∧ (t.seg h).name = g.name)) ∧
  (∀ (s : State) (h : Nat) (g : Seg), find s.segs h = some g → g.state = 2 →
    (∀ c ∈ s.ctxs, ∀ k ∈ c.2.links, k.seg ≠ h) →
    ∃ t, exec (.segretireSweep h) s = .next t ∧ find t.segs h = none ∧
      ∀ n p, s.page n = some p → p.ofSeg = true → p.owner = h → t.page n = none)

/-- R156 to R160, R168 to R170, R298 to R300: contexts are made, forked, flattened, linked, unlinked and freed, whatever
links they have; a `LINK` whose repair set is not empty sends its records and mints their weight.

R158 and R397: `FORK` of a context of depth 4 traps CTXDEPTH with the context's handle in TINFO0. -/
def Obligations.ContextForms : Prop :=
  ∀ (s : State) (x : Args) (l : Nat), noPorts x = true → s.gangClass = true → (s.core s.cur.core).pend = [] →
    s.act x = [l] → (∃ n : Fin 248, x.d = .v n) →
    let a := (s.src32 x l x.a).toNat
    let h := a % 2 ^ 20
    let c := s.ctx h
    let v := s.curCrew.scratch.readNat a 64
    (blockAt s l a 64 64 →
      (ctxBlockOk v = false → answers s (.ctxnew x) x 4 0 fun t => t.ctxs = s.ctxs) ∧
      (ctxBlockOk v = true → ∀ n xs, freeHandle s.ctxs = some n →
        s.xlateAll s.ref .read ((List.range (bits v 24 16 / 2)).map fun i => (l, bits v 255 192 + 4 * i, 4)) = .ok xs →
        (∀ e ∈ xs, (∀ tl ∈ e.2.es, tl.far = false) ∧ ∀ c ∈ e.2.cells, s.refetching c = none) →
        answers s (.ctxnew x) x 0 n fun t => find s.ctxs n = none ∧ (∀ m, m ≠ n → find t.ctxs m = find s.ctxs m) ∧
          ∃ y, find t.ctxs n = some y ∧ y.shape = (bits v 7 0, bits v 15 8, bits v 24 16, bits v 27 25, bits v 29 28) ∧
            y.len = 0 ∧ y.depth = 1 ∧ y.parent = none ∧ y.links = [] ∧ y.acct = s.myAcct ∧ y.policy = bits v 63 32 ∧
            y.rdom = bits v 75 64 ∧ y.repent = bits v 191 128 ∧ y.rot.length = bits v 24 16 / 2)) ∧
    (s.ownCtx h = false → ∀ i, (i = .ctxfree x ∨ i = .fork x ∨ i = .ctxflat x ∨ i = .link x ∨ i = .unlink x) →
      answers s i x 4 0 fun t => t.ctxs = s.ctxs) ∧
    (s.ownCtx h = true →
      (c.inflight ≠ 0 → answers s (.ctxfree x) x 3 0 (fun t => t.ctxs = s.ctxs) ∧
        answers s (.ctxflat x) x 3 0 fun t => t.ctxs = s.ctxs) ∧
      (c.children ≠ 0 → answers s (.ctxfree x) x 3 0 fun t => t.ctxs = s.ctxs) ∧
      (∀ ns, s.linkPages s.cur.core (c.links.map fun k => k.seg) = .ok ns →
        (c.inflight = 0 → c.children = 0 → answers s (.ctxfree x) x 0 0 fun t => find t.ctxs h = none ∧
          (∀ p, c.parent = some p → p ≠ h → (t.ctx p).children = (s.ctx p).children - 1) ∧
          (∀ n p, s.page n = some p → p.ofSeg = false → p.owner = h → t.page n = none) ∧
          ∀ n p, s.page n = some p → p.ofSeg = true → n ∉ ns → t.page n = some p) ∧
        (c.depth < 4 → ∀ n, freeHandle s.ctxs = some n → answers s (.fork x) x 0 n fun t =>
          (t.ctx n).parent = some h ∧ (t.ctx n).depth = c.depth + 1 ∧ (t.ctx n).len = c.len ∧ (t.ctx n).shape = c.shape ∧
          (t.ctx n).links = c.links ∧ (t.ctx n).children = 0 ∧ (t.ctx h).children = c.children + 1 ∧ (t.ctx h).len = c.len ∧
          (∀ m, m ∉ ns → t.page m = s.page m) ∧
          (ns.Nodup → ∀ m ∈ ns, ∀ p, s.page m = some p → p.rc < 65535 → t.page m = some { p with rc := p.rc + 1 }))) ∧
      (4 ≤ c.depth → s.fresh →
        ∃ t, exec (.fork x) s = .next t ∧ stopsWith s t (maskOf [l]) ⟨0x0C, BitVec.ofNat 32 h, 0, 0, 0⟩) ∧
      (c.inflight = 0 → c.parent = none → answers s (.ctxflat x) x 0 0 fun t => t.ctxs = s.ctxs) ∧
      (c.inflight = 0 → ∀ p u, c.parent = some p → p ≠ h → s.copySlots s.cur.core h (s.missingSlots h) = .ok u →
        answers s (.ctxflat x) x 0 0 fun t =>
          (t.ctx h).parent = none ∧ (t.ctx h).depth = 1 ∧ (t.ctx h).len = c.len ∧ (t.ctx h).links = c.links ∧
          (t.ctx h).ovSlots = (u.ctx h).ovSlots ∧ t.pages = u.pages ∧ t.mem = u.mem ∧
          (t.ctx p).children = (s.ctx p).children - 1) ∧
      (let sg := (s.src32 x l x.b).toNat % 2 ^ 20
       let g := s.seg sg
       let b := (s.src32 x l x.c).toNat % 2 ^ 24
       (b < c.len → answers s (.link x) x 4 0 fun t => t.ctxs = s.ctxs) ∧
       let pred := (s.ident h b).toNat
       let linked := fun (t : State) => (t.ctx h).len = b + g.ntok ∧
         (t.ctx h).links = c.links ++ [⟨b, sg, g.name, g.ntok, pred⟩] ∧
         (t.ctx h).ovSlots = c.ovSlots.filter fun e => decide (e.1 < c.len)
       ((find s.segs sg).isSome = true → c.linkable g b = true → ∀ ns fl, s.pageList s.cur.core g = .ok ns →
         s.flaggedFor s.cur.core g pred c.policy = .ok fl →
         let js := repairSet pred g.postmark c.policy g.ntok fl
         (js = [] → answers s (.link x) x 0 0 fun t => linked t ∧ (t.ctx h).pending = c.pending) ∧
         (js ≠ [] → s.curCrew.det = false → ∀ ph u w, (s.die (dieOf s.cur.core)).phOf (BitVec.ofNat 64 c.repent) = some ph →
           let rs := (repairChunks js (js.length + 1)).map
             (repairRec h sg b c (s.released s.ref (s.act x) (s.opSeq + 1)))
           s.linkMint c.rdom (2 ^ 24 * rs.length) = some u → u.placeRecs (dieOf s.cur.core) ph rs = some w →
           answers s (.link x) x 0 js.length fun t => linked t ∧ (t.ctx h).pending = true ∧ t.doms = w.doms))) ∧
      (let b := (s.src32 x l x.b).toNat % 2 ^ 24
       (c.links.find? (fun k => k.base == b) = none ∨ 1 < c.depth ∨ c.children ≠ 0 →
         answers s (.unlink x) x 4 0 fun t => t.ctxs = s.ctxs) ∧
       ∀ k, c.links.find? (fun k => k.base == b) = some k → c.depth ≤ 1 → c.children = 0 →
         (c.inflight ≠ 0 → answers s (.unlink x) x 3 0 fun t => t.ctxs = s.ctxs) ∧
         (c.inflight = 0 → ∀ ns, s.linkPages s.cur.core [k.seg] = .ok ns →
           let c1 := { c with links := c.links.filter fun e => e.base != b }
           answers s (.unlink x) x 0 c1.reach fun t =>
             (t.ctx h).links = c1.links ∧ (t.ctx h).len = c1.reach ∧
             (t.ctx h).ovSlots = (c.ovSlots.filter fun e => !(decide (b ≤ e.1) && decide (e.1 < b + k.ntok))) ∧
             ∀ n p, s.page n = some p → p.ofSeg = true → n ∉ ns → n ∉ c.ovPages.map (·.2) → t.page n = some p)))

/-- R174, R175, R301, R305 and R306: an `APPEND` that opens a position makes the context one longer and returns its new
length; `SPECB` opens a journal, `SPECA` ends it, and `SPECR n` takes the last n positions back; `CTXQ` reads a context's
length, depth, links and parent, and all ones of one that is not the launch's account's.

R174 and R397: an `APPEND` that finds the journal full traps JOURNAL with the context's handle in TINFO0. -/
def Obligations.AppendAndSpeculation : Prop :=
  ∀ (s : State) (x : Args) (l : Nat), noPorts x = true → s.gangClass = true → (s.core s.cur.core).pend = [] →
    s.act x = [l] → (∃ n : Fin 248, x.d = .v n) →
    let h := (s.src32 x l x.a).toNat % 2 ^ 20
    let c := s.ctx h
    let only := fun (t : State) => ∀ m, m ≠ h → find t.ctxs m = find s.ctxs m
    (s.ownCtx h = false → ∀ i, (i = .append x ∨ i = .specb x ∨ i = .speca x ∨ i = .specr x) →
      answers s i x 4 0 fun t => t.ctxs = s.ctxs) ∧
    (s.ownCtx h = true →
      (let a := (s.src32 x l x.b).toNat
       let ctl := (s.src32 x l x.c).toNat
       let blk := s.curCrew.scratch.readNat a (16 + 2 * c.kb)
       blockAt s l a (16 + 2 * c.kb) 16 → c.appendOk ctl (bits blk 127 32) = true → ctl.testBit 16 = true → c.children = 0 →
       (256 ≤ (c.journal.getD []).length → s.fresh → ∃ t, exec (.append x) s = .next t ∧
         stopsWith s t (maskOf [l]) ⟨0x0D, BitVec.ofNat 32 h, 0, 0, 0⟩) ∧
       ((c.journal.getD []).length < 256 → ∀ u, s.doAppend s.cur.core h ctl (bits blk 31 0) (leBytes (blk / 2 ^ 128) (2 * c.kb)) = .ok u →
         answers s (.append x) x 0 (c.len + 1) fun t => (t.ctx h).len = c.len + 1 ∧ only t ∧
           find (t.ctx h).toks c.len = some (bits blk 31 0) ∧
           (t.ctx h).hasSlot c.len (bits ctl 7 0) (bits ctl 15 8) = true ∧ (t.ctx h).links = c.links)) ∧
      (c.children ≠ 0 → c.journal.isSome = true → answers s (.speca x) x 3 0 fun t => t.ctxs = s.ctxs) ∧
      (c.children = 0 →
        (c.journal = none → answers s (.specb x) x 0 0 fun t => only t ∧ t.ctx h = { c with journal := some [] }) ∧
        ∀ es, c.journal = some es →
          (answers s (.speca x) x 0 0 fun t => only t ∧ (t.ctx h).journal = none ∧ (t.ctx h).len = c.len ∧
            (t.ctx h).links = c.links) ∧
          let n := (s.src32 x l x.b).toNat
          (es.length < n → answers s (.specr x) x 4 0 fun t => t.ctxs = s.ctxs) ∧
          let len := ((es[es.length - n]?).map fun e => bits e.toNat 71 48).getD c.len
          (n ≤ es.length → (∀ k ∈ s.takenLens h, k ≤ len) →
            answers s (.specr x) x 0 len fun t => only t ∧
              t.ctx h = { c with journal := some (es.take (es.length - n)), len := len }))) ∧
    (∀ (v : Fin 248), x.d = .v v → (s.src32 x l x.a).toNat = h → (s.src32 x l x.b).toNat = 1 →
      writes64 s (.ctxq x) x v (fun _ => if s.ownCtx h then
        BitVec.ofNat 64 (c.len % 2 ^ 24 + c.depth * 2 ^ 24 + c.links.length * 2 ^ 27 + c.parent.getD 0 * 2 ^ 36 +
          if c.parent.isSome then 2 ^ 56 else 0) else BitVec.allOnes 64))

/-- R176 to R179, R307, R308, R364 and R387: cache pages are allocated all or none, freed, and moved between the tiers; a
visit of the tier mover demotes pages of an account over its quota, those in both tiers first. -/
def Obligations.CachePageForms : Prop :=
  (∀ (s : State) (x : Args) (l : Nat), noPorts x = true → s.gangClass = true → (s.core s.cur.core).pend = [] →
    s.act x = [l] → (∃ n : Fin 248, x.d = .v n) →
    let n := (s.src32 x l x.a).toNat
    (s.page n = none → ∀ i, (i = .pfree x ∨ i = .promote x ∨ i = .demote x) → answers s i x 4 0 fun t => t.pages = s.pages) ∧
    (∀ p, s.page n = some p → p.acct = s.myAcct →
      (p.tier = .promoting ∨ p.tier = .demoting → answers s (.pfree x) x 3 0 fun t => t.pages = s.pages) ∧
      (p.tier = .near → p.rc = 0 →
        answers s (.pfree x) x 0 0 fun t => t.page n = none ∧ ∀ m, m ≠ n → t.page m = s.page m) ∧
      (p.tier = .far → ∀ u, s.promoteTo n p = .ok u → answers s (.promote x) x 0 0 fun t =>
        (∃ q, t.page n = some q ∧ q.tier = .promoting ∧ q.farF = p.farF ∧ q.nearF.isSome = true) ∧
        ∀ m, m ≠ n → t.page m = s.page m) ∧
      (p.tier = .both → answers s (.demote x) x 0 0 fun t => t.page n = some { p with tier := .far, nearF := none } ∧
        ∀ m, m ≠ n → t.page m = s.page m) ∧
      (p.tier = .near → s.charge p.acct false 1 = none → answers s (.demote x) x 1 0 fun t => t.pages = s.pages)) ∧
    (∀ (p : Fin 8), x.c = .p p → p ≠ 7 → s.hasCrew s.cur.core s.cur.slot = true →
      let v := (s.src64 x false l x.a).toNat
      let k := bits (v / 2 ^ 32) 7 0 + 1
      let ofSeg := bits v 21 20 == 1
      let a := (s.src32 x l x.b).toNat
      a % 4 = 0 → a < 2 ^ 20 → a + 4 * k ≤ s.curCrew.slines * 128 →
      (∀ j ∈ linesTouched a (4 * k), s.curCrew.line j ≠ .poisoned) → s.allocable (v % 2 ^ 32) (v / 2 ^ 32) = true →
      let r := s.allocPages (!(v / 2 ^ 32).testBit 8) ofSeg s.myAcct (v % 2 ^ 20) (s.cursorOf ofSeg (v % 2 ^ 20)) k
      (∀ u cur ns, r = .ok (u, cur, ns) → answers s (.palloc x) x 0 k fun t => ns.length = k ∧ t.pages = u.pages ∧
        (t.lane s.ref l).pred p = true ∧
        wroteScratch s.curCrew.scratch t.curCrew.scratch a (ns.flatMap fun n => leBytes n 4)) ∧
      (∀ st, r = .error st → answers s (.palloc x) x st 0 fun t => t.pages = s.pages ∧ (t.lane s.ref l).pred p = false ∧
        t.curCrew.scratch = s.curCrew.scratch))) ∧
  (∀ (s : State) (n : Nat) (p : Page), s.page n = some p →
    ∀ f i, p.nearF = some f → p.farF = some i → (∀ e ∈ s.pages, e.2.acct = p.acct → e.1 = n) →
    (p.tier = .promoting → ∃ t, exec (.promotionComplete n) s = .next t ∧ (∀ m, m ≠ n → t.page m = s.page m) ∧
      if (s.readFar f i).overQuota p.acct = 0 then t.page n = some { p with tier := .both } ∧ t.mem = (s.readFar f i).mem
      else t.page n = some { p with tier := .far, nearF := none }) ∧
    (p.tier = .demoting → ∃ t, exec (.demotionComplete n) s = .next t ∧
      t.page n = some { p with tier := .far, nearF := none } ∧ ∀ m, m ≠ n → t.page m = s.page m)) ∧
  (∀ (s : State) (acct n : Nat) (p : Page), s.page n = some p → p.tier = .both → p.acct = acct → s.overQuota acct = 1 →
    ((s.pages.filter fun e => e.2.acct == acct && e.2.tier == .both).map (·.1)).head? = some n →
    ∃ t, exec (.tierMoverVisit acct) s = .next t ∧ t.page n = some { p with tier := .far, nearF := none } ∧
      ∀ m, m ≠ n → t.page m = s.page m)

/-- R161 to R165, R171, R302 to R304: an `ATTN` whose blocks pass their checks enters the attention queue and its context
counts it; the command takes its context's length when it starts; positions beyond it score minus infinity; a `PATCH`
enters the queue, and when it is performed writes its slot and returns its status. -/
def Obligations.AttentionForms : Prop :=
  (∀ (s : State) (x : Args) (l : Nat) (gated : Bool), noPorts x = true → s.gangClass = true → s.act x = [l] → x.d = .zero →
    let ob := leNat ((s.rdGroup s.ref noneTaken 4 l x.b).flatMap fun w => leBytes w.toNat 4)
    let c := bits ob 19 0
    let a := (s.src32 x l x.a).toNat
    let qb := s.curCrew.scratch.readNat a (16 + 4 * (s.ctx c).hdim)
    (s.ownCtx c = false → s.fresh → ∀ o, ∃ t, exec (.attn o gated x) s = .next t ∧
      stopsWith s t (maskOf [l]) ⟨5, BitVec.ofNat 32 c, 0, 0, 0⟩) ∧
    (s.ownCtx c = true → (s.core s.cur.core).pend = [] → blockAt s l a (16 + 4 * (s.ctx c).hdim) 16 →
      ∀ o, attnOk (s.ctx c) o x.d s.curCrew.nreg ob qb = true → ∀ out,
        s.attnOut x.d [l] l (bits qb 95 64) (attnWords o (s.ctx c).hdim (bits ob 87 64) (bits ob 120 96)) = .ok out →
        ∃ t m, exec (.attn o gated x) s = .next t ∧ s.passed t ∧
          t.queue s.cur.core qAttn = s.queue s.cur.core qAttn ++
            [.cmd ⟨s.opSeq, s.ref, x.sched.setw, [], false, false, none, 0, false, s.unsOf s.ref [l], [], .attn m⟩] ∧
          m.ctx = c ∧ m.o = o ∧ m.gated = gated ∧ m.layer = bits ob 39 32 ∧ m.head = bits ob 47 40 ∧ m.lo = bits ob 87 64 ∧
          m.hi = bits ob 120 96 ∧ m.next = m.lo ∧ m.started = none ∧ m.pq = bits qb 23 0 ∧ m.out = out ∧
          (t.ctx c).inflight = (s.ctx c).inflight + 1 ∧ (t.ctx c).len = (s.ctx c).len ∧ t.mem = s.mem ∧
          t.curCrew.scratch = s.curCrew.scratch)) ∧
  (∀ (s : State) (core : Nat) (c : Cmd) (a : AttnCmd) (rest : List QEnt), s.queue core qAttn = .cmd c :: rest →
    c.body = .attn a → c.suspended = false → (s.die (dieOf core)).slot = .run →
    (a.started = none → a.gated = false → s.cmdOwed c = false → ∃ t, exec (.attnStart core) s = .next t ∧
      t.queue core qAttn = .cmd { c with
        started := true, got := c.got.join (s.gateView a), body := .attn { a with started := some ((s.ctx a.ctx).len, s.chain a.ctx 4) } } :: rest) ∧
    (∀ len chain, a.started = some (len, chain) → a.o = false → a.dst = .zero → len ≤ a.next → a.next < a.hi →
      s.hasCrew a.out.1 a.out.2.1 = true →
      let n := (a.window (s.ctx a.ctx).tpp).length
      ∃ t, exec (.attnWindowComplete core) s = .next t ∧
        wroteScratch (s.scr a.out.1 a.out.2.1) (t.scr a.out.1 a.out.2.1) (a.out.2.2 + 4 * a.words)
          ((List.replicate n 0xFF800000).flatMap fun w => leBytes w 4) ∧
        (a.next + n < a.hi → t.queue core qAttn =
          .cmd { c with body := .attn { a with poison := false, words := a.words + n, next := a.next + n } } :: rest) ∧
        (a.hi ≤ a.next + n → rest = [] → t.queue core qAttn = []))) ∧
  (∀ (s : State) (x : Args) (l : Nat) (v : Fin 248), noPorts x = true → s.gangClass = true → s.act x = [l] → x.d = .v v →
    let c := (s.src32 x l x.a).toNat % 2 ^ 20
    let a := (s.src32 x l x.b).toNat
    let p := (s.src64 x false l x.c).toNat
    s.ownCtx c = true → a % 16 = 0 → a < 2 ^ 20 → a < s.curCrew.slines * 128 →
    a + 2 * (s.ctx c).kb ≤ s.curCrew.slines * 128 →
    enters s (.patch x) x qAttn [] (.patch c (some (s.ctx c).kb) s.cur.core s.cur.slot a (bits p 23 0) (bits p 39 32)
      (bits p 47 40) l x.d)) ∧
  (∀ (s : State) (core : Nat) (c : Cmd) (v : Fin 248) (ctx lane sl off p l h : Nat) (kb : Option Nat),
    s.queue core qAttn = [.cmd c] → c.suspended = false → s.cmdOwed c = false → (s.die (dieOf core)).slot = .run →
    c.body = .patch ctx kb core sl off p l h lane (.v v) → s.hasBundle c.ref = true → c.ref.core = core →
    let x := s.ctx ctx
    (find s.ctxs ctx = none → ∃ t, exec (.patchPerform core) s = .next t ∧ t.queue core qAttn = [] ∧ t.mem = s.mem ∧
      (t.lane c.ref lane).v1 v = BitVec.ofNat 32 (4 * 2 ^ 28)) ∧
    (∀ pg q cells, (find s.ctxs ctx).isSome = true → x.acct = (s.crew core c.ref.slot).acct → kb = some x.kb →
      (∀ j ∈ linesTouched off (2 * x.kb), s.line core sl j = .full) → x.patchable p l h = true →
      x.ovPage (x.window p) l h = some pg → s.page pg = some q → q.tier = .near →
      s.slotCells core ctx pg p .write = .ok cells →
      ∃ t, exec (.patchPerform core) s = .next t ∧ t.queue core qAttn = [] ∧ (t.lane c.ref lane).v1 v = 0 ∧
        t.mem = s.mem.scatter (cells.zip (s.placeRead (s.cmdReader qAttn c) (.scr core sl off) (2 * x.kb))) ∧ (t.ctx ctx).hasSlot p l h = true))

/-! ### Copies (class 0xB) -/

/-- R288 to R291: a copy or a fill whose addresses are aligned and reachable in every lane, and whose lanes have the weight it
carries, enters the copy queue it names, with a piece, a receipt and a share for each lane; so does a tiled copy, with its
units and its lane; a layout record that is ill-formed, or whose source touches too many pages, traps FMTDIV; and a transfer
that lands writes its bytes, fills the line when the copy carries `.F`, and completes the command. That a `TCPY`'s addresses
are multiples of its element is the model's choice (assumption 57). -/
def Obligations.CopyForms : Prop :=
  (∀ (s : State) (m : CopyMod) (so dof : BitVec 16) (x : Args) (d p : Nat → Place × List Tlb)
    (rps : List (Nat × Nat × Nat × Nat)), noPorts x = true → s.act x ≠ [] →
    let w := copyBytesW m.width
    let base := fun (global : Bool) l o => if global then (s.src64 x false l o).toNat else (s.src32 x l o).toNat
    let dst := fun (global : Bool) l => baseOff global (base global l x.a) dof
    let src := fun l => baseOff m.dir.srcGlobal (base m.dir.srcGlobal l x.b) so
    let keys := fun (es : List Tlb) => es.map fun e => (e.asid, e.va)
    let receipt := fun l => if x.c = .zero then none else some (s.src32 x l x.c).toNat
    let share := fun l => if m.weight = true ∧ l ∈ s.act x then shareOf (if x.d = .zero then 1 else (s.src32 x l x.d).toNat) else 0
    let lanes := (s.act x).map fun l =>
      (⟨l, (rps.find? fun r => r.1 == l).map (·.2), share l, (s.lane s.ref l).wd.toNat⟩ : CLane)
    (∀ l ∈ s.act x, ∀ r, receipt l = some r → r % 8 = 0) →
    s.receiptPlaces ((s.act x).filterMap fun l => (receipt l).map fun r => (l, r)) = .ok rps →
    (m.weight = true → ∀ l ∈ s.act x, share l < (s.lane s.ref l).wt.toNat) →
    ((∀ l ∈ s.act x, dst m.dir.dstGlobal l % w = 0 ∧ src l % w = 0 ∧
        s.range m.dir.dstGlobal .write l (dst m.dir.dstGlobal l) w = .ok (d l) ∧
        s.range m.dir.srcGlobal .read l (src l) w = .ok (p l)) →
      entersWith s (.cpy m so dof x) x m.queue (keys ((s.act x).flatMap fun l => (d l).2 ++ (p l).2))
        (.copy ⟨m.full, (s.act x).any fun l => (p l).2.any Tlb.far,
          (s.act x).map fun l => ⟨l, some (p l).1, [], (d l).1, w, src l⟩, lanes, [], [], 0, w, modByte m, none,
          (s.act x).map fun l => ⟨l, src l, dst m.dir.dstGlobal l, w, (receipt l).getD 0⟩⟩) share) ∧
    (∀ n : BitVec 16, m.dir = .ss ∨ m.dir = .gs →
      let g := m.dir == .gs
      let n' := n.toNat * w
      (∀ l ∈ s.act x, dst g l % w = 0 ∧ s.range g .write l (dst g l) n' = .ok (d l)) →
      entersWith s (.cpyfill m n dof x) x m.queue (keys ((s.act x).flatMap fun l => (d l).2))
        (.copy ⟨m.full, false,
          ((s.act x).map fun l => (⟨l, none, s.fillBytes noneTaken x m.width l, (d l).1, n', 0⟩ : CUnit)).filter fun u => u.n != 0,
          lanes, [], [], 0, w, modByte m, none,
          (s.act x).map fun l => ⟨l, 0, dst g l, n', (receipt l).getD 0⟩⟩) share)) ∧
  (∀ (s : State) (m : CopyMod) (x : Args) (l c k off : Nat) (es : List Tlb) (sps : List (Nat × Place × List Tlb)),
    noPorts x = true → m.weight = false → s.act x = [l] → (s.core s.cur.core).pend = [] → m.dir.dstGlobal = false →
    let lr := (s.src32 x l x.c).toNat
    let r := s.curCrew.scratch.readNat lr 64
    let dst := (s.src32 x l x.a).toNat
    let src := if m.dir.srcGlobal then (s.src64 x false l x.b).toNat else (s.src32 x l x.b).toNat
    blockAt s l lr 64 64 →
    (s.fresh → (lrValid r = false ∨ s.lrPages r m.dir.srcGlobal src = false ∧ s.lrSources r m.dir.srcGlobal l src = .ok sps) →
      ∃ t, exec (.tcpy m x) s = .next t ∧ stopsAt s t (maskOf [l]) ⟨7, 3, 0, 0, 0⟩) ∧
    (lrValid r = true → s.lrPages r m.dir.srcGlobal src = true → r.testBit 79 = false → dst % lrElem r = 0 → src % lrElem r = 0 →
      s.range false .write l dst (lrCount r * lrElem r) = .ok (.scr c k off, es) →
      s.lrSources r m.dir.srcGlobal l src = .ok sps →
      ∃ (y : Copy) (held : List (Nat × Nat)), enters s (.tcpy m x) x m.queue held (.copy y) ∧ y.full = m.full ∧ y.owed = [] ∧ y.landed = 0 ∧
        y.units.length = lrCount r ∧ ∀ n (u : CUnit), y.units[n]? = some u → u.n = lrElem r ∧ u.lane = l ∧
          u.dst = .scr c k (off + lrOff r n) ∧ (sps.map fun p => some p.2.1)[n]? = some u.src)) ∧
  (∀ (s : State) (core q c k off n l dom : Nat) (cs : List Nat) (cmd : Cmd) (y : Copy), q < 4 →
    s.queue core q = [.cmd cmd] → cmd.body = .copy y → cmd.suspended = false → (s.die (dieOf core)).slot = .run →
    s.cmdOwed cmd = false → y.owed = [] → y.lanes = [⟨l, none, 0, dom⟩] → s.hasCrew c k = true → 0 < n →
    off % 128 + n ≤ 128 → cs.length = n → (∀ p ∈ cs, s.cellPoison p = false ∧ s.refetching p = none ∧
      ∀ e, (findD s.vers p []).head? = some e → (s.cmdReader q cmd).sees e = true) →
    (∃ va uns a, y.units = [⟨l, some (.phys cs va uns false), [], .scr c k off, n, a⟩]) →
    ∃ t, exec (.copyTransferLand core q) s = .next t ∧ t.queue core q = [] ∧ t.mem = s.mem ∧
      wroteScratch (s.scr c k) (t.scr c k) off (s.cells cs) ∧
      t.line c k (off / 128) = if y.full = true ∧ s.line c k (off / 128) = .empty then .full else s.line c k (off / 128))

/-! ### Tasks and quiet domains (class 0xC) -/

/-- R127 to R133, R309, R310 and R313: a `SPAWN` of an entry that is registered gives its share with its record and answers
0; a lane that has no more than the share borrows, and waits; `SPLITW` moves a share to a live lane of its domain, and the
share of any other goes back to the root; `RETW` returns weight and keeps at least 1; `MSEND` leaves a message outstanding with
its share, and its delivery writes it and returns that. What returns, covers the lane's accesses before it (R131). -/
def Obligations.WeightForms : Prop :=
  (∀ (s : State) (x : Args) (l : Nat) (v : Fin 248), noPorts x = true → s.gangClass = true → s.curCrew.det = false →
    (s.core s.cur.core).pend = [] → s.act x = [l] → x.d = .v v →
    let z := s.lane s.ref l
    let res := fun (t : State) => (t.lane s.ref l).v1 v
    (let share := shareOf (s.src32 x l x.c).toNat
     let d := s.die (dieOf s.cur.core)
     ∀ ph, d.phOf (s.src64 x false l x.b) = some ph →
      (share < z.wt.toNat → s.spillHosted = false → s.phRoom (dieOf s.cur.core) ph = true → d.spillWait = [] →
        ∃ t, exec (.spawn x) s = .next t ∧ s.passed t ∧ res t = 0 ∧ (t.lane s.ref l).wt = z.wt - BitVec.ofNat 32 share ∧
          (t.die (dieOf s.cur.core)).arriving =
            d.arriving ++ [⟨s.ref, l, ph,
              ⟨s.rdGroup s.ref noneTaken 8 l x.a, share, z.wd.toNat, s.released s.ref [l] s.opSeq⟩, false⟩]) ∧
      (z.wt.toNat ≤ share → s.cur.again = false → ∃ t, exec (.spawn x) s = .next t ∧
        t.qmsgs = s.qmsgs ++ [⟨.borrow, z.wd.toNat, z.wt.toNat, s.ref, l, false, []⟩] ∧ (t.lane s.ref l).wt = z.wt ∧
        (t.bundle s.ref).waiting l = true)) ∧
    (s.fresh → (s.die (dieOf s.cur.core)).phOf (s.src64 x false l x.b) = none →
      ∃ t, exec (.spawn x) s = .next t ∧ stopsWith s t (maskOf [l]) (segvInfo (s.src64 x false l x.b).toNat 0)) ∧
    (let dest := (s.src32 x l x.b).toNat % 32
     let share := shareOf (s.src32 x l x.a).toNat
     dest ≠ l → (s.bundle s.ref).live.getLsbD dest = true → (s.lane s.ref dest).wd = z.wd → share < z.wt.toNat →
      (s.lane s.ref dest).wt.toNat + share < 2 ^ 32 →
      ∃ t, exec (.splitw x) s = .next t ∧ s.passed t ∧ res t = BitVec.ofNat 32 share ∧ t.qmsgs = s.qmsgs ∧
        (t.lane s.ref l).wt = z.wt - BitVec.ofNat 32 share ∧
        (t.lane s.ref dest).wt = (s.lane s.ref dest).wt + BitVec.ofNat 32 share) ∧
    (let dest := (s.src32 x l x.b).toNat % 32
     let share := shareOf (s.src32 x l x.a).toNat
     (dest = l ∨ (s.bundle s.ref).live.getLsbD dest = false ∨ (s.lane s.ref dest).wd ≠ z.wd) → share < z.wt.toNat →
      ∃ t, exec (.splitw x) s = .next t ∧ s.passed t ∧ res t = 0 ∧
        t.qmsgs = s.qmsgs ++ [⟨.ret, z.wd.toNat, share, ⟨0, 0, 0⟩, 0, false, s.covers s.ref l⟩] ∧
        (t.lane s.ref l).wt = z.wt - BitVec.ofNat 32 share)) ∧
  (∀ (s : State) (x : Args) (v : Fin 248), noPorts x = true → s.gangClass = true → (s.core s.cur.core).pend = [] → x.d = .v v →
    let z := s.lane s.ref
    (let amt := fun l => min (s.src32 x l x.a).toNat ((z l).wt.toNat - 1)
     ∃ t, exec (.retw x) s = .next t ∧ s.passed t ∧
      (∀ l ∈ s.act x, (t.lane s.ref l).v1 v = BitVec.ofNat 32 (amt l) ∧
        (t.lane s.ref l).wt = (z l).wt - BitVec.ofNat 32 (amt l)) ∧
      t.qmsgs = s.qmsgs ++ ((s.act x).filter fun l => amt l != 0).map fun l =>
        ⟨.ret, (z l).wd.toNat, amt l, ⟨0, 0, 0⟩, 0, false, s.covers s.ref l⟩) ∧
    (let share := fun l => shareOf (s.src32 x l x.c).toNat
     let d := s.die (dieOf s.cur.core)
     ∀ ph : Nat → Nat, s.curCrew.det = false → s.spillHosted = false → d.spillWait = [] →
      (∀ l ∈ s.act x, d.phOf (s.src64 x false l x.b) = some (ph l) ∧ share l < (z l).wt.toNat ∧
        (findD d.phs (ph l) default).spilled = [] ∧
        (findD d.phs (ph l) default).recs.length + d.coming (ph l) + (s.act x).length ≤ 32) →
      ∃ t, exec (.spawn x) s = .next t ∧ s.passed t ∧
        (∀ l ∈ s.act x, (t.lane s.ref l).v1 v = 0 ∧ (t.lane s.ref l).wt = (z l).wt - BitVec.ofNat 32 (share l)) ∧
        (t.die (dieOf s.cur.core)).arriving = d.arriving ++ (s.act x).map fun l => ⟨s.ref, l, ph l,
          ⟨s.rdGroup s.ref noneTaken 8 l x.a, share l, (z l).wd.toNat, s.released s.ref [l] s.opSeq⟩, false⟩)) ∧
  (∀ (s : State) (x : Args) (xs : List (Nat × Xl)), noPorts x = true → s.curCrew.det = false →
    (s.core s.cur.core).pend = [] → s.act x ≠ [] →
    let z := s.lane s.ref
    let a := fun l => (s.src64 x false l x.a).toNat
    let share := fun l => shareOf (s.src32 x l x.c).toNat
    (∀ l ∈ s.act x, a l % 32 = 0 ∧ share l < (z l).wt.toNat) →
    s.xlateAll s.ref .write ((s.act x).map fun l => (l, a l, 32)) = .ok xs → (∀ e ∈ xs, ∀ t ∈ e.2.es, t.far = false) →
    ∃ t, exec (.msend x) s = .next t ∧ s.passed t ∧ t.mem = s.mem ∧
      (∀ l ∈ s.act x, (t.lane s.ref l).wt = (z l).wt - BitVec.ofNat 32 (share l)) ∧
      (t.core s.cur.core).pend = [⟨s.opSeq, s.ref, .msend ((s.act x).map fun l => (share l, (z l).wd.toNat)), xs.flatMap (fun e =>
        s.msgParts e.1 e.2 ((s.rdGroup s.ref noneTaken 8 e.1 x.b).flatMap fun w => leBytes w.toNat 4)), .none, x.sched.setw,
        (s.core s.cur.core).cyc, [], []⟩]) ∧
  (∀ (s : State) (core share dom a : Nat) (p : Pend) (pa : Part) (rest : List Pend) (bs : List Byte),
    lastPart s core p pa rest → p.kind = .msend [(share, dom)] → share ≠ 0 → pa.scr = none →
    pa.cells = ((List.range bs.length).map fun i => a + i) → pa.data = bs →
    ∃ t, exec (.msendDeliver core 0) s = .next t ∧ (t.core core).pend = rest ∧
      t.qmsgs = s.qmsgs ++ [⟨.ret, dom, share, ⟨0, 0, 0⟩, 0, false,
        s.released p.ref (p.got.map (·.1) ++ [pa.lane]) (p.id + 1)⟩] ∧
      (∀ i, ∀ h : i < bs.length, t.mem.read (a + i) = bs[i]) ∧
      ∀ c, c < a ∨ a + bs.length ≤ c → t.mem.read c = s.mem.read c)

/-- R131, R133 to R135, R311, R312, R380 and R381: the forms that name a domain, in every lane predicated on: `RETW.sv` sends
one return whatever the amount; `WAITQ` arms each lane's domain and waits; `QOPEN` and `QCLOSE` of assigned domains complete
with their status at hardware roots, and wait for the firmware's answer in host-assisted mode; `QREAD` reads T and H, zeros of
a closed domain. `QOPEN` and `QCLOSE` of another's domain trap PRIV, and every form traps SEGV for what names no domain.

R312: `POSTRES` writes the result word of the work's launch, in lane order, and traps PRIV for work of no launch. -/
def Obligations.DomainForms : Prop :=
  (∀ (s : State) (x : Args), noPorts x = true → s.gangClass = true → (s.core s.cur.core).pend = [] →
    let dm := fun l => (s.src32 x l x.a).toNat
    (∀ l ∈ s.act x, dm l < 4096) →
    (∃ t, exec (.retwSv x) s = .next t ∧ s.passed t ∧ t.qmsgs = s.qmsgs ++ (s.act x).map fun l =>
      ⟨.ret, dm l, (s.src64 x false l x.b).toNat, ⟨0, 0, 0⟩, 0, false, s.covers s.ref l⟩) ∧
    (s.act x ≠ [] → (s.bundle s.ref).parked = [] → ∃ t, exec (.waitq x) s = .next t ∧
      t.qmsgs = s.qmsgs ++ ((s.act x).map fun l => ⟨.arm, dm l, 0, s.ref, l, false, []⟩) ∧
      (t.bundle s.ref).parked =
        [⟨s.cur.pc, (s.act x).map fun l => (l, .quiet (dm l) x.d), 15, x.sched.setw, false, false, false⟩] ∧
      (∀ l ∈ s.act x, (t.lane s.ref l).pc = s.cur.pc) ∧
      ∀ l ∈ s.lanes, l ∉ s.act x → (t.lane s.ref l).pc = s.cur.pc + 16) ∧
    (s.act x = [] → ∃ t, exec (.waitq x) s = .next t ∧ s.passed t ∧ t.qmsgs = s.qmsgs) ∧
    ∀ v : Fin 248, x.d = .v v →
      (768 ≤ s.cur.core ∨ ∀ l ∈ s.act x, s.assigned (dm l) s.curCrew.acct = true) →
        (s.rootsHosted = false → ∀ i, (i = .qopen x ∨ i = .qclose x) → ∃ t, exec i s = .next t ∧ s.passed t ∧
          (∀ e, (∀ l ∈ s.act x, e ≠ dm l) → t.dom e = s.dom e) ∧
          ∀ l ∈ s.act x, (t.lane s.ref l).v1 v = 0 ∨ (t.lane s.ref l).v1 v = 1) ∧
        (s.rootsHosted = true → s.act x ≠ [] → (s.bundle s.ref).parked = [] → ∀ o : Bool,
          ∃ t, exec (if o then .qopen x else .qclose x) s = .next t ∧
            t.qmsgs = s.qmsgs ++ ((s.act x).map fun l =>
              ⟨if o then .opening else .closing, dm l, 0, s.ref, l, false, []⟩) ∧
            (t.bundle s.ref).parked = [⟨s.cur.pc, (s.act x).map fun l => (l, .engine (.root o x.d s.opSeq)), 15,
              x.sched.setw, false, false, false⟩] ∧ t.doms = s.doms) ∧
      ∃ t, exec (.qread x) s = .next t ∧ s.passed t ∧ t.doms = s.doms ∧ t.qmsgs = s.qmsgs ∧
        ∀ l ∈ s.act x, v.val + 4 ≤ 248 →
          let th := if s.rootsHosted then
              let at_ := (s.supReg 0x123).toNat + 131072 + 16 * dm l
              (s.mem.readNat at_ 8, s.mem.readNat (at_ + 8) 8)
            else if (s.dom (dm l)).st = .closed then (0, 0) else ((s.dom (dm l)).t, (s.dom (dm l)).h)
          (t.lane s.ref l).v2 v = BitVec.ofNat 64 th.1 ∧ (t.lane s.ref l).v2 (v.val + 2) = BitVec.ofNat 64 th.2) ∧
  (∀ (s : State) (x : Args) (l : Nat), noPorts x = true → s.act x = [l] →
    let dm := (s.src32 x l x.a).toNat
    (∀ v : Fin 248, s.gangClass = true → dm < 4096 → s.rootsHosted = false → x.d = .v v →
      (768 ≤ s.cur.core ∨ s.assigned dm s.curCrew.acct = true) →
      let does := fun (i : Instr) (st : Word) (f : Dom → Dom → Prop) => ∃ t, exec i s = .next t ∧ s.passed t ∧
        (∀ e, e ≠ dm → t.dom e = s.dom e) ∧ (t.lane s.ref l).v1 v = st ∧ f (s.dom dm) (t.dom dm)
      (if (s.dom dm).st = .closed then does (.qopen x) 0 fun _ d => d.st = .opened ∧ d.t = 0 ∧ d.h = 0
       else does (.qopen x) 1 fun c d => d = c) ∧
      (if (s.dom dm).st = .closed then does (.qclose x) 0 fun c d => d = c
       else if (s.dom dm).st = .opened ∧ (s.dom dm).h = (s.dom dm).t then does (.qclose x) 0 fun _ d => d.st = .closed
       else does (.qclose x) 1 fun c d => d = c)) ∧
    (s.fresh → dm < 4096 → s.assigned dm s.curCrew.acct = false → ∀ i, (i = .qopen x ∨ i = .qclose x) →
      ∃ t, exec i s = .next t ∧ stopsWith s t (maskOf [l]) ⟨3, 0, 0, 0, 0⟩) ∧
    (s.fresh → 4096 ≤ dm →
      ∀ i, (i = .retwSv x ∨ i = .waitq x ∨ i = .qopen x ∨ i = .qclose x ∨ i = .qread x) →
        ∃ t, exec i s = .next t ∧ stopsWith s t (maskOf [l]) ⟨5, BitVec.ofNat 32 dm, 0, 0, 0⟩)) ∧
  (∀ (s : State) (x : Args), noPorts x = true →
    (∀ y, find s.launches s.curCrew.lseq = some y → ∃ t z, exec (.postres x) s = .next t ∧ s.passed t ∧
      find t.launches s.curCrew.lseq = some z ∧
      (s.act x = [] → z = y) ∧
      ∀ l, (s.act x).getLast? = some l →
        (s.curCrew.det = false → z = { y with result := s.src64 x false l x.a }) ∧
        (s.curCrew.det = true → y.detKey = none → z.result = s.src64 x false l x.a ∧
          z.detKey = some [s.curCrew.replica, s.curCrew.grank, s.cur.bundle, l])) ∧
    (find s.launches s.curCrew.lseq = none → s.fresh →
      ∃ t, exec (.postres x) s = .next t ∧
        stopsWith s t (maskOf (if s.act x = [] then s.lanes else s.act x)) ⟨3, 0, 0, 0, 0⟩))

/-- R123 to R136, R172 and R380: what the root of a domain does with a mint, a borrow, a return and an arming in hardware
mode; what the firmware's answers do in host-assisted mode; and how a CORRUPT domain is reset. That a grant's excess over
what WT holds goes back to the root is the model's inference from R125 (assumption 53). -/
def Obligations.DomainRoots : Prop :=
  ∀ (s : State) (m : QMsg) (rest : List QMsg), s.qmsgs = m :: rest →
    let d := s.dom m.dom
    let v2 := d.view.join m.view
    (s.rootsHosted = false →
      (∀ k, m.kind = .mint k → d.st = .opened → d.t + m.amount < 2 ^ 64 → ∃ t, exec (.qdMint 0) s = .next t ∧
        t.qmsgs = rest ∧ t.dom m.dom = { d with t := d.t + m.amount }) ∧
      (m.kind = .borrow → d.st = .opened → d.t + 2 ^ 20 < 2 ^ 64 → ∃ t, exec (.qdBorrow 0) s = .next t ∧ t.qmsgs = rest ∧
        t.dom m.dom = { d with t := d.t + 2 ^ 20, h := d.h + (2 ^ 20 - min (2 ^ 20) (2 ^ 32 - 1 - m.amount)) } ∧
        t.grants = s.grants ++ [(m.ref, m.lane, min (2 ^ 20) (2 ^ 32 - 1 - m.amount))]) ∧
      (m.kind = .ret → d.st = .opened →
        (d.h + m.amount < d.t → ∃ t, exec (.qdReturn 0) s = .next t ∧ t.qmsgs = rest ∧
          t.dom m.dom = { d with h := d.h + m.amount, view := v2 }) ∧
        (d.h + m.amount = d.t → ∃ t, exec (.qdReturn 0) s = .next t ∧ t.qmsgs = rest ∧
          t.dom m.dom = { d with h := d.t, waiters := [], view := v2 } ∧
          ∀ c x, find s.ctxs c = some x → x.pending = true → x.rdom = m.dom →
            find t.ctxs c = some { x with pubgen := (x.pubgen + 1) % 2 ^ 32, pending := false, pubView := x.pubView.join v2 }) ∧
        (d.t < d.h + m.amount → ∃ t, exec (.qdReturn 0) s = .next t ∧ (t.dom m.dom).st = .corrupt)) ∧
      (m.kind = .arm → d.st = .opened → d.h ≠ d.t → ∃ t, exec (.qdArm 0) s = .next t ∧ t.qmsgs = rest ∧
        t.dom m.dom = { d with waiters := d.waiters ++ [(m.ref, m.lane)] }) ∧
      (∀ (n : Fin 8) (pc : DWord) (w : Fin 16) (taken : Bool), m.kind = .arm → d.st = .opened → d.h = d.t → n ≠ 7 → s.hasBundle m.ref = true →
        (s.bundle m.ref).parked = [⟨pc, [(m.lane, .quiet m.dom (.p n))], 15, w, false, false, taken⟩] →
        ∃ t, exec (.qdArm 0) s = .next t ∧ (t.bundle m.ref).parked = [] ∧ (t.lane m.ref m.lane).pc = pc + 16 ∧
          (t.lane m.ref m.lane).pred n = true)) ∧
    (s.rootsHosted = true → m.posted = true → s.hasBundle m.ref = true → ∀ (w : Fin 16) (pc : DWord) (taken : Bool),
      (m.kind = .borrow → ∀ share (g : Word),
        (s.bundle m.ref).parked = [⟨pc, [(m.lane, .grant share)], 15, w, true, false, taken⟩] →
        (s.lane m.ref m.lane).wt.toNat + g.toNat < 2 ^ 32 → share < (s.lane m.ref m.lane).wt.toNat + g.toNat →
        ∃ t, exec (.qreplyBorrow m.ref m.lane g) s = .next t ∧ (t.lane m.ref m.lane).wt = (s.lane m.ref m.lane).wt + g ∧
          t.qmsgs = rest) ∧
      (m.kind = .arm → ∀ (n : Fin 8) (v : Bool), n ≠ 7 →
        (s.bundle m.ref).parked = [⟨pc, [(m.lane, .quiet m.dom (.p n))], 15, w, false, false, taken⟩] →
        ∃ t, exec (.qreplyArm m.ref m.lane v) s = .next t ∧ t.qmsgs = rest ∧ (t.bundle m.ref).parked = [] ∧
          (t.lane m.ref m.lane).pc = pc + 16 ∧ (t.lane m.ref m.lane).pred n = v) ∧
      (∀ (o : Bool) (r : Fin 248) (v : Bool) (id : Nat), m.kind = (if o then .opening else .closing) →
        (s.bundle m.ref).parked = [⟨pc, [(m.lane, .engine (.root o (.v r) id))], 15, w, false, false, taken⟩] →
        ∃ t, exec (if o then .qreplyOpen m.ref m.lane v else .qreplyClose m.ref m.lane v) s = .next t ∧ t.qmsgs = rest ∧
          (t.bundle m.ref).parked = [] ∧ (t.lane m.ref m.lane).pc = pc + 16 ∧
          (t.lane m.ref m.lane).v1 r = (if v then 1 else 0) ∧
          (v = false → (t.dom m.dom).st = if o then .opened else .closed))) ∧
    (s.rootsHosted = true → m.posted = false → s.ringRoom s.rqSeq 0x124 = true → (s.supReg 0x125).getLsbD 31 = false →
      let at_ := (s.supReg 0x123).toNat + 32 * (s.rqSeq % 4096)
      ∃ t, exec (.rootMessagePost 0) s = .next t ∧ t.rqSeq = s.rqSeq + 1 ∧
        t.qmsgs = (if m.kind.answered then { m with posted := true } :: rest else rest) ∧
        t.mem.readNat at_ 32 = m.number (s.rqSeq + 1) % 2 ^ 256) ∧
    (∀ dm : BitVec 12,
      (s.rootsHosted = false → (s.dom dm.toNat).st = .corrupt → ∃ t, exec (.qreset dm) s = .next t ∧
        t.dom dm.toNat = { (default : Dom) with st := .closed }) ∧
      (s.rootsHosted = true → ∃ t, exec (.qpub dm) s = .next t ∧ t.doms = s.doms ∧
        ∀ c x, find s.ctxs c = some x → x.pending = true → x.rdom = dm.toNat →
          find t.ctxs c = some { x with pubgen := (x.pubgen + 1) % 2 ^ 32, pending := false,
                                        pubView := x.pubView.join (s.dom dm.toNat).view })) ∧
    (∀ (b : BRef) (l g share : Nat) (pc : DWord) (w : Fin 16) (taken : Bool), s.grants = [(b, l, g)] → s.hasBundle b = true →
      (s.bundle b).parked = [⟨pc, [(l, .grant share)], 15, w, true, false, taken⟩] →
      let wt := (s.lane b l).wt.toNat
      share < wt + g → share < 2 ^ 32 - 1 →
      ∃ t, exec (.borrowGrantArrive b l) s = .next t ∧ t.grants = [] ∧
        (t.lane b l).wt = BitVec.ofNat 32 (min (wt + g) (2 ^ 32 - 1)) ∧
        t.qmsgs = s.qmsgs ++ if wt + g < 2 ^ 32 then []
          else [⟨.ret, (s.lane b l).wd.toNat, wt + g - (2 ^ 32 - 1), ⟨0, 0, 0⟩, 0, false, []⟩])

/-- R34 to R37, R309 and R382: a record that arrives is stored and makes its pigeonhole due when the count is reached; so
does its timer; a due pigeonhole forms a bundle of its oldest records, one lane each, under the next launch sequence
number; and a core that asks is given the oldest entry of the ready queue when it has room. -/
def Obligations.SortingOffice : Prop :=
  (∀ (s : State) (die ph : Nat) (a : Arriving) (p : Pigeon), (s.die die).arriving = [a] → a.ph = ph → a.answer = false →
    (∀ e, (s.die die).lastArr = some e → e.1 = (s.die die).dcyc → e.2 ≤ a.key) → s.spillHosted = false → find (s.die die).phs ph = some p → p.recs.length < 32 → p.spilled = [] →
    ∃ t q, exec (.phRecordArrive die 0) s = .next t ∧ (t.die die).arriving = [] ∧ find (t.die die).phs ph = some q ∧
      q.recs = p.recs ++ [a.rec_] ∧ q.due = (p.due || decide (p.c ≤ p.recs.length + 1)) ∧ q.entry = p.entry) ∧
  (∀ (s : State) (die ph : Nat) (p : Pigeon), find (s.die die).phs ph = some p → p.recs ≠ [] → p.due = false → p.spilled = [] →
    p.restart + max p.t 1 ≤ (s.die die).dcyc →
    ∃ t, exec (.phTimerExpire die ph) s = .next t ∧ find (t.die die).phs ph = some { p with due := true }) ∧
  (∀ (s : State) (die ph : Nat) (p : Pigeon), find (s.die die).phs ph = some p → p.due = true → p.spilled = [] →
    (s.die die).ready.length < 4096 → (s.die die).spillWait = [] →
    let n := min p.c p.recs.length
    ∃ t k q, exec (.bundleForm die ph) s = .next t ∧ t.nextLseq = s.nextLseq + 1 ∧
      (t.die die).ready = (s.die die).ready ++ [.formed k] ∧ k.queued = true ∧ k.lseq = s.nextLseq ∧ k.kid = p.kid ∧
      find (t.die die).phs ph = some q ∧ q.recs = p.recs.drop n ∧
      ∃ y, k.bundles = [(0, y)] ∧ (∀ i < 32, y.live.getLsbD i = decide (i < n)) ∧
        ∀ i r, i < n → p.recs[i]? = some r → (y.lane i).pc = p.entry ∧ (y.lane i).wt = BitVec.ofNat 32 r.share ∧
          (y.lane i).wd = BitVec.ofNat 12 r.dom ∧ ∀ j w, r.words[j]? = some w → (y.lane i).v1 j = w) ∧
  (∀ (s : State) (die core slot : Nat) (k : Crew) (rest : List ReadyEnt), (s.die die).ready = .formed k :: rest →
    s.mayPop die core = true → (s.core core).freeSlot = some slot → (s.core core).takes k = true →
    ∃ t y, exec (.readyQueuePop die [core]) s = .next t ∧ (t.die die).ready = rest ∧
      find (t.core core).crews slot = some y ∧ y.lseq = k.lseq ∧ y.queued = k.queued ∧
      y.bundles.map (·.1) = k.bundles.map (·.1) ∧ (t.core core).admNext = (s.core core).admNext + k.bundles.length)

/-! ### Mesh and gang (class 0xD) -/

/-- R314 to R319: a gang barrier at which all stand releases; an `RSEND` sends its 32 values; an `RRECV` goes on when the
round it waits past has ended, and otherwise waits; an `MCAST` enters the mesh queue and completes when nothing of it is
left; a packet of a later round waits at its router, a late one is a dead letter, and a flush of another round is
ignored. -/
def Obligations.GangForms : Prop :=
  (∀ (s : State) (x : Args) (l : Nat), noPorts x = true → s.gangClass = true → s.act x = [l] →
    (s.core s.cur.core).pend = [] →
    (s.curCrew.gang = none → s.cur.again = false → (s.bundle s.ref).parked = [] → s.hasBundle s.ref = true →
      s.curCrew.bundles = [(s.cur.bundle, s.bundle s.ref)] → lanesOf (s.bundle s.ref).live = [l] →
      ∃ t, exec (.gbar x) s = .next t ∧ s.passed t ∧ (t.bundle s.ref).parked = []) ∧
    (∀ gn r, s.curCrew.gang = some gn →
      let g := s.gangOf gn
      let id := (s.src32 x l x.a).toNat
      let rank := s.curCrew.grank
      id < 16 → find g.trees id = some r →
      ((entSlots (treeEntry r.toNat rank)).contains 0 = true → (s.core s.cur.core).queues = [] →
        (∀ b ∈ s.bundlesOf s.cur.core, (s.bundle b).ports = []) → (s.die (dieOf s.cur.core)).slot = .run →
        ∃ t, exec (.rsend x) s = .next t ∧ s.passed t ∧
          findD (t.gangOf gn).sends (16 * id + rank) 0 = (findD g.sends (16 * id + rank) 0 + 1) % 65536 ∧
          (t.gangOf gn).flight = g.flight ++ [⟨id, rank, 0, findD g.sends (16 * id + rank) 0,
            (List.range 32).map fun i => if i = l then s.src32 x l x.b else 0, 1#16 <<< rank, false, false, false⟩]) ∧
      (∀ v : Fin 248, x.d = .v v →
        let st := s.treeStatus g id
        (bits st 31 16 ≠ (s.src32 x l x.b).toNat % 2 ^ 16 → ∃ t, exec (.rrecv x) s = .next t ∧ s.passed t ∧
          (t.lane s.ref l).v2 v = BitVec.ofNat 64 st) ∧
        (bits st 31 16 = (s.src32 x l x.b).toNat % 2 ^ 16 → s.cur.again = false → (s.bundle s.ref).parked = [] →
          ∃ t, exec (.rrecv x) s = .next t ∧ (t.lane s.ref l).pc = s.cur.pc ∧ (t.bundle s.ref).parked = [⟨s.cur.pc,
            [(l, .engine (.rrecv id ((s.src32 x l x.b).setWidth 16) x.d s.opSeq))], 15, x.sched.setw, false, false,
            false⟩]))) ∧
    (let a := (s.src32 x l x.a).toNat
     let b := (s.src32 x l x.b).toNat
     let n := (s.src64 x false l x.c).toNat % 2 ^ 32
     s.curCrew.gang = none → (s.src64 x false l x.c).toNat / 2 ^ 32 = 1 → a % 16 = 0 → b % 16 = 0 → a < 2 ^ 20 → b < 2 ^ 20 →
      n % 16 = 0 → 0 < n → n ≤ 2 ^ 20 → b + n ≤ s.curCrew.slines * 128 → a + n ≤ s.curCrew.slines * 128 →
      ∃ y : Copy, enters s (.mcast x) x qMesh [] (.mcast [(s.cur.core, y)]) ∧ y.units.length = n / 16 ∧ y.full = false ∧
        ∀ i (u : CUnit), y.units[i]? = some u → u.n = 16 ∧ u.src = some (.scr s.cur.core s.cur.slot (b + 16 * i)) ∧
          u.dst = .scr s.cur.core s.cur.slot (a + 16 * i)) ∧
    (s.fresh → s.curCrew.gang = none →
      ∃ t, exec (.rsend x) s = .next t ∧ stopsWith s t (maskOf [l]) ⟨5, s.src32 x l x.a, 0, 0, 0⟩)) ∧
  (∀ (s : State) (core : Nat) (c : Cmd) (y : Copy), s.queue core qMesh = [.cmd c] → c.body = .mcast [(core, y)] →
    c.started = true → c.suspended = false → y.units = [] →
    ∃ t, exec (.mcastPerform core) s = .next t ∧ t.queue core qMesh = [] ∧ t.mem = s.mem) ∧
  (∀ (s : State) (gn : Nat) (p : Packet), (s.gangOf gn).flight = [p] → s.roundLate gn p.tree = false →
    let g := s.gangOf gn
    let r := g.router p.tree p.rank
    let ahead := roundsAhead p.round r.round
    (p.flush = false → 0 < ahead → ahead < 32768 → ∃ t, exec (.reductionPacketArrive gn 0) s = .next t ∧
      (t.gangOf gn).flight = [] ∧ (t.gangOf gn).waiting = g.waiting ++ [p] ∧ (t.gangOf gn).routers = g.routers) ∧
    (p.flush = false → 32768 ≤ ahead → ∃ t, exec (.reductionPacketArrive gn 0) s = .next t ∧
      (t.gangOf gn).flight = [] ∧ findD (t.gangOf gn).dead p.tree 0 = min (findD g.dead p.tree 0 + 1) 65535 ∧
      (t.gangOf gn).routers = g.routers) ∧
    (p.flush = true → p.round ≠ r.round → ∃ t, exec (.reductionFlushArrive gn 0) s = .next t ∧
      (t.gangOf gn).flight = [] ∧ (t.gangOf gn).routers = g.routers)) ∧
  (∀ (s : State) (gn tree since : Nat),
    let g := s.gangOf gn
    let rec_ := g.treeRec tree
    let r := g.router tree (treeRoot rec_)
    (find g.trees tree).isSome = true → treeTimeout rec_ ≠ 0 → r.flushed = false → r.since = some since →
    since + treeTimeout rec_ ≤ (s.core (g.at_ (treeRoot rec_)).1).cyc → g.flight = [] →
    (∃ c ∈ entSlots (treeEntry rec_ (treeRoot rec_)), c ≠ 0 ∧ ∀ q ∈ r.inputs, q.port ≠ c) →
    ∃ t, exec (.reductionTimeout gn tree) s = .next t ∧
      ((t.gangOf gn).router tree (treeRoot rec_)).flushed = true ∧
      ∃ q ∈ (t.gangOf gn).flight, q.flush = true ∧ q.tree = tree ∧ q.round = r.round)

/-! ### System (class 0xE) -/

/-- R17 to R19, R64, R112, R320, R364, R367, R371 and R383: `MOVR` gives the register's value; `MOVK` writes the value of the
highest-numbered lane predicated on, traps RSVD with the register unchanged when a zero field is not zero, discards a boot
register after the first window has opened, and makes the act of an acting register happen next, its lanes waiting until the
act is complete. That TVEC takes multiples of 16 only, and that an act is the machine's next event, is the model's choice
(assumption 35). -/
def Obligations.ControlRegisters : Prop :=
  (∀ (s : State) (x : Args) (n : Fin 248), noPorts x = true → s.gangClass = true → x.d = .v n →
    (∀ i : Nat, i < 16 → writes32 s (.movr (BitVec.ofNat 10 i) x) x n fun _ => findD s.curCrew.tsh i 0x00020402) ∧
    writes32 s (.movr 0x010 x) x n (fun l => (s.lane s.ref l).wt) ∧
    writes32 s (.movr 0x011 x) x n (fun l => (s.lane s.ref l).wd.setWidth 32) ∧
    writes32 s (.movr 0x012 x) x n (fun _ => (s.bundle s.ref).fstat.setWidth 32) ∧
    writes32 s (.movr 0x013 x) x n (fun _ => (s.bundle s.ref).fmode.setWidth 32) ∧
    writes64 s (.movr 0x014 x) x n (fun _ => BitVec.ofNat 64 (s.core s.cur.core).cyc) ∧
    writes32 s (.movr 0x015 x) x n (fun _ => if (s.bundle s.ref).htrap then 1 else 0) ∧
    writes32 s (.movr 0x016 x) x n (fun _ => (s.bundle s.ref).hintMiss) ∧
    writes64 s (.movr 0x102 x) x n (fun _ => (s.houseOf s.cur.core).tpc) ∧
    writes32 s (.movr 0x10B x) x n (fun _ => (s.supReg 0x10B).setWidth 32)) ∧
  (∀ (s : State) (x : Args) (l : Nat), noPorts x = true → (s.act x).getLast? = some l →
    let a := s.src32 x l x.a
    let d := s.src64 x false l x.a
    (∀ i : Nat, i < 16 → tshOk s.curCrew.ver a = true → ∃ t, exec (.movk (BitVec.ofNat 10 i) x) s = .next t ∧ s.passed t ∧
      (let prior := find s.curCrew.cBy (4096 + i)
       findD t.curCrew.tsh i 0x00020402 = if prior.any fun e => e.1 == (s.core s.cur.core).cyc && decide (s.cur.bundle < e.2)
         then findD s.curCrew.tsh i 0x00020402 else a) ∧
      ∀ j, j ≠ i → find t.curCrew.tsh j = find s.curCrew.tsh j) ∧
    (∀ i : Nat, i < 16 → tshOk s.curCrew.ver a = false → s.fresh →
      ∃ t, exec (.movk (BitVec.ofNat 10 i) x) s = .next t ∧ stopsWith s t (maskOf (s.act x)) ⟨2, 0, 0, 0, 0⟩ ∧
        t.curCrew.tsh = s.curCrew.tsh) ∧
    (a.toNat < 32 → ∃ t, exec (.movk 0x012 x) s = .next t ∧ s.passed t ∧ 
      (t.bundle s.ref).fstat = a.setWidth 5 ||| (if (s.bundle s.ref).raised.1 = (s.core s.cur.core).cyc
        then (s.bundle s.ref).raised.2 else 0)) ∧
    (a.toNat < 4 → ∃ t, exec (.movk 0x013 x) s = .next t ∧ s.passed t ∧ (t.bundle s.ref).fmode = a.setWidth 2) ∧
    (4 ≤ a.toNat → s.fresh → ∃ t, exec (.movk 0x013 x) s = .next t ∧
      stopsWith s t (maskOf (s.act x)) ⟨2, 0, 0, 0, 0⟩) ∧
    (a.toNat < 2 → ∃ t, exec (.movk 0x015 x) s = .next t ∧ s.passed t ∧ (t.bundle s.ref).htrap = (a == 1)) ∧
    (∃ t, exec (.movk 0x016 x) s = .next t ∧ s.passed t ∧ (t.bundle s.ref).hintMiss = a) ∧
    (d.toNat % 16 = 0 → ∃ t, exec (.movk 0x100 x) s = .next t ∧ s.passed t ∧ (t.houseOf s.cur.core).tvec = d ∧ t.sup = s.sup) ∧
    (a.toNat < 128 → ∃ t, exec (.movk 0x10B x) s = .next t ∧ s.passed t ∧
      t.supReg 0x10B = if s.windowOpened then s.supReg 0x10B else a.setWidth 64) ∧
    ((s.bundle s.ref).parked = [] →
      let acts := fun (k : BitVec 10) (i : Instr) (w : EngWait) => ∃ t, exec (.movk k x) s = .next t ∧
        t.supReg k.toNat = a.setWidth 64 ∧ t.agenda = s.agenda ++ [i] ∧
        (t.bundle s.ref).parked = [⟨s.cur.pc, (s.act x).map fun l => (l, .engine w), 15, x.sched.setw, false, false, false⟩]
      (a.toNat < 4096 → acts 0x127 (.qreset (a.setWidth 12)) .act) ∧
      (a.toNat < 2 ^ 18 → bits a.toNat 17 16 = 2 → acts 0x10F .tlbiAll (.tlbi 2 0 0 false)) ∧
      (a.toNat < 2 ^ 18 → bits a.toNat 17 16 = 1 →
        acts 0x10F (.tlbiAsid (bits a.toNat 15 0)) (.tlbi 1 (bits a.toNat 15 0) 0 false)) ∧
      (a.toNat < 2 ^ 14 → bits a.toNat 1 0 = 2 →
        acts 0x122 (.slotcmdOpen (bits a.toNat 7 2) (bits a.toNat 13 8)) (.slotOpen (bits a.toNat 7 2) (bits a.toNat 13 8))))) ∧
  (∀ (s : State) (x : Args) (k : BitVec 10), noPorts x = true → s.act x = [] → ∃ t, exec (.movk k x) s = .next t ∧
    s.passed t ∧ t.sup = s.sup ∧ t.house = s.house ∧ t.agenda = s.agenda) ∧
  (∀ (s : State) (h : Nat) (v : DWord), h < 16 →
    (∃ t, exec (.supervisorRegisterWrite h 0x119 v) s = .next t ∧
      t.supReg 0x119 = if v.toNat % 2 ^ 32 < 256 then BitVec.ofNat 64 (v.toNat % 2 ^ 32) else s.supReg 0x119) ∧
    (∃ t, exec (.supervisorRegisterWrite h 0x10A v) s = .next t ∧
      t.supReg 0x10A = if s.windowOpened then s.supReg 0x10A else v)) ∧
  (∀ (s : State) (v : Word), ∃ t, exec (.seedWrite v) s = .next t ∧ (s.windowOpened = true → t = s) ∧
    (s.windowOpened = false → t.supReg 0x12B = (v.setWidth 16).setWidth 64 ∧
      ∀ k, t.lfsrOf k = lfsrSeed (v.setWidth 16) k))

/-- R47, R321, R368 and R374: `TRAP` and `SVC` stop a bundle of a compute core with TINFO0 = n and post its record in the
trap ring; on a house core a trap writes the trap registers, sets INH and goes on at TVEC, and one raised while INH is 1
halts the core; `ERET` goes on at TPC and clears INH on a house core, traps ALIGN when TPC is not a multiple of 16 (R186), and
traps PRIV on a compute core. -/
def Obligations.ProgramTraps : Prop :=
  ∀ (s : State) (x : Args) (n : Word), s.act x ≠ [] → s.cur.again = false → (s.bundle s.ref).stopped = none →
    (s.cur.core < 768 →
      (∀ i c, (i = .trap n x ∧ c = 0x10) ∨ (i = .svc n x ∧ c = 0x11) →
        ∃ t, exec i s = .next t ∧ stopsWith s t (maskOf (s.act x)) ⟨c, n, 0, 0, 0⟩ ∧
          (s.trapWait = [] → s.ringRoom s.tqSeq 0x116 = true → t.tqSeq = s.tqSeq + 1 ∧
            let r := t.mem.readNat ((s.supReg 0x115).toNat + 64 * (s.tqSeq % 4096)) 64
            bits r 63 0 = (s.tqSeq + 1) % 2 ^ 64 ∧ bits r 127 64 = s.curCrew.lseq % 2 ^ 64 ∧ bits r 247 240 = c ∧
            bits r 271 262 = s.cur.core ∧ bits r 319 288 = (maskOf (s.act x)).toNat ∧ bits r 351 320 = n.toNat ∧
            bits r 511 448 = s.cur.pc.toNat) ∧
          (s.ringRoom s.tqSeq 0x116 = false → t.tqSeq = s.tqSeq ∧ ∃ m, t.trapWait = s.trapWait ++ [m] ∧ m.pc = s.cur.pc ∧
            m.info.cause = c ∧ m.core = s.cur.core ∧ m.slot = s.cur.slot ∧ m.bundle = s.cur.bundle)) ∧
      (∃ t, exec (.eret x) s = .next t ∧ stopsWith s t (maskOf (s.act x)) ⟨3, 0, 0, 0, 0⟩)) ∧
    (768 ≤ s.cur.core →
      let h := s.houseOf s.cur.core
      (∀ i c, (i = .trap n x ∧ c = 0x10) ∨ (i = .svc n x ∧ c = 0x11) →
        (h.inh = false → ∃ t, exec i s = .next t ∧ t.mem = s.mem ∧ t.tqSeq = s.tqSeq ∧
          t.houseOf s.cur.core = { h with
            tcause := BitVec.ofNat 32 c,
            tpc := s.cur.pc,
            tinfo0 := n,
            tinfo1 := 0,
            tinfo2 := 0,
            tinfo3 := 0,
            inh := true } ∧
          ∀ l ∈ s.lanes, (t.lane s.ref l).pc = h.tvec) ∧
        (h.inh = true → ∃ t, exec i s = .next t ∧ t.houseOf s.cur.core = { h with halted := true } ∧
          t.bootHalt = s.bootHalt ||| (1#16 <<< (s.cur.core - 768)) ∧ t.cores = s.cores)) ∧
      (h.tpc.toNat % 16 = 0 → ∃ t, exec (.eret x) s = .next t ∧ t.houseOf s.cur.core = { h with inh := false } ∧
        t.mem = s.mem ∧ (∀ l ∈ s.act x, (t.lane s.ref l).pc = h.tpc) ∧
        ∀ l ∈ s.lanes, l ∉ s.act x → (t.lane s.ref l).pc = s.cur.pc + 16) ∧
      (h.tpc.toNat % 16 ≠ 0 → h.inh = false → ∃ t, exec (.eret x) s = .next t ∧
        (t.houseOf s.cur.core).tcause = 4 ∧ (t.houseOf s.cur.core).tpc = s.cur.pc ∧
        (t.houseOf s.cur.core).tinfo0 = h.tpc.setWidth 32 ∧ ∀ l ∈ s.lanes, (t.lane s.ref l).pc = h.tvec))

/-- R185, R322 and R386: `SLOTQ` writes Table 16-18 and never waits: of the slot that its die counts to, with a lead within its
own bound of the true one; else of a slot of the calendar; else that there is none.

R45, R323, R327, R377 and R378: on a house core with physical addressing, `CSAVE` of a crew that has drained writes its
area, answers 0 and takes the crew off its core; `CRESTORE` of an area places its crew; each answers 3 when the slot does
not allow it, and an area that is not aligned to 4 KiB traps ALIGN. -/
def Obligations.CalendarAndContextSwitch : Prop :=
  (∀ (s : State) (x : Args) (n : Fin 248), noPorts x = true → s.gangClass = true → x.d = .v n →
    let d := s.die (dieOf s.cur.core)
    let entry := fun (t : State) (l i : Nat) (lead : Word) =>
      (t.lane s.ref l).v1 n = BitVec.ofNat 32 (calKind (calEntry s.calendar i) * 256 + i) ∧
        (t.lane s.ref l).v1 (n.val + 1) = lead ∧
        (t.lane s.ref l).v1 (n.val + 2) = BitVec.ofNat 32 (64 + (lead.toNat + 1023) / 1024) ∧
        (t.lane s.ref l).v1 (n.val + 3) = BitVec.ofNat 32 (20 * calMaxlen (calEntry s.calendar i))
    (∀ u, s.funcBit 4 = false → d.slot = .count u → d.dcyc < u → u - d.dcyc < 2 ^ 32 →
      ∃ t, exec (.slotq x) s = .next t ∧ s.passed t ∧ ∃ lead : Word, (∀ l ∈ s.act x, entry t l d.slotId.entry lead) ∧
        let bound := 64 + (lead.toNat + 1023) / 1024
        lead.toNat ≤ u - d.dcyc + bound ∧ u - d.dcyc ≤ lead.toNat + bound) ∧
    ((s.funcBit 4 = true ∨ (∀ u, d.slot ≠ .count u) ∧ d.kept = []) → s.calPending = none → calUsed s.calendar = [] →
      ∃ t, exec (.slotq x) s = .next t ∧ s.passed t ∧ ∀ l ∈ s.act x,
      (t.lane s.ref l).v1 n = 0xF00 ∧ (t.lane s.ref l).v1 (n.val + 1) = 0xFFFFFFFF ∧
      (t.lane s.ref l).v1 (n.val + 2) = 0x00400040 ∧ (t.lane s.ref l).v1 (n.val + 3) = 0) ∧
    ((s.funcBit 4 = true ∨ (∀ u, d.slot ≠ .count u) ∧ d.kept = []) → s.calPending = none → calUsed s.calendar ≠ [] →
      ∃ t, exec (.slotq x) s = .next t ∧ s.passed t ∧ ∃ i ∈ calUsed s.calendar, ∃ lead : Word, ∀ l ∈ s.act x,
        entry t l i lead)) ∧
  (∀ (s : State) (x : Args) (n : Fin 248) (l : Nat), noPorts x = true → s.gangClass = true → x.d = .v n →
    (s.act x).head? = some l → 768 ≤ s.cur.core → (s.houseOf s.cur.core).ptbase = 0 → s.cur.again = false →
    (s.core s.cur.core).pend = [] → (s.bundle s.ref).stopped = none →
    let w := (s.src32 x l x.a).toNat
    let core := bits w 9 0
    let slot := bits w 15 10
    let va := (s.src64 x false l x.b).toNat
    let at_ := fun (o k : Nat) => (List.range k).map fun i => va + o + i
    (va % 4096 ≠ 0 → (s.houseOf s.cur.core).inh = false → ∀ i, (i = .csave x ∨ i = .crestore x) →
      ∃ t, exec i s = .next t ∧ (t.houseOf s.cur.core).tcause = 4 ∧ (t.houseOf s.cur.core).tpc = s.cur.pc) ∧
    (va % 4096 = 0 → s.saveBad w = true → writes32 s (.csave x) x n fun _ => 3) ∧
    (va % 4096 = 0 → s.saveBad w = false → s.issue = [] → (s.crew core slot).gang = none →
      (s.stopGang core slot).drained core slot = true →
      let u := (s.stopGang core slot).recall core slot
      let area := saveArea (u.core core) slot (u.crew core slot) (u.cmdsBy core slot)
      area.length ≤ leNat (s.cells (at_ 56 8)) → va + area.length ≤ 2 ^ 52 → 64 ≤ area.length →
      ∃ t, exec (.csave x) s = .next t ∧ s.passed t ∧ (∀ i ∈ s.act x, (t.lane s.ref i).v1 n = 0) ∧
        t.hasCrew core slot = false ∧ t.mem.readN va area.length = area ∧ ∃ e, t.saved = s.saved ++ [e] ∧ e.1 = va) ∧
    (va % 4096 = 0 → va + 2 ^ 22 ≤ 2 ^ 52 →
      let h := leNat (s.cells (at_ 0 64))
      (headerOk h = false → writes32 s (.crestore x) x n fun _ => 4) ∧
      (headerOk h = true → (find s.kernels (bits h 351 320)).isSome = true →
        let rd := s.areaRd (at_ 0 (bits h 511 448))
        let kept := s.keptOf va h
        (w < 65536 → core < 768 → s.hasCrew core slot = true → writes32 s (.crestore x) x n fun _ => 3) ∧
        (s.restoreBad w rd kept.1 = none → kept.1.gang = none → kept.2.1 = [] → kept.1.spills = [] →
          ∃ t, exec (.crestore x) s = .next t ∧ s.passed t ∧ (∀ i ∈ s.act x, (t.lane s.ref i).v1 n = 0) ∧
            t.mem = s.mem ∧ t.hasCrew core slot = true ∧ (t.crew core slot).run = .running ∧
            (t.crew core slot).lseq = bits h 447 384 ∧
            ∀ j : Nat, j < 16 → findD (t.crew core slot).c j 0 = BitVec.ofNat 32 (rd (64 + 4 * j) 4)))))


/-! ### Scheduling and the end of work -/

/-- R38, R39, R92, R193 and R196: picker 0 begins the core's next cycle, and its decision chooses a course when some lane of
the core is ready in that cycle: the ready lanes of one bundle at one PC, which executes next, or, when it is an `ACCALLOC`,
once picker 1 has decided in the same cycle; and holds end at their cycle.

R51: the next course of a crew takes its pending asynchronous trap.

R53, R86, R131, R374 and R375: a waiting course whose lines are full executes again; a bundle without live lanes retires
and gives back its sums; a stopped bundle goes on at TPC or TPC + 16; work that is ended leaves its cores. -/
def Obligations.PickersAndRetirement : Prop :=
  (∀ (s : State) (core : Nat), s.coreRuns core = true → (s.core core).turn = 0 →
    (∀ k ∈ (s.core core).crews, k.2.run ≠ .displacing) →
    (∀ b ∈ s.bundlesOf core, ∀ k ∈ (s.bundle b).parked, ∀ w ∈ k.waits, w.2 ≠ .storage) →
    ∃ t, exec (.pickerDecision core 0) s = .next t ∧ (t.core core).cyc = (s.core core).cyc + 1 ∧ (t.core core).turn = 1 ∧
      t.mem = s.mem ∧
      ((∀ b ∈ s.bundlesOf core, (s.beginCycle core).readyLanes b = []) → t.issue = s.issue) ∧
      ((∃ b ∈ s.bundlesOf core, (s.beginCycle core).readyLanes b ≠ []) → ∃ c : Course,
        (t.issue = s.issue ++ [c] ∨ s.allocs c = true ∧ t.issue = s.issue ∧ (t.core core).late = some c ∧
          t.agenda = .pickerDecision core 1 :: s.agenda) ∧ c.core = core ∧
        c.mask ≠ 0 ∧ c.picker = 0 ∧ c.again = false ∧ ∀ l : Nat, l < 32 → (c.mask.getLsbD l = true ↔
          (s.beginCycle core).ready ⟨core, c.slot, c.bundle⟩ l = true ∧ (s.lane ⟨core, c.slot, c.bundle⟩ l).pc = c.pc))) ∧
  (∀ (s : State) (b : BRef) (mask : Word) (l u : Nat), s.hasBundle b = true → l ∈ lanesOf mask →
    (find (s.bundle b).lanes l).isSome = true →
    ((s.lane b l).hold = .stall u → ∃ t, exec (.stallElapse b mask) s = .next t ∧ (t.lane b l).pc = (s.lane b l).pc ∧
      (t.lane b l).hold = if u ≤ (s.core b.core).cyc then .none else .stall u) ∧
    ((s.lane b l).hold = .replay u → ∃ t, exec (.hintReplayElapse b mask) s = .next t ∧ (t.lane b l).pc = (s.lane b l).pc ∧
      (t.lane b l).hold = if u ≤ (s.core b.core).cyc then .none else .replay u)) ∧
  (∀ (s : State) (b : BRef) (i : TrapInfo) (rest : List TrapInfo), b.core < 768 → (s.crew b.core b.slot).async = i :: rest →
    s.readyLanes b ≠ [] → s.issue = [] → ∃ t, exec (.asyncTrapTake b) s = .next t ∧ (t.crew b.core b.slot).async = rest ∧
      ∃ p : Stopped, (t.bundle b).stopped = some p ∧ p.info = i ∧ p.lanes = p.course) ∧
  (∀ (s : State) (b : BRef) (k : Park), s.hasBundle b = true → (s.crew b.core b.slot).run = .running →
    (s.bundle b).stopped = none → (s.bundle b).parked = [k] → k.again = true → k.fetch = false →
    (∀ w ∈ k.waits, w.2 = .course ∨ ∃ ls, w.2 = .line ls ∧ ∀ t ∈ ls, s.line t.1 t.2.1 t.2.2 = .full) →
    ∃ t, exec (.lineWaiterWake b) s = .next t ∧ (t.bundle b).parked = [] ∧
      t.issue = s.issue ++ [⟨b.core, b.slot, b.bundle, k.mask, k.pc, 0, true⟩]) ∧
  (∀ (s : State) (b : BRef), s.hasBundle b = true → b.core < 768 → (s.bundle b).live = 0 → s.busyBundle b = false →
    (s.crew b.core b.slot).run = .running → (s.crew b.core b.slot).gang = none → (s.crew b.core b.slot).barriers = [] →
    ∃ t, exec (.bundleRetire b) s = .next t ∧ t.hasBundle b = false ∧
      t.qmsgs = s.qmsgs ++ ((s.bundle b).rsums.filter fun e => e.2 != 0).map (fun e => ⟨.ret, e.1, e.2, ⟨0, 0, 0⟩, 0, false,
        s.bundleView b false⟩) ∧
      ((s.crew b.core b.slot).bundles = [(b.bundle, s.bundle b)] → t.hasCrew b.core b.slot = false)) ∧
  (∀ (s : State) (b : BRef) (p : Stopped) (adv : Bool), s.hasBundle b = true → (s.bundle b).stopped = some p →
    s.unposted b = false → ∃ t, exec (.tresume b adv) s = .next t ∧ (t.bundle b).stopped = none ∧
      ∀ l, (t.lane b l).pc = if l ∈ lanesOf p.course then (if adv then p.pc + 16 else p.pc) else (s.lane b l).pc) ∧
  (∀ (s : State) (lseq : Nat) (y : Launch), lseq ≠ 0 → find s.launches lseq = some y → (∀ c, (s.core c).pend = []) →
    ∃ t z, exec (.lend lseq) s = .next t ∧ find t.launches lseq = some z ∧ z.ended = some (1, (s.supReg 0x119).toNat) ∧
      (∀ r ∈ z.reps, r.2 = .retired) ∧ t.supReg 0x11B = BitVec.ofNat 64 (s.workWeight lseq) ∧
      ∀ c k, c < 768 → t.hasCrew c k = true → (t.crew c k).lseq ≠ lseq)

/-! ### Launches -/

/-- R29 to R32, R126, R355 to R357: in hardware mode an attempt asks the cores of the first rectangle that shows room,
or moves to the next die; a refused hold backs off; holds all granted become a crew that has not started, with its mint on
the way; a failed commit ends the launch; and a crew starts when its mint has been applied. -/
def Obligations.PlacementOfLaunches : Prop :=
  ∀ (s : State) (lseq r : Nat) (y : Launch), find s.launches lseq = some y →
    let k := s.launchKernel y
    let rep := fun (t : State) => find (t.launch lseq).reps r
    (∀ die fails tried, find y.reps r = some (.offered die fails tried) → y.go = true → y.ended = none →
      s.blockedBy lseq y = false → s.funcBit 3 = false →
      ∃ t, exec (.gangPlaceAttempt lseq r) s = .next t ∧ t.cores = s.cores ∧ rep t = some (match s.firstOrigin k die with
        | some o => .holding die o fails (rectCores die o k.gw k.gh) [] []
        | none => if tried < 3 then .offered ((die + 1) % 4) fails (tried + 1) else .waiting fails)) ∧
    (∀ die origin fails core, find y.reps r = some (.holding die origin fails [core] [] []) →
      ((s.core core).hold k lseq r = none → ∃ t, exec (.gangHoldAnswer lseq r core) s = .next t ∧
        ∃ u, rep t = some (.backoff die (fails + 1) u) ∧ (s.die die).dcyc ≤ u ∧ u < (s.die die).dcyc + 65536) ∧
      (∀ x, (s.core core).hold k lseq r = some x → (s.core core).holds = [] →
        (s.commitCheck y (recDom k y.r) (repMint k y.r) = none → ∃ t slot, exec (.gangHoldAnswer lseq r core) s = .next t ∧
          (s.core core).freeSlot = some slot ∧ rep t = some .committed ∧ t.hasCrew core slot = true ∧
          (t.crew core slot).run = .starting ∧ (t.crew core slot).lseq = lseq ∧ (t.crew core slot).replica = r ∧
          (t.crew core slot).kid = recKid y.r ∧ (t.core core).holds = [] ∧
          ∃ d, recDom k y.r = some d ∧ t.qmsgs = s.qmsgs ++ [⟨.mint (some (lseq, r)), d, repMint k y.r, ⟨0, 0, 0⟩, 0, false, []⟩]) ∧
        (∀ st, s.commitCheck y (recDom k y.r) (repMint k y.r) = some st → ∃ t, exec (.gangHoldAnswer lseq r core) s = .next t ∧
          (t.launch lseq).ended = some (st, 0) ∧ t.qmsgs = s.qmsgs ∧ (t.core core).holds = []))) ∧
    (∀ die fails u, find y.reps r = some (.backoff die fails u) → u ≤ (s.die die).dcyc →
      ∃ t, exec (.placerBackoffExpire lseq r) s = .next t ∧ rep t = some (.offered die fails 0)) ∧
    (∀ core slot, s.hasCrew core slot = true → (s.crew core slot).run = .starting → (s.crew core slot).lseq = lseq →
      (s.crew core slot).replica = r →
      (s.unminted lseq r = false → ∃ t, exec (.crewStart core slot) s = .next t ∧ (t.crew core slot).run = .running ∧
        rep t = some .started) ∧
      (s.unminted lseq r = true → exec (.crewStart core slot) s = .next s))

/-- R347, R348, R352, R354, R358 and R364: a host's writes fill a window, and a whole record enters its queue while that
has room; a session's datagram enters its record once; a decision reads the oldest record, and an accepted one takes the
next sequence number with its replicas offered to die lseq mod 4; a launch whose replicas have retired writes its report
and is gone. -/
def Obligations.RecordsAndCompletion : Prop :=
  (∀ (s : State) (w off : Nat) (bytes : List Byte),
    let x := s.window w
    (w < 16 → s.pcieUp = true → x.isOpen = true → bytes ≠ [] →
      (off + bytes.length ≤ 0xF8 → ∃ t, exec (.windowWrite w off bytes) s = .next t ∧
        (t.window w).cur = x.cur.writeL off bytes ∧ (t.window w).queue = x.queue ∧ t.mem = s.mem) ∧
      (off = 0 → bytes.length = 256 →
        (x.queue.length < 16 → ∃ t, exec (.windowWrite w off bytes) s = .next t ∧ (t.window w).cur = [] ∧
          (t.window w).queue = x.queue ++ [(BitVec.ofNat 2048 (leNat bytes), 0xFFFFFFFF)]) ∧
        (16 ≤ x.queue.length → ∃ t, exec (.windowWrite w off bytes) s = .next t ∧ (t.window w).queue = x.queue ∧
          (t.window w).drops = min (x.drops + 1) 255))) ∧
    (∀ acct peer port session, w < 256 → x.isOpen = false →
      ∃ t, exec (.windowOpen w acct peer port session) s = .next t ∧ (t.window w).isOpen = true ∧ (t.window w).acct = acct ∧
        t.windowOpened = true ∧ (16 ≤ w → find t.sessions w = some ⟨peer, port, session, 0, 0, []⟩)) ∧
    (x.isOpen = true → ∃ t, exec (.windowClose w) s = .next t ∧ (t.window w).isOpen = false ∧ (t.window w).queue = [] ∧
      find t.sessions w = none ∧ t.launches = s.launches) ∧
    (x.queue = [] → exec (.recordDecide w) s = .next s) ∧
    (∀ rec_ units rest, x.queue = (rec_, units) :: rest →
      let r := rec_.toNat
      (∀ c, s.decideRec x.acct r units = .error c → s.promoting (recComp r) = false → ∃ t, exec (.recordDecide w) s = .next t ∧ (t.window w).queue = rest ∧
        (t.window w).verdict = c ∧ (t.window w).lastSeq = bits r 2015 1984 ∧ t.launches = s.launches ∧
        t.nextLseq = s.nextLseq) ∧
      (∀ ts, s.decideRec x.acct r units = .ok ts → ∃ t y, exec (.recordDecide w) s = .next t ∧ (t.window w).queue = rest ∧
        (t.window w).verdict = 0 ∧ t.nextLseq = s.nextLseq + 1 ∧ find t.launches s.nextLseq = some y ∧ y.rec_ = rec_ ∧
        y.ended = none ∧ y.reps = (List.range (bits r 223 208 + 1)).map fun i => (i, .offered (s.nextLseq % 4) 0 0)))) ∧
  (∀ (s : State) (w : Nat) (q : Session) (src : BitVec 128) (port : BitVec 16) (bytes : List Byte),
    let f := fun (o n : Nat) => leNat ((bytes.drop o).take n)
    find s.sessions w = some q → bytes.length = 288 → f 6 2 = w → q.peer = src → q.port = port → f 0 4 = 0x53444E39 →
    f 4 1 = 1 → f 5 1 = 1 → f 8 4 = q.session.toNat → f 16 2 = 256 → f 18 14 = 0 →
    (f 12 4 ≤ q.dseq → ∃ t m, exec (.fabricDatagram src port bytes) s = .next t ∧ t.windows = s.windows ∧
      t.outLog = s.outLog ++ [.datagram q.peer q.port m]) ∧
    (q.dseq < f 12 4 → (s.window w).queue.length < 16 → ∃ t q', exec (.fabricDatagram src port bytes) s = .next t ∧
      find t.sessions w = some q' ∧ q'.dseq = f 12 4 ∧ q'.answers = q.answers ++ [f 12 4] ∧
      (t.window w).queue = (s.window w).queue ++ [(BitVec.ofNat 2048 (f 32 256), 0xFFFFFFFF)])) ∧
  (∀ (s : State) (lseq a : Nat) (y : Launch), find s.launches lseq = some y → (∀ e ∈ y.reps, e.2 = .retired) →
    s.promoting (recComp y.r) = false → y.r.testBit 242 = false → y.ended = none → (∀ d ∈ s.detBuf, d.lseq ≠ lseq) →
    ∃ t, exec (.launchComplete lseq) s = .next t ∧ find t.launches lseq = none ∧
      (recComp y.r ≠ 0 → recComp y.r % 32 = 0 → a + 32 ≤ 2 ^ 52 →
        s.hubCells (recAcct y.r) (recComp y.r) 32 .write = some ((List.range 32).map fun i => a + i) →
        let v := t.mem.readNat a 32
        bits v 63 0 = recTag y.r ∧ bits v 127 64 = y.result.toNat ∧ bits v 191 128 = lseq % 2 ^ 64 ∧ bits v 199 192 = 0 ∧
          v.testBit 255 = true))

/-! ### Translation, faults and errors -/

/-- R95, R186, R370 to R373: a walk that finds a leaf with the access's permission installs it and lets the course execute
again, and any other end leaves an entry for the fault ring, which takes it in the layout of Table 24-4; the firmware's
replay, refusal and fill; and what an invalidation drops. -/
def Obligations.FaultsAndTranslation : Prop :=
  (∀ (s : State) (core idx : Nat) (f : FaultEnt), find (s.core core).fbuf idx = some f →
    let goes := fun (t : State) (p : Park) => find (t.core core).fbuf idx = none ∧ (t.bundle f.ref).parked = [] ∧
      ∃ more, t.issue = s.issue ++ ⟨f.ref.core, f.ref.slot, f.ref.bundle, p.mask, p.pc, 0, true⟩ :: more
    (f.walking = true → (∀ r, s.walk core f.asid f.va.toNat = .fault r →
      ∃ t, exec (.pageWalkComplete core idx) s = .next t ∧ (t.core core).tlb = (s.core core).tlb ∧
        find (t.core core).fbuf idx = some { f with walking := false, reason := r })) ∧
    (f.walking = false → f.posted = false → s.ringRoom s.fqSeq 0x113 = true →
      ∃ t, exec (.faultEntryPost core idx) s = .next t ∧ t.fqSeq = s.fqSeq + 1 ∧
        find (t.core core).fbuf idx = some { f with posted := true } ∧
        let v := t.mem.readNat ((s.supReg 0x112).toNat + 32 * (s.fqSeq % 4096)) 32
        bits v 63 0 = (s.fqSeq + 1) % 2 ^ 64 ∧ bits v 119 64 = f.va.toNat % 2 ^ 56 ∧ bits v 164 160 = f.lane % 32 ∧
          bits v 191 176 = f.asid % 2 ^ 16 ∧ bits v 193 192 = f.reason % 4 ∧ bits v 203 198 = idx % 64) ∧
    (∀ p : Park, f.src = 0 → (s.bundle f.ref).parked = [p] → p.again = true → p.fetch = false →
      (∃ w ∈ p.waits, w.2 = .fault (some idx)) → (∀ w ∈ p.waits, w.2 = .course ∨ w.2 = .fault (some idx)) →
      s.hasBundle f.ref = true → (s.bundle f.ref).stopped = none →
      ((s.crew f.ref.core f.ref.slot).run = .running →
        (∀ e, f.walking = true → s.walk core f.asid f.va.toNat = .leaf e →
          e.allows (s.crew f.ref.core f.ref.slot).sup f.acc = true → (f.acc = .read ∨ f.acc = .fetch) →
          ∃ t, exec (.pageWalkComplete core idx) s = .next t ∧ e ∈ (t.core core).tlb ∧ goes t p) ∧
        (∃ t, exec (.freplayReplay core idx) s = .next t ∧ goes t p) ∧
        (let e := s.mem.readNat (s.supReg 0x110).toNat 16
         bits e 1 0 = 2 → entryBad 0 e = false → ∃ t, exec (.freplayFill core idx) s = .next t ∧ goes t p ∧
          leafOf f.asid f.va.toNat 0 e ∈ (t.core core).tlb)) ∧
      (f.ref.core < 768 → f.acc = .write → ∃ t, exec (.freplayRefuse core idx) s = .next t ∧
        find (t.core core).fbuf idx = none ∧ (t.bundle f.ref).parked = [] ∧
        (t.bundle f.ref).stopped = some ⟨p.pc, maskOf ((p.waits.filter fun w => w.2 == .fault (some idx)).map (·.1)), p.mask,
          ⟨5, f.va.setWidth 32, 0, BitVec.ofNat 32 (bits f.va.toNat 55 32), 1⟩⟩))) ∧
  (∀ (s : State) (asid : Nat) (va : DWord) (large : Bool),
    (∃ t, exec (.tlbiPage asid va large) s = .next t ∧ ∀ c, (t.core c).tlb = (s.core c).tlb.filter fun e =>
      !(e.asid == asid && e.large == large && decide (e.va ≤ va.toNat) &&
        decide (va.toNat < e.va + if e.large then 2 ^ 26 else 2 ^ 16))) ∧
    (∃ t, exec (.tlbiAsid asid) s = .next t ∧ ∀ c, (t.core c).tlb = (s.core c).tlb.filter fun e => e.asid != asid) ∧
    (∃ t, exec .tlbiAll s = .next t ∧ (∀ c, (t.core c).tlb = []) ∧
      ∀ (b : BRef) (pc : DWord) (l : Nat) (w : Fin 16), s.stillHeld 2 0 0 false = false → s.hasBundle b = true →
        (s.bundle b).parked = [⟨pc, [(l, .engine (.tlbi 2 0 0 false))], 15, w, false, false, false⟩] →
        (t.bundle b).parked = [] ∧ (t.lane b l).pc = pc + 16))

/-- R180, R182, R365, R366, R376, R379, R389 and R390: what an uncorrectable error does where it strikes, the refetch of a
page from its origin, a corrected error, the far-read limiter's refill, the reload of a core's configuration, and failed
links. That parity stops a house core's bundle too is the model's inference (assumption 30). -/
def Obligations.ErrorsAndLimits : Prop :=
  ∀ s : State,
    let cnt := fun (t : State) (i : Nat) => findD t.telemetry i 0 = min (findD s.telemetry i 0 + 1) (2 ^ 64 - 1)
    (∀ line : Nat,
      (s.originOf line = none ∨ line ∈ s.refetch → ∃ t, exec (.uncorrectableError (.memory line)) s = .next t ∧ t.mem = s.mem ∧
        (∀ l, (l = line ∨ ∃ ls ∈ s.badShingles line, l ∈ ls) → l ∈ t.poison) ∧
        findD t.telemetry 4 0 = min (findD s.telemetry 4 0 +
          if s.badShingles line = [] then 1 else 4 * (s.badShingles line).length) (2 ^ 64 - 1)) ∧
      (∀ o, s.originOf line = some o → line ∉ s.refetch → line ∉ s.refetched → s.badShingles line = [] → s.funcBit 6 = false →
        line ≠ ((s.supReg 0x115).toNat + 64 * (s.tqSeq % 4096)) / 64 →
        ∃ t, exec (.uncorrectableError (.memory line)) s = .next t ∧ line ∈ t.refetch ∧ line ∈ t.refetched ∧
          find t.origins line = some o ∧ cnt t 4)) ∧
    (∀ c k line, s.hasCrew c k = true → line < (s.crew c k).slines →
      ∃ t, exec (.uncorrectableError (.scratch c k line)) s = .next t ∧ t.line c k line = .poisoned ∧
        (∀ j, j ≠ line → t.line c k j = s.line c k j) ∧ cnt t 4) ∧
    (∀ c k n, s.hasCrew c k = true → n < (s.crew c k).ntiles →
      ∃ t, exec (.uncorrectableError (.tile c k n)) s = .next t ∧ (findD (t.crew c k).tiles n default).poison = true ∧
        (findD (t.crew c k).tiles n default).bytes = (findD (s.crew c k).tiles n default).bytes ∧ cnt t 4) ∧
    (∀ c b, c < 768 → b < 16 → ∃ t, exec (.uncorrectableError (.acc c b)) s = .next t ∧
      (t.core c).accPoison.getLsbD b = true ∧ cnt t 4) ∧
    (∀ b : BRef, s.hasBundle b = true → (s.bundle b).stopped = none →
      ∃ t p, exec (.uncorrectableError (.regfile b.core b.slot b.bundle)) s = .next t ∧ (t.bundle b).stopped = some p ∧
        p.info = ⟨0x43, 0, 0, 0, 0⟩ ∧ cnt t 4) ∧
    (∀ gn i p, (s.gangOf gn).flight[i]? = some p → ∃ t, exec (.uncorrectableError (.router gn i)) s = .next t ∧
      (t.gangOf gn).flight[i]? = some { p with bad := true } ∧ cnt t 4) ∧
    (∃ t, exec .errorCorrected s = .next t ∧ cnt t 6 ∧ t.mem = s.mem ∧ t.cores = s.cores) ∧
    (∀ line pa n o, find s.origins line = some (pa, n, o) → line ∈ s.refetch → s.funcBit 6 = false → s.poison = [] →
      ∃ t, exec (.originRefetchComplete line) s = .next t ∧ t.mem.readN pa n = s.mem.readN o n ∧ cnt t 5 ∧
        ∀ l ∈ t.refetch, l ∈ s.refetch ∧ (l < pa / 64 ∨ (pa + n + 63) / 64 ≤ l)) ∧
    (∀ core, core < 768 → (s.core core).farEpoch < (s.core core).cyc / 1024 →
      ∃ t, exec (.farReadRefill core) s = .next t ∧ (t.core core).cfg.farB = (s.core core).farNext ∧
        (t.core core).farLeft = (s.core core).farNext.toNat ∧ (t.core core).farEpoch = (s.core core).cyc / 1024) ∧
    (∀ core, core < 768 → let e := s.mem.readNat ((s.supReg 0x11C).toNat + 64 * core) 64
      ∃ t, exec (.cctsync core) s = .next t ∧ (t.core core).cfg.dispBase.toNat = bits e 511 448 ∧
        (t.core core).cfg.dispSize.toNat = bits e 447 416 ∧ (t.core core).farNext.toNat = bits e 415 400 ∧
        (t.core core).cfg.farB = (s.core core).cfg.farB) ∧
    (∃ t, exec .pcieUncorrectableError s = .next t ∧ t.pcieUp = false ∧ cnt t 4 ∧
      ∀ w off bs, exec (.windowWrite w off bs) t = .next t) ∧
    (∀ port, port < 8 → ∃ t, exec (.cxlPortFail port) s = .next t ∧ port ∈ t.cxlDown ∧ (∀ q ∈ s.cxlDown, q ∈ t.cxlDown) ∧
      (port ∉ s.cxlDown → cnt t 4))

/-! ### Maintenance slots -/

/-- R384 to R386, Tables 24-10 and 24-11: a calendar is installed after its checks and comes into force at a frame; the
sequencer's notice, opening, overrun and close; the dies' count, drain, hold and release; and the commands of
host-assisted mode. -/
def Obligations.MaintenanceSlots : Prop :=
  ∀ s : State,
    let q := s.seq
    let to4 := fun (id : SlotId) => (List.range 4).map fun d => (d, id)
    (∃ t, exec .calctlInstall s = .next t ∧ t.calendar = s.calendar ∧
      let r := calCheck s.readCalendar
      t.supReg 0x120 = BitVec.ofNat 64 (r.1 + 256 * r.2) ∧
      (r.1 = 1 → ∃ n, t.calPending = some (s.readCalendar, n) ∧ (n = 1 ∨ n = 2)) ∧ (r.1 ≠ 1 → t.calPending = s.calPending)) ∧
    (∃ t, exec .calendarFrame s = .next t ∧ t.frame = s.frame + 1 ∧ (s.calPending = none → t.calendar = s.calendar) ∧
      (∀ c, s.calPending = some (c, 1) → t.calendar = c ∧ t.calPending = none ∧ t.supReg 0x120 = 0) ∧
      (∀ c, s.calPending = some (c, 2) → t.calendar = s.calendar ∧ t.calPending = some (c, 1))) ∧
    (∀ entry rep, q.st = .idle → ∀ i, ((i = .slotNotice entry rep ∧ s.funcBit 4 = false ∧ s.slotDue entry rep = true) ∨
        (i = .slotcmdNotice entry rep ∧ s.funcBit 4 = true)) →
      let id : SlotId := ⟨entry, rep, calKind (calEntry s.calendar entry)⟩
      ∃ t, exec i s = .next t ∧ t.seq.st = .noticed ∧ t.seq.slot = id ∧ t.seq.drained = [] ∧
        t.seq.notices = q.notices ++ (List.range 4).map fun d => (d, id, (s.supReg 0x121).toNat)) ∧
    (∀ entry rep, q.st ≠ .idle → s.funcBit 4 = false → s.slotDue entry rep = true →
      let id : SlotId := ⟨entry, rep, calKind (calEntry s.calendar entry)⟩
      ∃ t, exec (.slotNotice entry rep) s = .next t ∧ t.seq.st = q.st ∧ t.seq.slot = q.slot ∧ t.seq.next = q.next ++ [(id, [])] ∧
        t.seq.notices = q.notices ++ (List.range 4).map fun d => (d, id, (s.supReg 0x121).toNat)) ∧
    (q.st = .noticed → (∀ d, d < 4 → d ∈ q.drained) → ∀ i, ((i = .slotOpen ∧ s.funcBit 4 = false) ∨
        (i = .slotcmdOpen q.slot.entry q.slot.rep ∧ s.funcBit 4 = true)) →
      ∃ t, exec i s = .next t ∧ t.seq.st = .open_ ∧ t.seq.opens = q.opens ++ to4 q.slot) ∧
    (q.st = .noticed → 0 ∉ q.drained → exec .slotOpen s = .next s ∧ (s.funcBit 4 = true →
      ∃ t, exec (.slotcmdOpen q.slot.entry q.slot.rep) s = .next t ∧
        t.seq = { q with asked := q.asked ++ [(q.slot.entry, q.slot.rep)] })) ∧
    (q.st = .open_ → ∃ t, exec .slotMaxlenExpire s = .next t ∧ t.seq.st = .overrun ∧
      findD t.telemetry 2 0 = min (findD s.telemetry 2 0 + 1) (2 ^ 64 - 1)) ∧
    (q.st = .open_ ∨ q.st = .overrun → ∀ i, ((∃ ns, i = .maintenanceComplete ns ∧ s.funcBit 4 = false) ∨
        (i = .slotcmdClose q.slot.entry q.slot.rep ∧ s.funcBit 4 = true)) →
      ∃ t, exec i s = .next t ∧ t.seq.closes = q.closes ++ to4 q.slot ∧ (q.next = [] → t.seq.st = .idle) ∧
        ∀ id ds r, q.next = (id, ds) :: r → q.asked = [] → t.seq.st = .noticed ∧ t.seq.slot = id ∧ t.seq.drained = ds ∧
          t.seq.next = r) ∧
    (∀ die,
      let d := s.die die
      (∀ id lead, q.notices = [(die, id, lead)] →
        (d.slot = .run → ∃ t, exec (.slotNoticeReceive die) s = .next t ∧ t.seq.notices = [] ∧
          (t.die die).slot = .count (d.dcyc + lead * 9 / 4) ∧ (t.die die).slotId = id) ∧
        (d.slot ≠ .run → ∃ t, exec (.slotNoticeReceive die) s = .next t ∧ t.seq.notices = [] ∧
          (t.die die).slot = d.slot ∧ (t.die die).kept = d.kept ++ [(id, lead, d.dcyc)])) ∧
      (∀ u, d.slot = .count u →
        (d.dcyc < u → exec (.slotCountZero die) s = .next s) ∧
        (u ≤ d.dcyc → ∃ t, exec (.slotCountZero die) s = .next t ∧ (t.die die).slot = .drained ∧
          t.seq.drains = q.drains ++ [(die, d.slotId)] ∧
          ∀ c, c < 768 → dieOf c = die → ∀ n, ∀ e ∈ t.queue c n, e.busy = false)) ∧
      (q.drains = [(die, q.slot)] → q.st = .noticed → ∃ t, exec (.slotDrainedReceive die) s = .next t ∧ t.seq.drains = [] ∧
        t.seq.drained = q.drained ++ [die] ∧ (q.asked = [] → t.seq.st = .noticed) ∧
        (q.asked = [(q.slot.entry, q.slot.rep)] → (∀ e, e < 4 → e = die ∨ e ∈ q.drained) →
          t.seq.st = .open_ ∧ t.seq.opens = q.opens ++ to4 q.slot ∧ t.seq.asked = [])) ∧
      (q.opens = [(die, d.slotId)] → d.slot = .drained → ∃ t, exec (.slotOpenReceive die) s = .next t ∧
        (t.die die).slot = .held ∧ t.seq.opens = []) ∧
      (q.closes = [(die, d.slotId)] → d.slot = .held → ∃ t, exec (.slotCloseReceive die) s = .next t ∧ t.seq.closes = [] ∧
        (d.kept = [] → (t.die die).slot = .run) ∧
        (∀ id lead c r, d.kept = (id, lead, c) :: r → (t.die die).slot = .count (c + lead * 9 / 4) ∧
          (t.die die).slotId = id ∧ (t.die die).kept = r)))

/-! ### Boot, management and the loader -/

/-- R34, R97, R331, R333, R340 to R344, R350, R351, R365 and R393: the boot ROM's attempts, and the image that runs; what
a module reset keeps; measurements; the mailbox; the host's aperture; and objects loaded, refused and unloaded. Which account
stands for which BAR is the model's choice (assumption 33). -/
def Obligations.BootAndManagement : Prop :=
  ∀ s : State,
    (s.boot.phase = 0 → s.boot.lease = none →
      (s.boot.tries < 5 → ∃ t, exec .bootDhcpTimeout s = .next t ∧ t.boot.tries = s.boot.tries + 1 ∧ t.boot.port = s.boot.port) ∧
      (5 ≤ s.boot.tries → ∃ t, exec .bootDhcpTimeout s = .next t ∧ t.boot.failStep = 1 ∧ t.boot.failPort = s.boot.port ∧
        t.boot.phase = (if s.boot.port < 7 then 0 else 1) ∧ t.boot.port = if s.boot.port < 7 then s.boot.port + 1 else 0) ∧
      (∀ addr url,
        ([0x68, 0x74, 0x74, 0x70, 0x3A, 0x2F, 0x2F] <+: url → ∃ t, exec (.bootDhcpReply addr url) s = .next t ∧
          t.boot = { s.boot with lease := some (addr, url) }) ∧
        (¬[0x68, 0x74, 0x74, 0x70, 0x3A, 0x2F, 0x2F] <+: url → ∃ t, exec (.bootDhcpReply addr url) s = .next t ∧
          t.boot.failStep = 2 ∧ t.boot.lease = none))) ∧
    (s.boot.phase = 1 → ∃ t, exec .bootRetryExpire s = .next t ∧ t.boot.phase = 0 ∧ t.boot.port = 0 ∧
      t.boot.rounds = s.boot.rounds) ∧
    (∀ addr url http image, s.boot.phase = 0 → s.boot.lease = some (addr, url) →
      let m := image.take (maniLen image)
      let region := image.drop (maniLen image)
      (http ≠ 200 → ∃ t, exec (.bootFetchComplete http image) s = .next t ∧ t.boot.failStep = 3 ∧ t.mem = s.mem) ∧
      (http = 200 → ∀ step, imageCheck s.fsvn m region = .error step →
        ∃ t, exec (.bootFetchComplete http image) s = .next t ∧ t.boot.failStep = step ∧ t.mem = s.mem) ∧
      (http = 200 → ∀ e k, imageCheck s.fsvn m region = .ok (e, k) →
        ∃ t, exec (.bootFetchComplete http image) s = .next t ∧ t.boot.phase = 2 ∧ t.svn = fieldAt m 8 4 ∧
          t.meas1 0 = Config.sha512 (leBytes (s.meas1 0).toNat 64 ++ Config.romBytes ++ leBytes s.fsvn 8) ∧ ∀ h, h < 16 →
            (t.houseOf (768 + h)).held = false ∧ (t.lane ⟨768 + h, 0, 0⟩ 0).pc =
              BitVec.ofNat 64 (Config.bootBase + (((maniAll m).find? fun c => c.2.2.1 == 0).map (·.1)).getD 0))) ∧
    (∃ t, exec .moduleReset s = .next t ∧ t.cores = State.reset.cores ∧ t.sup = [] ∧ t.launches = [] ∧ t.meas = [] ∧
      t.boot.phase = 0 ∧ t.fsvn = s.fsvn ∧ t.mem = s.mem ∧ t.windowOpened = false) ∧
    (∀ m data, ∃ t, exec (.measurementExtend m data) s = .next t ∧
      (4 ≤ m → m ≤ 7 → t.meas1 m = Config.sha512 (leBytes (s.meas1 m).toNat 64 ++ data)) ∧ (m < 4 ∨ 7 < m → t = s)) ∧
    (s.pcieUp = true → s.boot.phase = 2 → s.busy = false → ∀ (mseq : Word) (resp : DWord) (data : List Byte),
      let done := fun (t : State) (cmd result : Nat) => t.outLog = s.outLog ++ [.msix 16] ∧
        t.mcmd = BitVec.ofNat 64 (mseq.toNat * 2 ^ 32 + cmd) ∧
        t.mstatus = BitVec.ofNat 64 (mseq.toNat * 2 ^ 32 + result * 256) ∧ t.mem = s.mem
      (Config.hostTakes resp.toNat s.tick = true → ∃ t, exec (.mailboxReport mseq resp data) s = .next t ∧ done t 1 0 ∧
        t.hostMem.readNat resp.toNat 4 = 0x54415453 ∧
        ∀ i, i < 8 → t.hostMem.readNat (resp.toNat + 160 + 64 * i) 64 = (s.meas1 i).toNat) ∧
      (Config.hostTakes resp.toNat s.tick = false → ∃ t, exec (.mailboxReport mseq resp data) s = .next t ∧ done t 1 3 ∧
        t.hostMem = s.hostMem) ∧
      (let n := fieldAt data 0 1
       if 1 ≤ n ∧ n ≤ 64 ∧ n ≤ s.svn ∧ fieldAt data 1 127 = 0 then
         ∃ t, exec (.mailboxRaisefsvn mseq resp data) s = .next t ∧ done t 2 0 ∧ t.fsvn = max s.fsvn n
       else ∃ t, exec (.mailboxRaisefsvn mseq resp data) s = .next t ∧ done t 2 2 ∧ t.fsvn = s.fsvn) ∧
      (∀ cmd : Byte, cmd ≠ 1 → cmd ≠ 2 → ∃ t, exec (.mailboxUnknownCommand cmd mseq) s = .next t ∧ done t cmd.toNat 1 ∧
        t.fsvn = s.fsvn ∧ t.hostMem = s.hostMem)) ∧
    (∀ (w : DWord), s.pcieUp = true →
      (s.busy = true → exec (.hostApertureAccess true 65536 0x2000 (leBytes w.toNat 8)) s = .next s) ∧
      (s.busy = false → ∃ t, exec (.hostApertureAccess true 65536 0x2000 (leBytes w.toNat 8)) s = .next t ∧ t.mcmd = w ∧
        t.busy = true ∧ (s.boot.phase = 2 → w.toNat % 2 ^ 32 = 2 → ∀ a b c, ∃ u, exec (.mailboxRaisefsvn a b c) t = .next u ∧
          u.busy = false ∧ u.mcmd = w)) ∧
      ∀ va (bytes : List Byte), ∃ t, exec (.hostApertureAccess false 65537 va bytes) s = .next t ∧
        t.outLog = s.outLog ++ [.hostRead (List.replicate bytes.length 0xFF)]) ∧
    (∀ acct (va : DWord) (bytes : List Byte), s.pcieUp = true → acct < 65536 →
      (∀ cs, s.hubRange acct va.toNat bytes.length .read = some cs →
        ∃ t, exec (.hostApertureAccess false acct va bytes) s = .next t ∧ t.mem = s.mem ∧
          t.outLog = s.outLog ++ [.hostRead (s.cells cs)]) ∧
      (∀ p, bytes ≠ [] → s.pages = [] →
        s.hubRange acct va.toNat bytes.length .write = some ((List.range bytes.length).map fun i => p + i) →
        ∃ t, exec (.hostApertureAccess true acct va bytes) s = .next t ∧ t.mem.readN p bytes.length = bytes ∧
          ∀ c, c < p ∨ p + bytes.length ≤ c → t.mem.read c = s.mem.read c)) ∧
    (∀ acct (cv dv : DWord) (file : List Byte), acct < 65536 → cv.toNat % 65536 = 0 → dv.toNat % 65536 = 0 →
      (s.objReady cv.toNat dv.toNat file = none → ∃ t, exec (.objectLoad acct cv dv file) s = .next t ∧
        t.outLog = s.outLog ++ [.objectRefused] ∧ t.kernels = s.kernels ∧ t.mem = s.mem) ∧
      (∀ f u, s.objReady cv.toNat dv.toNat file = some f → s.pages = [] →
        (∀ p ∈ objData f dv.toNat, s.userPages acct p.1 p.2.length = true) →
        s.placed acct (objCode f cv.toNat ++ objData f dv.toNat) = some u →
        ∃ t, exec (.objectLoad acct cv dv file) s = .next t ∧ (find t.objs (s.kidNext + 1)).isSome = true ∧
          t.kidNext = s.kidNext + max (objKernels f) 1 ∧
          ∀ k, k < objKernels f → ∃ x, find t.kernels (s.kidNext + 1 + k) = some x ∧ x.acct = acct ∧
            x.code = BitVec.ofNat 64 (codeAt f cv.toNat k) ∧ x.header = BitVec.ofNat 128 (objHeader f k))) ∧
    (∀ obj o, find s.objs obj = some o →
      (s.unloadable o = true → ∃ t, exec (.objectUnload obj) s = .next t ∧ find t.objs obj = none ∧
        ∀ k ∈ o.kids, find t.kernels k = none) ∧
      (s.unloadable o = false → ∃ t, exec (.objectUnload obj) s = .next t ∧ t.objs = s.objs ∧ t.kernels = s.kernels ∧
        t.outLog = s.outLog ++ [.unloadRefused obj]))


/-! ### The whole machine -/

/-- R4, R186 and R191: decoding the word of a well-formed instruction, or its sixteen bytes, gives the instruction back; and
a word that decodes is the word of its instruction, which is well formed. -/
def Obligations.DecodeOfEncode : Prop :=
  (∀ i : Instr, i.wf = true → decode (encode i) = some i ∧ decodeTableWord 128 (encode i).toNat = some i) ∧
  ∀ (w : BitVec 128) (i : Instr), decode w = some i → i.wf = true ∧ encode i = w

/-- The words that the spec works out decode to the instructions they are given for: R212, R243, R252, R258, R288 and others,
and the two of chapter 11. -/
def Obligations.SampleWordsDecode : Prop :=
  let g : Guard := ⟨7, false⟩
  let s0 : Sched := ⟨false, 0, 15, 15, 0, 0⟩
  let x := fun (d a b c : Opnd) => (⟨g, d, a, b, c, 0, s0⟩ : Args)
  decode 0x0FF0_0000_0000_0000_2100_3FF0_1521_700F = some (.icmp .lt .s32 (x (.p 1) (.v 5) .zero .none)) ∧
  decode 0x0FF0_0000_0000_000A_4B00_0000_0803_7200 = some (.cvt .rn .f16 .f32 (x (.v 3) (.v 2) .none .none)) ∧
  decode 0x0FF0_0000_FFFF_FFB0_0000_0000_0000_1400 =
    some (.bra 0xFFFFFFB0 ⟨⟨1, false⟩, .none, .none, .none, .none, 0, s0⟩) ∧
  decode 0x0FF0_0000_0000_0000_D400_0070_1000_7501 = some (.stg .b32 ⟨.rel, .dev⟩ 0 (x .none (.v 4) (.v 7) .none)) ∧
  decode 0x0FF0_0000_0000_0010_D900_0060_1005_7600 = some (.atomg .add .s32 ⟨.ar, .dev⟩ 0x10 (x (.v 5) (.v 4) (.v 6) .none)) ∧
  decode 0x0FF0_0100_0000_0010_3000_3FE0_0402_7702 =
    some (.shfl .xor .b32 ⟨g, .v 2, .v 1, .imm, .none, 0x10, ⟨false, 0, 15, 15, 1, 0⟩⟩) ∧
  decode 0x0FF0_0000_0000_0000_0000_0293_E921_7800 = some (.pbind false (x (.p 1) (.q 2) (.v 41) .none)) ∧
  decode 0x0FF0_0000_0000_0000_0006_00C0_7800_7903 = some (.mloop (x .none (.v 30) (.v 12) (.v 24))) ∧
  decode 0x0FF0_0000_0000_0000_0300_0340_C8FA_7A0B = some (.attn true true (x (.q 2) (.v 50) (.v 52) .none)) ∧
  decode 0x0FF0_0000_0000_0000_04FF_C160_5400_7B00 =
    some (.cpy ⟨.gs, 0, false, true, .b32⟩ 0 0 (x .none (.v 21) (.v 22) .zero)) ∧
  decode 0x0FF0_0000_0000_0001_00FF_81E0_0009_7C00 = some (.spawn ⟨g, .v 9, .v 0, .v 30, .imm, 1, s0⟩) ∧
  decode 0x0FF0_0000_0000_0000_0000_0014_0C00_7D01 = some (.rsend (x .none (.c 3) (.v 1) .none)) ∧
  decode 0x0FF0_0000_0000_0111_0000_0000_1000_7E00 = some (.movk 0x111 (x .none (.v 4) .none .none)) ∧
  decode 0x1F10_0920_0000_0000_0100_0020_0403_2002 =
    some (.iadd .s32 ⟨⟨2, false⟩, .v 3, .v 1, .v 2, .none, 0, ⟨false, 1, 15, 1, 9, 2⟩⟩) ∧
  decode 0x0F40_0010_0000_0040_0400_0000_1005_9500 =
    some (.ldg .b32 ⟨.rlx, .lane⟩ 0x40 ⟨⟨1, true⟩, .v 5, .v 4, .none, .none, 0, ⟨false, 0, 15, 4, 0, 1⟩⟩)

/-- R38, R108, R186, R187 and R192: when the bytes at the PC of the chosen course spell an instruction that the crew may
execute, a step executes it, in the state whose TLB holds the translation used, at an ordering point where the WAIT mask,
an ended wait or the instruction itself makes one, with what the flags of its WAIT mask order acquired; a word that breaks a
check of R192 traps in the whole course instead. With no course chosen, a step executes the oldest event of the agenda, with
which the writers of acting registers go on, or else what the schedule gives (the model's choice, log entry 1). -/
def Obligations.StepRunsTheDecodedInstruction : Prop :=
  (∀ (s : State) (c : Course) (rest : List Course) (x : Xl), s.issue = c :: rest →
    let t := { s with issue := rest, cur := c }
    t.hasBundle t.ref = true → t.xlate t.ref (t.lanes.headD 0) c.pc.toNat 16 .fetch = .ok x →
    (∀ p ∈ x.cells, t.cellPoison p = false ∧ t.refetching p = none) → outside c.pc.toNat 16 = false →
    let w := bytesWord (t.cells x.cells)
    let u := t.fillUsed c.core x.es
    let v := if (u.bundle u.ref).orderPt = true ∨ w.extractLsb' 104 12 ≠ 0 ∨ u.ordersAt w = true then
      (u.setBundle u.ref { u.bundle u.ref with orderPt := false }).orderPoint c.core c.slot else u
    let env := envOf v.curCrew
    let opc := (w.extractLsb' 0 12).toNat
    (c.again = true ∨ (t.bundle t.ref).stopped ≠ none ∨ v.curCrew.async = []) →
    (∀ i, decode w = some i → classVer (opc / 256) ≤ env.ver → (768 ≤ c.core → i.houseIllop = false) →
      i.inLimits env = true → (i.privileged = true → env.sup = true) →
      (c.again = true → step s = exec i v) ∧ (c.again = false → v.hintHit i = false → step s = exec i (v.learnFlags w))) ∧
    (c.core < 768 → (t.bundle t.ref).stopped = none →
      let stops := fun (cause : Nat) => ∃ t', step s = .next t' ∧
        (t'.bundle t.ref).stopped = some ⟨c.pc, c.mask, c.mask, ⟨cause, 0, 0, 0, 0⟩⟩
      (classForms (opc / 256) ≤ opc % 256 ∨ env.ver < classVer (opc / 256) → stops 1) ∧
      (opc % 256 < classForms (opc / 256) → classVer (opc / 256) ≤ env.ver →
        (decode w = none → stops 2) ∧
        (∀ i, decode w = some i → i.inLimits env = false → stops 2) ∧
        (∀ i, decode w = some i → i.inLimits env = true → i.privileged = true → env.sup = false → stops 3)))) ∧
  (∀ (s : State) (i : Instr) (r : List Instr), s.issue = [] → i.shape = none →
    (s.agenda = i :: r → step s = exec i { s with agenda := r }.actDone) ∧
    (s.agenda = [] → Config.schedule s.tick = i → step s = exec i { s with tick := s.tick + 1 }))

/-- R47 and R192: no instruction of a class, no event and no step stops the machine: each answers a next state, in every
state. -/
def Obligations.StepNeverStops : Prop :=
  (∀ (i : Instr) (s : State), ∃ t, exec i s = .next t) ∧ ∀ s : State, ∃ t, step s = .next t

/-- The byte stores of the module and of the host stay in canonical form over every step (the model's representation of
memory, log entry 4). -/
def Obligations.MemoryStaysCanonical : Prop :=
  (∀ (i : Instr) (s t : State), s.memOk → exec i s = .next t → t.memOk) ∧
  ∀ s t : State, s.memOk → step s = .next t → t.memOk

/-- R18, R192 and R367: an instruction without privilege that a compute core executes changes no supervisor register, no
register of a house core, and nothing of boot, fuses or measurements. -/
def Obligations.UserFormsKeepSupervisorState : Prop :=
  ∀ (i : Instr) (s t : State), i.shape.isSome = true → i.privileged = false → s.cur.core < 768 → exec i s = .next t →
    t.sup = s.sup ∧ t.house = s.house ∧ t.boot = s.boot ∧ t.fsvn = s.fsvn ∧ t.svn = s.svn ∧ t.meas = s.meas ∧
      t.windowOpened = s.windowOpened

/-- R19, R39, R339, R340, R350, R354 and R367: the machine right after module reset: house core 0 runs its boot ROM's
steps and the others are held; no window is open, no domain is open, no launch, kernel or context exists, and registers
hold their reset values. Memory that nothing has written is in canonical form (log entry 4). -/
def Obligations.ResetState : Prop :=
  let s := State.reset
  s.memOk ∧ s.mem = [] ∧ s.boot.phase = 0 ∧ s.boot.rounds = 0 ∧ (s.houseOf 768).held = false ∧
    (∀ h, 1 ≤ h → h < 16 → (s.houseOf (768 + h)).held = true) ∧
    (∀ h, h < 16 → (s.houseOf (768 + h)).inh = false ∧ (s.crew (768 + h) 0).sup = true ∧
      (s.bundle ⟨768 + h, 0, 0⟩).live = 1 ∧ (s.crew (768 + h) 0).slines * 128 = 262144) ∧
    (∀ c, c < 768 → (s.core c).crews = [] ∧ (s.core c).cyc = 0) ∧ (∀ w, (s.window w).isOpen = false) ∧
    (∀ d, (s.dom d).st = .closed) ∧ s.launches = [] ∧ s.kernels = [] ∧ s.ctxs = [] ∧ s.segs = [] ∧ s.nextLseq = 1 ∧
    s.supReg 0x10B = 0 ∧ s.supReg 0x121 = 10000 ∧ s.bootHalt = 0 ∧ s.windowOpened = false ∧ s.frame = 0 ∧ s.calendar = []
end

