-- ==== Sys2Proof/Laws/Map.lean ====
section
/-!
SUPPORT. Laws of sparse tables and byte stores: a read after a write of the same key gives the value written, a write
leaves every other key alone, and every operation keeps the canonical form.
-/

namespace Sys2Proof.Machine

variable {α : Type}

@[simp] theorem find_put_self (m : SMap α) (k : Nat) (x : α) : find (put m k x) k = some x := by
  induction m with
  | nil => simp [put, find]
  | cons e r ih =>
    obtain ⟨j, y⟩ := e
    simp only [put]
    split
    · simp [find]
    · split
      · simp [find]
      · next h => simp [find, ih, Ne.symm h]

theorem find_put_ne (m : SMap α) {k j : Nat} (x : α) (h : j ≠ k) : find (put m k x) j = find m j := by
  induction m with
  | nil => simp [put, find, Ne.symm h]
  | cons e r ih =>
    obtain ⟨i, y⟩ := e
    simp only [put]
    split
    · simp [find, Ne.symm h]
    · split
      · next h2 => subst h2; simp [find, Ne.symm h]
      · simp [find, ih]

theorem find_put (m : SMap α) (k j : Nat) (x : α) : find (put m k x) j = if j = k then some x else find m j := by
  by_cases h : j = k
  · subst h; simp
  · simp [find_put_ne m x h, h]

@[simp] theorem findD_put_self (m : SMap α) (k : Nat) (x d : α) : findD (put m k x) k d = x := by simp [findD]

theorem findD_put_ne (m : SMap α) {k j : Nat} (x d : α) (h : j ≠ k) : findD (put m k x) j d = findD m j d := by
  simp [findD, find_put_ne m x h]

theorem findD_put (m : SMap α) (k j : Nat) (x d : α) : findD (put m k x) j d = if j = k then x else findD m j d := by
  by_cases h : j = k
  · subst h; simp
  · simp [findD_put_ne m x d h, h]

@[simp] theorem put_put (m : SMap α) (k : Nat) (x y : α) : put (put m k x) k y = put m k y := by
  induction m with
  | nil => simp [put]
  | cons e r ih =>
    obtain ⟨j, z⟩ := e
    simp only [put]
    split
    · simp [put]
    · split
      · simp [put]
      · next h1 h2 => simp [put, h1, h2, ih]

theorem find_filter (m : SMap α) (p : Nat → Bool) (k : Nat) :
    find (m.filter fun e => p e.1) k = if p k then find m k else none := by
  induction m with
  | nil => simp [find]
  | cons e r ih =>
    obtain ⟨i, y⟩ := e
    by_cases hi : i = k
    · subst hi
      by_cases hp : p i = true
      · simp [hp, find]
      · simp only [List.filter_cons]
        simp [hp, ih]
    · by_cases hp : p i = true
      · simp [hp, find, hi, ih]
      · simp [hp, find, hi, ih]

@[simp] theorem find_del_self (m : SMap α) (k : Nat) : find (del m k) k = none := by
  simpa [del] using find_filter m (fun j => j != k) k

theorem find_del_ne (m : SMap α) {k j : Nat} (h : j ≠ k) : find (del m k) j = find m j := by
  simpa [h, del] using find_filter m (fun i => i != k) j

@[simp] theorem findD_setD_self [DecidableEq α] (m : SMap α) (k : Nat) (x d : α) : findD (setD m k x d) k d = x := by
  unfold setD
  split
  · next h => simp [findD, h]
  · simp

theorem find_setD_ne [DecidableEq α] (m : SMap α) {k j : Nat} (x d : α) (h : j ≠ k) :
    find (setD m k x d) j = find m j := by
  unfold setD
  split
  · exact find_del_ne m h
  · exact find_put_ne m x h

theorem findD_setD_ne [DecidableEq α] (m : SMap α) {k j : Nat} (x d : α) (h : j ≠ k) :
    findD (setD m k x d) j d = findD m j d := by
  unfold setD
  split
  · simp [findD, find_del_ne m h]
  · simp [findD, find_put_ne m x h]

theorem findD_setD [DecidableEq α] (m : SMap α) (k j : Nat) (x d : α) :
    findD (setD m k x d) j d = if j = k then x else findD m j d := by
  by_cases h : j = k
  · subst h; simp
  · simp [findD_setD_ne m x d h, h]

/-! ### The canonical form -/

theorem risingFrom_mono {m : SMap α} {a b : Nat} (h : a ≤ b) (hr : risingFrom m b = true) : risingFrom m a = true := by
  cases m with
  | nil => rfl
  | cons e r =>
    simp only [risingFrom, Bool.and_eq_true, decide_eq_true_eq] at *
    exact ⟨le_trans h hr.1, hr.2⟩

theorem risingFrom_put {m : SMap α} {lo k : Nat} (x : α) (hk : lo ≤ k) (hr : risingFrom m lo = true) :
    risingFrom (put m k x) lo = true := by
  induction m generalizing lo with
  | nil => simp [put, risingFrom, hk]
  | cons e r ih =>
    obtain ⟨j, y⟩ := e
    simp only [risingFrom, Bool.and_eq_true, decide_eq_true_eq] at hr
    simp only [put]
    split
    · next h => simp [risingFrom, hk, hr.2, Nat.succ_le_of_lt h]
    · split
      · next h => subst h; simp [risingFrom, hk, hr.2]
      · next h1 h2 => simp [risingFrom, hr.1, ih (by omega : j + 1 ≤ k) hr.2]

theorem risingFrom_filter {m : SMap α} {lo : Nat} (p : Nat × α → Bool) (hr : risingFrom m lo = true) :
    risingFrom (m.filter p) lo = true := by
  induction m generalizing lo with
  | nil => rfl
  | cons e r ih =>
    obtain ⟨j, y⟩ := e
    simp only [risingFrom, Bool.and_eq_true, decide_eq_true_eq] at hr
    rw [List.filter_cons]
    split
    · simp [risingFrom, hr.1, ih hr.2]
    · exact risingFrom_mono (by omega) (ih hr.2)

theorem mem_put {m : SMap α} {k : Nat} {x : α} {e : Nat × α} (h : e ∈ put m k x) : e = (k, x) ∨ e ∈ m := by
  induction m with
  | nil => simpa [put] using h
  | cons f r ih =>
    obtain ⟨j, y⟩ := f
    simp only [put] at h
    split at h
    · simpa using h
    · split at h
      · simp only [List.mem_cons] at *
        exact h.imp_right .inr
      · simp only [List.mem_cons] at *
        rcases h with h | h
        · exact .inr (.inl h)
        · exact (ih h).imp_right .inr

/-- Setting a key keeps the canonical form. -/
theorem canonical_setD [DecidableEq α] {m : SMap α} {d : α} (k : Nat) (x : α) (h : canonical m d = true) :
    canonical (setD m k x d) d = true := by
  simp only [canonical, Bool.and_eq_true, List.all_eq_true, bne_iff_ne, ne_eq] at *
  unfold setD
  split
  · exact ⟨risingFrom_filter _ h.1, fun e he => h.2 e (List.mem_filter.1 he).1⟩
  · next hx =>
    refine ⟨risingFrom_put x (Nat.zero_le k) h.1, fun e he => ?_⟩
    rcases mem_put he with rfl | he
    · exact hx
    · exact h.2 e he

/-! ### Byte stores -/

@[simp] theorem Mem.read_write_self (m : Mem) (a : Nat) (b : Byte) : (m.write a b).read a = b := by
  simp [Mem.read, Mem.write]

theorem Mem.read_write_ne (m : Mem) {a c : Nat} (b : Byte) (h : c ≠ a) : (m.write a b).read c = m.read c :=
  findD_setD_ne m b 0 h

theorem Mem.write_wf {m : Mem} (a : Nat) (b : Byte) (h : m.wf = true) : (m.write a b).wf = true :=
  canonical_setD a b h

theorem Mem.writeL_wf {m : Mem} (a : Nat) (bs : List Byte) (h : m.wf = true) : (m.writeL a bs).wf = true := by
  induction bs generalizing m a with
  | nil => exact h
  | cons b r ih => exact ih (a + 1) (Mem.write_wf a b h)

theorem Mem.writeNat_wf {m : Mem} (a n x : Nat) (h : m.wf = true) : (m.writeNat a n x).wf = true :=
  Mem.writeL_wf a _ h

theorem Mem.scatter_wf {m : Mem} (w : List (Nat × Byte)) (h : m.wf = true) : (m.scatter w).wf = true := by
  induction w generalizing m with
  | nil => exact h
  | cons e r ih => exact ih (Mem.write_wf e.1 e.2 h)

theorem Mem.scatter_read_of_notMem (m : Mem) (w : List (Nat × Byte)) {a : Nat} (h : ∀ e ∈ w, e.1 ≠ a) :
    (m.scatter w).read a = m.read a := by
  induction w generalizing m with
  | nil => rfl
  | cons e r ih =>
    have := h e (by simp)
    rw [show Mem.scatter m (e :: r) = Mem.scatter (m.write e.1 e.2) r from rfl,
      ih _ fun f hf => h f (by simp [hf]), Mem.read_write_ne _ _ (Ne.symm this)]

theorem Mem.writeL_read_of_lt (m : Mem) (a : Nat) (bs : List Byte) {c : Nat} (h : c < a ∨ a + bs.length ≤ c) :
    (m.writeL a bs).read c = m.read c := by
  induction bs generalizing m a with
  | nil => rfl
  | cons b r ih =>
    rw [show Mem.writeL m a (b :: r) = Mem.writeL (m.write a b) (a + 1) r from rfl,
      ih _ _ (by simp only [List.length_cons] at h; omega), Mem.read_write_ne]
    simp only [List.length_cons] at h
    omega

/-- Bytes written one after another read back. -/
theorem Mem.readN_writeL (m : Mem) (a : Nat) (bs : List Byte) : (m.writeL a bs).readN a bs.length = bs := by
  have key : ∀ (bs : List Byte) (m : Mem) (a : Nat), (m.writeL a bs).readN a bs.length = bs := by
    intro bs
    induction bs with
    | nil => intro m a; rfl
    | cons b r ih =>
      intro m a
      have h1 : (Mem.writeL m a (b :: r)).read a = b := by
        rw [show Mem.writeL m a (b :: r) = Mem.writeL (m.write a b) (a + 1) r from rfl,
          Mem.writeL_read_of_lt _ _ _ (by omega)]
        simp
      have h2 : (Mem.writeL m a (b :: r)).readN (a + 1) r.length = r := ih (m.write a b) (a + 1)
      simp [Mem.readN, h1, h2]
  exact key bs m a

@[simp] theorem leBytes_length (x n : Nat) : (leBytes x n).length = n := by
  induction n generalizing x with
  | zero => rfl
  | succ n ih => simp [leBytes, ih]

/-- A number's bytes spell it again. -/
theorem leNat_leBytes (x n : Nat) : leNat (leBytes x n) = x % 256 ^ n := by
  induction n generalizing x with
  | zero => simp [leBytes, leNat, Nat.mod_one]
  | succ n ih =>
    simp only [leBytes, leNat, ih, BitVec.toNat_ofNat]
    rw [show (2 : Nat) ^ 8 = 256 by norm_num, Nat.pow_succ']
    exact (Nat.mod_mul).symm

end Sys2Proof.Machine
end

