-- ==== Sys2Proof/Laws/State.lean ====
section
/-!
SUPPORT. Laws of the state: reading a part after writing it, and, for each update, the fields it leaves alone.
-/

namespace Sys2Proof.Machine

/-! ### Reading after writing -/

@[simp] theorem core_setCore (s : State) (c : Nat) (x : Core) : (s.setCore c x).core c = x := by
  simp [State.core, State.setCore]

theorem core_setCore_ne (s : State) {c d : Nat} (x : Core) (h : d ≠ c) : (s.setCore c x).core d = s.core d := by
  simp [State.core, State.setCore, findD_put_ne, h]

@[simp] theorem setCore_setCore (s : State) (c : Nat) (x y : Core) : (s.setCore c x).setCore c y = s.setCore c y := by
  simp [State.setCore]

@[simp] theorem crew_setCrew (s : State) (c k : Nat) (x : Crew) : (s.setCrew c k x).crew c k = x := by
  simp [State.crew, State.setCrew]

theorem crew_setCrew_slot_ne (s : State) (c : Nat) {k j : Nat} (x : Crew) (h : j ≠ k) :
    (s.setCrew c k x).crew c j = s.crew c j := by
  simp [State.crew, State.setCrew, findD_put_ne, h]

theorem crew_setCrew_core_ne (s : State) {c d : Nat} (k j : Nat) (x : Crew) (h : d ≠ c) :
    (s.setCrew c k x).crew d j = s.crew d j := by
  simp [State.crew, State.setCrew, core_setCore_ne, h]

@[simp] theorem setCrew_setCrew (s : State) (c k : Nat) (x y : Crew) :
    (s.setCrew c k x).setCrew c k y = s.setCrew c k y := by
  simp [State.setCrew]

@[simp] theorem bundle_setBundle (s : State) (b : BRef) (x : Bundle) : (s.setBundle b x).bundle b = x := by
  simp [State.bundle, State.setBundle]

@[simp] theorem setBundle_setBundle (s : State) (b : BRef) (x y : Bundle) :
    (s.setBundle b x).setBundle b y = s.setBundle b y := by
  simp [State.setBundle]

/-- A bundle of the same crew that is not the one written. -/
theorem bundle_setBundle_ne (s : State) {b c : BRef} (x : Bundle) (h : c ≠ b) :
    (s.setBundle b x).bundle c = s.bundle c := by
  by_cases h1 : c.core = b.core
  · by_cases h2 : c.slot = b.slot
    · have h3 : c.bundle ≠ b.bundle := fun h3 => h (by cases b; cases c; simp_all)
      simp only [State.bundle, State.setBundle, h1, h2, crew_setCrew, findD_put_ne _ _ _ h3]
    · simp only [State.bundle, State.setBundle, h1, crew_setCrew_slot_ne _ _ _ h2]
  · simp only [State.bundle, State.setBundle, crew_setCrew_core_ne _ _ _ _ h1]

@[simp] theorem Bundle.lane_setLane (y : Bundle) (l : Nat) (z : Lane) : (y.setLane l z).lane l = z := by
  simp [Bundle.lane, Bundle.setLane]

theorem Bundle.lane_setLane_ne (y : Bundle) {l m : Nat} (z : Lane) (h : m ≠ l) : (y.setLane l z).lane m = y.lane m := by
  simp [Bundle.lane, Bundle.setLane, findD_put_ne, h]

theorem State.lane_eq (s : State) (b : BRef) (l : Nat) : s.lane b l = (s.bundle b).lane l := rfl

@[simp] theorem lane_setBundle (s : State) (b : BRef) (y : Bundle) (l : Nat) : (s.setBundle b y).lane b l = y.lane l := by
  simp [State.lane_eq]

theorem Bundle.lane_mapLanes_notMem (y : Bundle) (ls : List Nat) (f : Nat → Lane → Lane) {l : Nat} (h : l ∉ ls) :
    (y.mapLanes ls f).lane l = y.lane l := by
  unfold Bundle.mapLanes
  induction ls generalizing y with
  | nil => rfl
  | cons m r ih =>
    simp only [List.mem_cons, not_or] at h
    rw [List.foldl_cons, ih _ h.2, Bundle.lane_setLane_ne _ _ h.1]

theorem Bundle.lane_mapLanes_mem (y : Bundle) (ls : List Nat) (f : Nat → Lane → Lane) {l : Nat} (hn : ls.Nodup)
    (h : l ∈ ls) : (y.mapLanes ls f).lane l = f l (y.lane l) := by
  induction ls generalizing y with
  | nil => simp at h
  | cons m r ih =>
    rw [List.nodup_cons] at hn
    rw [show y.mapLanes (m :: r) f = (y.setLane m (f m (y.lane m))).mapLanes r f from rfl]
    rcases List.mem_cons.1 h with rfl | h
    · rw [Bundle.lane_mapLanes_notMem _ _ _ hn.1]; simp
    · have hm : l ≠ m := fun e => hn.1 (e ▸ h)
      rw [ih _ hn.2 h, Bundle.lane_setLane_ne _ _ hm]

/-- What a change of lanes does to one lane. -/
theorem Bundle.lane_mapLanes (y : Bundle) (ls : List Nat) (f : Nat → Lane → Lane) (l : Nat) (hn : ls.Nodup) :
    (y.mapLanes ls f).lane l = if l ∈ ls then f l (y.lane l) else y.lane l := by
  split
  · next h => exact Bundle.lane_mapLanes_mem y ls f hn h
  · next h => exact Bundle.lane_mapLanes_notMem y ls f h

/-- A change of lanes changes nothing else of its bundle. -/
theorem Bundle.mapLanes_eq (y : Bundle) (ls : List Nat) (f : Nat → Lane → Lane) :
    y.mapLanes ls f = { y with lanes := (y.mapLanes ls f).lanes } := by
  unfold Bundle.mapLanes
  induction ls generalizing y with
  | nil => rfl
  | cons m r ih => rw [List.foldl_cons, ih]; rfl

theorem lanesOf_nodup (m : Word) : (lanesOf m).Nodup := List.Nodup.filter _ List.nodup_range
theorem State.lanes_nodup (s : State) : s.lanes.Nodup := lanesOf_nodup _
theorem State.act_nodup (s : State) (x : Args) : (s.act x).Nodup := List.Nodup.filter _ s.lanes_nodup
theorem State.act_subset (s : State) (x : Args) {l : Nat} (h : l ∈ s.act x) : l ∈ s.lanes := (List.mem_filter.1 h).1

@[simp] theorem houseOf_setHouse (s : State) (c : Nat) (h : House) : (s.setHouse c h).houseOf c = h := by
  simp [State.houseOf, State.setHouse]

@[simp] theorem supReg_setSup (s : State) (n : Nat) (x : DWord) : (s.setSup n x).supReg n = x := by
  simp [State.supReg, State.setSup]

theorem supReg_setSup_ne (s : State) {n m : Nat} (x : DWord) (h : m ≠ n) : (s.setSup n x).supReg m = s.supReg m := by
  simp [State.supReg, State.setSup, findD, find_setD_ne, h]

/-! ### Fields that an update leaves alone -/

@[simp] theorem setCore_cur (s : State) (c : Nat) (x : Core) : (s.setCore c x).cur = s.cur := rfl
@[simp] theorem setCore_issue (s : State) (c : Nat) (x : Core) : (s.setCore c x).issue = s.issue := rfl
@[simp] theorem setCore_agenda (s : State) (c : Nat) (x : Core) : (s.setCore c x).agenda = s.agenda := rfl
@[simp] theorem setCore_tick (s : State) (c : Nat) (x : Core) : (s.setCore c x).tick = s.tick := rfl
@[simp] theorem setCore_opSeq (s : State) (c : Nat) (x : Core) : (s.setCore c x).opSeq = s.opSeq := rfl
@[simp] theorem setCore_outLog (s : State) (c : Nat) (x : Core) : (s.setCore c x).outLog = s.outLog := rfl
@[simp] theorem setCore_mem (s : State) (c : Nat) (x : Core) : (s.setCore c x).mem = s.mem := rfl
@[simp] theorem setCore_poison (s : State) (c : Nat) (x : Core) : (s.setCore c x).poison = s.poison := rfl
@[simp] theorem setCore_refetch (s : State) (c : Nat) (x : Core) : (s.setCore c x).refetch = s.refetch := rfl
@[simp] theorem setCore_refetched (s : State) (c : Nat) (x : Core) : (s.setCore c x).refetched = s.refetched := rfl
@[simp] theorem setCore_origins (s : State) (c : Nat) (x : Core) : (s.setCore c x).origins = s.origins := rfl
@[simp] theorem setCore_hostMem (s : State) (c : Nat) (x : Core) : (s.setCore c x).hostMem = s.hostMem := rfl
@[simp] theorem setCore_roVa (s : State) (c : Nat) (x : Core) : (s.setCore c x).roVa = s.roVa := rfl
@[simp] theorem setCore_detBuf (s : State) (c : Nat) (x : Core) : (s.setCore c x).detBuf = s.detBuf := rfl
@[simp] theorem setCore_house (s : State) (c : Nat) (x : Core) : (s.setCore c x).house = s.house := rfl
@[simp] theorem setCore_dies (s : State) (c : Nat) (x : Core) : (s.setCore c x).dies = s.dies := rfl
@[simp] theorem setCore_l2 (s : State) (c : Nat) (x : Core) : (s.setCore c x).l2 = s.l2 := rfl
@[simp] theorem setCore_lfsr (s : State) (c : Nat) (x : Core) : (s.setCore c x).lfsr = s.lfsr := rfl
@[simp] theorem setCore_saved (s : State) (c : Nat) (x : Core) : (s.setCore c x).saved = s.saved := rfl
@[simp] theorem setCore_gangs (s : State) (c : Nat) (x : Core) : (s.setCore c x).gangs = s.gangs := rfl
@[simp] theorem setCore_gangNext (s : State) (c : Nat) (x : Core) : (s.setCore c x).gangNext = s.gangNext := rfl
@[simp] theorem setCore_doms (s : State) (c : Nat) (x : Core) : (s.setCore c x).doms = s.doms := rfl
@[simp] theorem setCore_stopWt (s : State) (c : Nat) (x : Core) : (s.setCore c x).stopWt = s.stopWt := rfl
@[simp] theorem setCore_qmsgs (s : State) (c : Nat) (x : Core) : (s.setCore c x).qmsgs = s.qmsgs := rfl
@[simp] theorem setCore_grants (s : State) (c : Nat) (x : Core) : (s.setCore c x).grants = s.grants := rfl
@[simp] theorem setCore_ctxs (s : State) (c : Nat) (x : Core) : (s.setCore c x).ctxs = s.ctxs := rfl
@[simp] theorem setCore_segs (s : State) (c : Nat) (x : Core) : (s.setCore c x).segs = s.segs := rfl
@[simp] theorem setCore_pages (s : State) (c : Nat) (x : Core) : (s.setCore c x).pages = s.pages := rfl
@[simp] theorem setCore_serial (s : State) (c : Nat) (x : Core) : (s.setCore c x).serial = s.serial := rfl
@[simp] theorem setCore_windows (s : State) (c : Nat) (x : Core) : (s.setCore c x).windows = s.windows := rfl
@[simp] theorem setCore_sessions (s : State) (c : Nat) (x : Core) : (s.setCore c x).sessions = s.sessions := rfl
@[simp] theorem setCore_nextLseq (s : State) (c : Nat) (x : Core) : (s.setCore c x).nextLseq = s.nextLseq := rfl
@[simp] theorem setCore_launches (s : State) (c : Nat) (x : Core) : (s.setCore c x).launches = s.launches := rfl
@[simp] theorem setCore_fireNext (s : State) (c : Nat) (x : Core) : (s.setCore c x).fireNext = s.fireNext := rfl
@[simp] theorem setCore_kernels (s : State) (c : Nat) (x : Core) : (s.setCore c x).kernels = s.kernels := rfl
@[simp] theorem setCore_objs (s : State) (c : Nat) (x : Core) : (s.setCore c x).objs = s.objs := rfl
@[simp] theorem setCore_kidNext (s : State) (c : Nat) (x : Core) : (s.setCore c x).kidNext = s.kidNext := rfl
@[simp] theorem setCore_windowOpened (s : State) (c : Nat) (x : Core) : (s.setCore c x).windowOpened = s.windowOpened := rfl
@[simp] theorem setCore_sup (s : State) (c : Nat) (x : Core) : (s.setCore c x).sup = s.sup := rfl
@[simp] theorem setCore_trapWait (s : State) (c : Nat) (x : Core) : (s.setCore c x).trapWait = s.trapWait := rfl
@[simp] theorem setCore_fqSeq (s : State) (c : Nat) (x : Core) : (s.setCore c x).fqSeq = s.fqSeq := rfl
@[simp] theorem setCore_tqSeq (s : State) (c : Nat) (x : Core) : (s.setCore c x).tqSeq = s.tqSeq := rfl
@[simp] theorem setCore_rqSeq (s : State) (c : Nat) (x : Core) : (s.setCore c x).rqSeq = s.rqSeq := rfl
@[simp] theorem setCore_calendar (s : State) (c : Nat) (x : Core) : (s.setCore c x).calendar = s.calendar := rfl
@[simp] theorem setCore_calPending (s : State) (c : Nat) (x : Core) : (s.setCore c x).calPending = s.calPending := rfl
@[simp] theorem setCore_frame (s : State) (c : Nat) (x : Core) : (s.setCore c x).frame = s.frame := rfl
@[simp] theorem setCore_seq (s : State) (c : Nat) (x : Core) : (s.setCore c x).seq = s.seq := rfl
@[simp] theorem setCore_boot (s : State) (c : Nat) (x : Core) : (s.setCore c x).boot = s.boot := rfl
@[simp] theorem setCore_bootHalt (s : State) (c : Nat) (x : Core) : (s.setCore c x).bootHalt = s.bootHalt := rfl
@[simp] theorem setCore_meas (s : State) (c : Nat) (x : Core) : (s.setCore c x).meas = s.meas := rfl
@[simp] theorem setCore_fsvn (s : State) (c : Nat) (x : Core) : (s.setCore c x).fsvn = s.fsvn := rfl
@[simp] theorem setCore_svn (s : State) (c : Nat) (x : Core) : (s.setCore c x).svn = s.svn := rfl
@[simp] theorem setCore_edSlot (s : State) (c : Nat) (x : Core) : (s.setCore c x).edSlot = s.edSlot := rfl
@[simp] theorem setCore_mlSlot (s : State) (c : Nat) (x : Core) : (s.setCore c x).mlSlot = s.mlSlot := rfl
@[simp] theorem setCore_mcmd (s : State) (c : Nat) (x : Core) : (s.setCore c x).mcmd = s.mcmd := rfl
@[simp] theorem setCore_mstatus (s : State) (c : Nat) (x : Core) : (s.setCore c x).mstatus = s.mstatus := rfl
@[simp] theorem setCore_respAddr (s : State) (c : Nat) (x : Core) : (s.setCore c x).respAddr = s.respAddr := rfl
@[simp] theorem setCore_mdata (s : State) (c : Nat) (x : Core) : (s.setCore c x).mdata = s.mdata := rfl
@[simp] theorem setCore_telemetry (s : State) (c : Nat) (x : Core) : (s.setCore c x).telemetry = s.telemetry := rfl
@[simp] theorem setCore_pcieUp (s : State) (c : Nat) (x : Core) : (s.setCore c x).pcieUp = s.pcieUp := rfl
@[simp] theorem setCore_cxlDown (s : State) (c : Nat) (x : Core) : (s.setCore c x).cxlDown = s.cxlDown := rfl
@[simp] theorem setCore_untrained (s : State) (c : Nat) (x : Core) : (s.setCore c x).untrained = s.untrained := rfl
@[simp] theorem setCore_clock (s : State) (c : Nat) (x : Core) : (s.setCore c x).clock = s.clock := rfl
@[simp] theorem setCore_vers (s : State) (c : Nat) (x : Core) : (s.setCore c x).vers = s.vers := rfl
@[simp] theorem setCore_rels (s : State) (c : Nat) (x : Core) : (s.setCore c x).rels = s.rels := rfl
@[simp] theorem setCore_draws (s : State) (c : Nat) (x : Core) : (s.setCore c x).draws = s.draws := rfl
@[simp] theorem setCore_fences (s : State) (c : Nat) (x : Core) : (s.setCore c x).fences = s.fences := rfl
@[simp] theorem setCore_mgrView (s : State) (c : Nat) (x : Core) : (s.setCore c x).mgrView = s.mgrView := rfl
@[simp] theorem setCore_doneView (s : State) (c : Nat) (x : Core) : (s.setCore c x).doneView = s.doneView := rfl
@[simp] theorem setCore_agentNext (s : State) (c : Nat) (x : Core) : (s.setCore c x).agentNext = s.agentNext := rfl

@[simp] theorem setCrew_cur (s : State) (c k : Nat) (x : Crew) : (s.setCrew c k x).cur = s.cur := rfl
@[simp] theorem setCrew_issue (s : State) (c k : Nat) (x : Crew) : (s.setCrew c k x).issue = s.issue := rfl
@[simp] theorem setCrew_agenda (s : State) (c k : Nat) (x : Crew) : (s.setCrew c k x).agenda = s.agenda := rfl
@[simp] theorem setCrew_tick (s : State) (c k : Nat) (x : Crew) : (s.setCrew c k x).tick = s.tick := rfl
@[simp] theorem setCrew_opSeq (s : State) (c k : Nat) (x : Crew) : (s.setCrew c k x).opSeq = s.opSeq := rfl
@[simp] theorem setCrew_outLog (s : State) (c k : Nat) (x : Crew) : (s.setCrew c k x).outLog = s.outLog := rfl
@[simp] theorem setCrew_mem (s : State) (c k : Nat) (x : Crew) : (s.setCrew c k x).mem = s.mem := rfl
@[simp] theorem setCrew_poison (s : State) (c k : Nat) (x : Crew) : (s.setCrew c k x).poison = s.poison := rfl
@[simp] theorem setCrew_refetch (s : State) (c k : Nat) (x : Crew) : (s.setCrew c k x).refetch = s.refetch := rfl
@[simp] theorem setCrew_refetched (s : State) (c k : Nat) (x : Crew) : (s.setCrew c k x).refetched = s.refetched := rfl
@[simp] theorem setCrew_origins (s : State) (c k : Nat) (x : Crew) : (s.setCrew c k x).origins = s.origins := rfl
@[simp] theorem setCrew_hostMem (s : State) (c k : Nat) (x : Crew) : (s.setCrew c k x).hostMem = s.hostMem := rfl
@[simp] theorem setCrew_roVa (s : State) (c k : Nat) (x : Crew) : (s.setCrew c k x).roVa = s.roVa := rfl
@[simp] theorem setCrew_detBuf (s : State) (c k : Nat) (x : Crew) : (s.setCrew c k x).detBuf = s.detBuf := rfl
@[simp] theorem setCrew_house (s : State) (c k : Nat) (x : Crew) : (s.setCrew c k x).house = s.house := rfl
@[simp] theorem setCrew_dies (s : State) (c k : Nat) (x : Crew) : (s.setCrew c k x).dies = s.dies := rfl
@[simp] theorem setCrew_l2 (s : State) (c k : Nat) (x : Crew) : (s.setCrew c k x).l2 = s.l2 := rfl
@[simp] theorem setCrew_lfsr (s : State) (c k : Nat) (x : Crew) : (s.setCrew c k x).lfsr = s.lfsr := rfl
@[simp] theorem setCrew_saved (s : State) (c k : Nat) (x : Crew) : (s.setCrew c k x).saved = s.saved := rfl
@[simp] theorem setCrew_gangs (s : State) (c k : Nat) (x : Crew) : (s.setCrew c k x).gangs = s.gangs := rfl
@[simp] theorem setCrew_gangNext (s : State) (c k : Nat) (x : Crew) : (s.setCrew c k x).gangNext = s.gangNext := rfl
@[simp] theorem setCrew_doms (s : State) (c k : Nat) (x : Crew) : (s.setCrew c k x).doms = s.doms := rfl
@[simp] theorem setCrew_stopWt (s : State) (c k : Nat) (x : Crew) : (s.setCrew c k x).stopWt = s.stopWt := rfl
@[simp] theorem setCrew_qmsgs (s : State) (c k : Nat) (x : Crew) : (s.setCrew c k x).qmsgs = s.qmsgs := rfl
@[simp] theorem setCrew_grants (s : State) (c k : Nat) (x : Crew) : (s.setCrew c k x).grants = s.grants := rfl
@[simp] theorem setCrew_ctxs (s : State) (c k : Nat) (x : Crew) : (s.setCrew c k x).ctxs = s.ctxs := rfl
@[simp] theorem setCrew_segs (s : State) (c k : Nat) (x : Crew) : (s.setCrew c k x).segs = s.segs := rfl
@[simp] theorem setCrew_pages (s : State) (c k : Nat) (x : Crew) : (s.setCrew c k x).pages = s.pages := rfl
@[simp] theorem setCrew_serial (s : State) (c k : Nat) (x : Crew) : (s.setCrew c k x).serial = s.serial := rfl
@[simp] theorem setCrew_windows (s : State) (c k : Nat) (x : Crew) : (s.setCrew c k x).windows = s.windows := rfl
@[simp] theorem setCrew_sessions (s : State) (c k : Nat) (x : Crew) : (s.setCrew c k x).sessions = s.sessions := rfl
@[simp] theorem setCrew_nextLseq (s : State) (c k : Nat) (x : Crew) : (s.setCrew c k x).nextLseq = s.nextLseq := rfl
@[simp] theorem setCrew_launches (s : State) (c k : Nat) (x : Crew) : (s.setCrew c k x).launches = s.launches := rfl
@[simp] theorem setCrew_fireNext (s : State) (c k : Nat) (x : Crew) : (s.setCrew c k x).fireNext = s.fireNext := rfl
@[simp] theorem setCrew_kernels (s : State) (c k : Nat) (x : Crew) : (s.setCrew c k x).kernels = s.kernels := rfl
@[simp] theorem setCrew_objs (s : State) (c k : Nat) (x : Crew) : (s.setCrew c k x).objs = s.objs := rfl
@[simp] theorem setCrew_kidNext (s : State) (c k : Nat) (x : Crew) : (s.setCrew c k x).kidNext = s.kidNext := rfl
@[simp] theorem setCrew_windowOpened (s : State) (c k : Nat) (x : Crew) : (s.setCrew c k x).windowOpened = s.windowOpened := rfl
@[simp] theorem setCrew_sup (s : State) (c k : Nat) (x : Crew) : (s.setCrew c k x).sup = s.sup := rfl
@[simp] theorem setCrew_trapWait (s : State) (c k : Nat) (x : Crew) : (s.setCrew c k x).trapWait = s.trapWait := rfl
@[simp] theorem setCrew_fqSeq (s : State) (c k : Nat) (x : Crew) : (s.setCrew c k x).fqSeq = s.fqSeq := rfl
@[simp] theorem setCrew_tqSeq (s : State) (c k : Nat) (x : Crew) : (s.setCrew c k x).tqSeq = s.tqSeq := rfl
@[simp] theorem setCrew_rqSeq (s : State) (c k : Nat) (x : Crew) : (s.setCrew c k x).rqSeq = s.rqSeq := rfl
@[simp] theorem setCrew_calendar (s : State) (c k : Nat) (x : Crew) : (s.setCrew c k x).calendar = s.calendar := rfl
@[simp] theorem setCrew_calPending (s : State) (c k : Nat) (x : Crew) : (s.setCrew c k x).calPending = s.calPending := rfl
@[simp] theorem setCrew_frame (s : State) (c k : Nat) (x : Crew) : (s.setCrew c k x).frame = s.frame := rfl
@[simp] theorem setCrew_seq (s : State) (c k : Nat) (x : Crew) : (s.setCrew c k x).seq = s.seq := rfl
@[simp] theorem setCrew_boot (s : State) (c k : Nat) (x : Crew) : (s.setCrew c k x).boot = s.boot := rfl
@[simp] theorem setCrew_bootHalt (s : State) (c k : Nat) (x : Crew) : (s.setCrew c k x).bootHalt = s.bootHalt := rfl
@[simp] theorem setCrew_meas (s : State) (c k : Nat) (x : Crew) : (s.setCrew c k x).meas = s.meas := rfl
@[simp] theorem setCrew_fsvn (s : State) (c k : Nat) (x : Crew) : (s.setCrew c k x).fsvn = s.fsvn := rfl
@[simp] theorem setCrew_svn (s : State) (c k : Nat) (x : Crew) : (s.setCrew c k x).svn = s.svn := rfl
@[simp] theorem setCrew_edSlot (s : State) (c k : Nat) (x : Crew) : (s.setCrew c k x).edSlot = s.edSlot := rfl
@[simp] theorem setCrew_mlSlot (s : State) (c k : Nat) (x : Crew) : (s.setCrew c k x).mlSlot = s.mlSlot := rfl
@[simp] theorem setCrew_mcmd (s : State) (c k : Nat) (x : Crew) : (s.setCrew c k x).mcmd = s.mcmd := rfl
@[simp] theorem setCrew_mstatus (s : State) (c k : Nat) (x : Crew) : (s.setCrew c k x).mstatus = s.mstatus := rfl
@[simp] theorem setCrew_respAddr (s : State) (c k : Nat) (x : Crew) : (s.setCrew c k x).respAddr = s.respAddr := rfl
@[simp] theorem setCrew_mdata (s : State) (c k : Nat) (x : Crew) : (s.setCrew c k x).mdata = s.mdata := rfl
@[simp] theorem setCrew_telemetry (s : State) (c k : Nat) (x : Crew) : (s.setCrew c k x).telemetry = s.telemetry := rfl
@[simp] theorem setCrew_pcieUp (s : State) (c k : Nat) (x : Crew) : (s.setCrew c k x).pcieUp = s.pcieUp := rfl
@[simp] theorem setCrew_cxlDown (s : State) (c k : Nat) (x : Crew) : (s.setCrew c k x).cxlDown = s.cxlDown := rfl
@[simp] theorem setCrew_untrained (s : State) (c k : Nat) (x : Crew) : (s.setCrew c k x).untrained = s.untrained := rfl
@[simp] theorem setCrew_clock (s : State) (c k : Nat) (x : Crew) : (s.setCrew c k x).clock = s.clock := rfl
@[simp] theorem setCrew_vers (s : State) (c k : Nat) (x : Crew) : (s.setCrew c k x).vers = s.vers := rfl
@[simp] theorem setCrew_rels (s : State) (c k : Nat) (x : Crew) : (s.setCrew c k x).rels = s.rels := rfl
@[simp] theorem setCrew_draws (s : State) (c k : Nat) (x : Crew) : (s.setCrew c k x).draws = s.draws := rfl
@[simp] theorem setCrew_fences (s : State) (c k : Nat) (x : Crew) : (s.setCrew c k x).fences = s.fences := rfl
@[simp] theorem setCrew_mgrView (s : State) (c k : Nat) (x : Crew) : (s.setCrew c k x).mgrView = s.mgrView := rfl
@[simp] theorem setCrew_doneView (s : State) (c k : Nat) (x : Crew) : (s.setCrew c k x).doneView = s.doneView := rfl
@[simp] theorem setCrew_agentNext (s : State) (c k : Nat) (x : Crew) : (s.setCrew c k x).agentNext = s.agentNext := rfl

@[simp] theorem setBundle_cur (s : State) (b : BRef) (x : Bundle) : (s.setBundle b x).cur = s.cur := rfl
@[simp] theorem setBundle_issue (s : State) (b : BRef) (x : Bundle) : (s.setBundle b x).issue = s.issue := rfl
@[simp] theorem setBundle_agenda (s : State) (b : BRef) (x : Bundle) : (s.setBundle b x).agenda = s.agenda := rfl
@[simp] theorem setBundle_tick (s : State) (b : BRef) (x : Bundle) : (s.setBundle b x).tick = s.tick := rfl
@[simp] theorem setBundle_opSeq (s : State) (b : BRef) (x : Bundle) : (s.setBundle b x).opSeq = s.opSeq := rfl
@[simp] theorem setBundle_outLog (s : State) (b : BRef) (x : Bundle) : (s.setBundle b x).outLog = s.outLog := rfl
@[simp] theorem setBundle_mem (s : State) (b : BRef) (x : Bundle) : (s.setBundle b x).mem = s.mem := rfl
@[simp] theorem setBundle_poison (s : State) (b : BRef) (x : Bundle) : (s.setBundle b x).poison = s.poison := rfl
@[simp] theorem setBundle_refetch (s : State) (b : BRef) (x : Bundle) : (s.setBundle b x).refetch = s.refetch := rfl
@[simp] theorem setBundle_refetched (s : State) (b : BRef) (x : Bundle) : (s.setBundle b x).refetched = s.refetched := rfl
@[simp] theorem setBundle_origins (s : State) (b : BRef) (x : Bundle) : (s.setBundle b x).origins = s.origins := rfl
@[simp] theorem setBundle_hostMem (s : State) (b : BRef) (x : Bundle) : (s.setBundle b x).hostMem = s.hostMem := rfl
@[simp] theorem setBundle_roVa (s : State) (b : BRef) (x : Bundle) : (s.setBundle b x).roVa = s.roVa := rfl
@[simp] theorem setBundle_detBuf (s : State) (b : BRef) (x : Bundle) : (s.setBundle b x).detBuf = s.detBuf := rfl
@[simp] theorem setBundle_house (s : State) (b : BRef) (x : Bundle) : (s.setBundle b x).house = s.house := rfl
@[simp] theorem setBundle_dies (s : State) (b : BRef) (x : Bundle) : (s.setBundle b x).dies = s.dies := rfl
@[simp] theorem setBundle_l2 (s : State) (b : BRef) (x : Bundle) : (s.setBundle b x).l2 = s.l2 := rfl
@[simp] theorem setBundle_lfsr (s : State) (b : BRef) (x : Bundle) : (s.setBundle b x).lfsr = s.lfsr := rfl
@[simp] theorem setBundle_saved (s : State) (b : BRef) (x : Bundle) : (s.setBundle b x).saved = s.saved := rfl
@[simp] theorem setBundle_gangs (s : State) (b : BRef) (x : Bundle) : (s.setBundle b x).gangs = s.gangs := rfl
@[simp] theorem setBundle_gangNext (s : State) (b : BRef) (x : Bundle) : (s.setBundle b x).gangNext = s.gangNext := rfl
@[simp] theorem setBundle_doms (s : State) (b : BRef) (x : Bundle) : (s.setBundle b x).doms = s.doms := rfl
@[simp] theorem setBundle_stopWt (s : State) (b : BRef) (x : Bundle) : (s.setBundle b x).stopWt = s.stopWt := rfl
@[simp] theorem setBundle_qmsgs (s : State) (b : BRef) (x : Bundle) : (s.setBundle b x).qmsgs = s.qmsgs := rfl
@[simp] theorem setBundle_grants (s : State) (b : BRef) (x : Bundle) : (s.setBundle b x).grants = s.grants := rfl
@[simp] theorem setBundle_ctxs (s : State) (b : BRef) (x : Bundle) : (s.setBundle b x).ctxs = s.ctxs := rfl
@[simp] theorem setBundle_segs (s : State) (b : BRef) (x : Bundle) : (s.setBundle b x).segs = s.segs := rfl
@[simp] theorem setBundle_pages (s : State) (b : BRef) (x : Bundle) : (s.setBundle b x).pages = s.pages := rfl
@[simp] theorem setBundle_serial (s : State) (b : BRef) (x : Bundle) : (s.setBundle b x).serial = s.serial := rfl
@[simp] theorem setBundle_windows (s : State) (b : BRef) (x : Bundle) : (s.setBundle b x).windows = s.windows := rfl
@[simp] theorem setBundle_sessions (s : State) (b : BRef) (x : Bundle) : (s.setBundle b x).sessions = s.sessions := rfl
@[simp] theorem setBundle_nextLseq (s : State) (b : BRef) (x : Bundle) : (s.setBundle b x).nextLseq = s.nextLseq := rfl
@[simp] theorem setBundle_launches (s : State) (b : BRef) (x : Bundle) : (s.setBundle b x).launches = s.launches := rfl
@[simp] theorem setBundle_fireNext (s : State) (b : BRef) (x : Bundle) : (s.setBundle b x).fireNext = s.fireNext := rfl
@[simp] theorem setBundle_kernels (s : State) (b : BRef) (x : Bundle) : (s.setBundle b x).kernels = s.kernels := rfl
@[simp] theorem setBundle_objs (s : State) (b : BRef) (x : Bundle) : (s.setBundle b x).objs = s.objs := rfl
@[simp] theorem setBundle_kidNext (s : State) (b : BRef) (x : Bundle) : (s.setBundle b x).kidNext = s.kidNext := rfl
@[simp] theorem setBundle_windowOpened (s : State) (b : BRef) (x : Bundle) : (s.setBundle b x).windowOpened = s.windowOpened := rfl
@[simp] theorem setBundle_sup (s : State) (b : BRef) (x : Bundle) : (s.setBundle b x).sup = s.sup := rfl
@[simp] theorem setBundle_trapWait (s : State) (b : BRef) (x : Bundle) : (s.setBundle b x).trapWait = s.trapWait := rfl
@[simp] theorem setBundle_fqSeq (s : State) (b : BRef) (x : Bundle) : (s.setBundle b x).fqSeq = s.fqSeq := rfl
@[simp] theorem setBundle_tqSeq (s : State) (b : BRef) (x : Bundle) : (s.setBundle b x).tqSeq = s.tqSeq := rfl
@[simp] theorem setBundle_rqSeq (s : State) (b : BRef) (x : Bundle) : (s.setBundle b x).rqSeq = s.rqSeq := rfl
@[simp] theorem setBundle_calendar (s : State) (b : BRef) (x : Bundle) : (s.setBundle b x).calendar = s.calendar := rfl
@[simp] theorem setBundle_calPending (s : State) (b : BRef) (x : Bundle) : (s.setBundle b x).calPending = s.calPending := rfl
@[simp] theorem setBundle_frame (s : State) (b : BRef) (x : Bundle) : (s.setBundle b x).frame = s.frame := rfl
@[simp] theorem setBundle_seq (s : State) (b : BRef) (x : Bundle) : (s.setBundle b x).seq = s.seq := rfl
@[simp] theorem setBundle_boot (s : State) (b : BRef) (x : Bundle) : (s.setBundle b x).boot = s.boot := rfl
@[simp] theorem setBundle_bootHalt (s : State) (b : BRef) (x : Bundle) : (s.setBundle b x).bootHalt = s.bootHalt := rfl
@[simp] theorem setBundle_meas (s : State) (b : BRef) (x : Bundle) : (s.setBundle b x).meas = s.meas := rfl
@[simp] theorem setBundle_fsvn (s : State) (b : BRef) (x : Bundle) : (s.setBundle b x).fsvn = s.fsvn := rfl
@[simp] theorem setBundle_svn (s : State) (b : BRef) (x : Bundle) : (s.setBundle b x).svn = s.svn := rfl
@[simp] theorem setBundle_edSlot (s : State) (b : BRef) (x : Bundle) : (s.setBundle b x).edSlot = s.edSlot := rfl
@[simp] theorem setBundle_mlSlot (s : State) (b : BRef) (x : Bundle) : (s.setBundle b x).mlSlot = s.mlSlot := rfl
@[simp] theorem setBundle_mcmd (s : State) (b : BRef) (x : Bundle) : (s.setBundle b x).mcmd = s.mcmd := rfl
@[simp] theorem setBundle_mstatus (s : State) (b : BRef) (x : Bundle) : (s.setBundle b x).mstatus = s.mstatus := rfl
@[simp] theorem setBundle_respAddr (s : State) (b : BRef) (x : Bundle) : (s.setBundle b x).respAddr = s.respAddr := rfl
@[simp] theorem setBundle_mdata (s : State) (b : BRef) (x : Bundle) : (s.setBundle b x).mdata = s.mdata := rfl
@[simp] theorem setBundle_telemetry (s : State) (b : BRef) (x : Bundle) : (s.setBundle b x).telemetry = s.telemetry := rfl
@[simp] theorem setBundle_pcieUp (s : State) (b : BRef) (x : Bundle) : (s.setBundle b x).pcieUp = s.pcieUp := rfl
@[simp] theorem setBundle_cxlDown (s : State) (b : BRef) (x : Bundle) : (s.setBundle b x).cxlDown = s.cxlDown := rfl
@[simp] theorem setBundle_untrained (s : State) (b : BRef) (x : Bundle) : (s.setBundle b x).untrained = s.untrained := rfl
@[simp] theorem setBundle_clock (s : State) (b : BRef) (x : Bundle) : (s.setBundle b x).clock = s.clock := rfl
@[simp] theorem setBundle_vers (s : State) (b : BRef) (x : Bundle) : (s.setBundle b x).vers = s.vers := rfl
@[simp] theorem setBundle_rels (s : State) (b : BRef) (x : Bundle) : (s.setBundle b x).rels = s.rels := rfl
@[simp] theorem setBundle_draws (s : State) (b : BRef) (x : Bundle) : (s.setBundle b x).draws = s.draws := rfl
@[simp] theorem setBundle_fences (s : State) (b : BRef) (x : Bundle) : (s.setBundle b x).fences = s.fences := rfl
@[simp] theorem setBundle_mgrView (s : State) (b : BRef) (x : Bundle) : (s.setBundle b x).mgrView = s.mgrView := rfl
@[simp] theorem setBundle_doneView (s : State) (b : BRef) (x : Bundle) : (s.setBundle b x).doneView = s.doneView := rfl
@[simp] theorem setBundle_agentNext (s : State) (b : BRef) (x : Bundle) : (s.setBundle b x).agentNext = s.agentNext := rfl

@[simp] theorem setLane_cur (s : State) (b : BRef) (l : Nat) (x : Lane) : (s.setLane b l x).cur = s.cur := rfl
@[simp] theorem setLane_issue (s : State) (b : BRef) (l : Nat) (x : Lane) : (s.setLane b l x).issue = s.issue := rfl
@[simp] theorem setLane_agenda (s : State) (b : BRef) (l : Nat) (x : Lane) : (s.setLane b l x).agenda = s.agenda := rfl
@[simp] theorem setLane_tick (s : State) (b : BRef) (l : Nat) (x : Lane) : (s.setLane b l x).tick = s.tick := rfl
@[simp] theorem setLane_opSeq (s : State) (b : BRef) (l : Nat) (x : Lane) : (s.setLane b l x).opSeq = s.opSeq := rfl
@[simp] theorem setLane_outLog (s : State) (b : BRef) (l : Nat) (x : Lane) : (s.setLane b l x).outLog = s.outLog := rfl
@[simp] theorem setLane_mem (s : State) (b : BRef) (l : Nat) (x : Lane) : (s.setLane b l x).mem = s.mem := rfl
@[simp] theorem setLane_poison (s : State) (b : BRef) (l : Nat) (x : Lane) : (s.setLane b l x).poison = s.poison := rfl
@[simp] theorem setLane_refetch (s : State) (b : BRef) (l : Nat) (x : Lane) : (s.setLane b l x).refetch = s.refetch := rfl
@[simp] theorem setLane_refetched (s : State) (b : BRef) (l : Nat) (x : Lane) : (s.setLane b l x).refetched = s.refetched := rfl
@[simp] theorem setLane_origins (s : State) (b : BRef) (l : Nat) (x : Lane) : (s.setLane b l x).origins = s.origins := rfl
@[simp] theorem setLane_hostMem (s : State) (b : BRef) (l : Nat) (x : Lane) : (s.setLane b l x).hostMem = s.hostMem := rfl
@[simp] theorem setLane_roVa (s : State) (b : BRef) (l : Nat) (x : Lane) : (s.setLane b l x).roVa = s.roVa := rfl
@[simp] theorem setLane_detBuf (s : State) (b : BRef) (l : Nat) (x : Lane) : (s.setLane b l x).detBuf = s.detBuf := rfl
@[simp] theorem setLane_house (s : State) (b : BRef) (l : Nat) (x : Lane) : (s.setLane b l x).house = s.house := rfl
@[simp] theorem setLane_dies (s : State) (b : BRef) (l : Nat) (x : Lane) : (s.setLane b l x).dies = s.dies := rfl
@[simp] theorem setLane_l2 (s : State) (b : BRef) (l : Nat) (x : Lane) : (s.setLane b l x).l2 = s.l2 := rfl
@[simp] theorem setLane_lfsr (s : State) (b : BRef) (l : Nat) (x : Lane) : (s.setLane b l x).lfsr = s.lfsr := rfl
@[simp] theorem setLane_saved (s : State) (b : BRef) (l : Nat) (x : Lane) : (s.setLane b l x).saved = s.saved := rfl
@[simp] theorem setLane_gangs (s : State) (b : BRef) (l : Nat) (x : Lane) : (s.setLane b l x).gangs = s.gangs := rfl
@[simp] theorem setLane_gangNext (s : State) (b : BRef) (l : Nat) (x : Lane) : (s.setLane b l x).gangNext = s.gangNext := rfl
@[simp] theorem setLane_doms (s : State) (b : BRef) (l : Nat) (x : Lane) : (s.setLane b l x).doms = s.doms := rfl
@[simp] theorem setLane_stopWt (s : State) (b : BRef) (l : Nat) (x : Lane) : (s.setLane b l x).stopWt = s.stopWt := rfl
@[simp] theorem setLane_qmsgs (s : State) (b : BRef) (l : Nat) (x : Lane) : (s.setLane b l x).qmsgs = s.qmsgs := rfl
@[simp] theorem setLane_grants (s : State) (b : BRef) (l : Nat) (x : Lane) : (s.setLane b l x).grants = s.grants := rfl
@[simp] theorem setLane_ctxs (s : State) (b : BRef) (l : Nat) (x : Lane) : (s.setLane b l x).ctxs = s.ctxs := rfl
@[simp] theorem setLane_segs (s : State) (b : BRef) (l : Nat) (x : Lane) : (s.setLane b l x).segs = s.segs := rfl
@[simp] theorem setLane_pages (s : State) (b : BRef) (l : Nat) (x : Lane) : (s.setLane b l x).pages = s.pages := rfl
@[simp] theorem setLane_serial (s : State) (b : BRef) (l : Nat) (x : Lane) : (s.setLane b l x).serial = s.serial := rfl
@[simp] theorem setLane_windows (s : State) (b : BRef) (l : Nat) (x : Lane) : (s.setLane b l x).windows = s.windows := rfl
@[simp] theorem setLane_sessions (s : State) (b : BRef) (l : Nat) (x : Lane) : (s.setLane b l x).sessions = s.sessions := rfl
@[simp] theorem setLane_nextLseq (s : State) (b : BRef) (l : Nat) (x : Lane) : (s.setLane b l x).nextLseq = s.nextLseq := rfl
@[simp] theorem setLane_launches (s : State) (b : BRef) (l : Nat) (x : Lane) : (s.setLane b l x).launches = s.launches := rfl
@[simp] theorem setLane_fireNext (s : State) (b : BRef) (l : Nat) (x : Lane) : (s.setLane b l x).fireNext = s.fireNext := rfl
@[simp] theorem setLane_kernels (s : State) (b : BRef) (l : Nat) (x : Lane) : (s.setLane b l x).kernels = s.kernels := rfl
@[simp] theorem setLane_objs (s : State) (b : BRef) (l : Nat) (x : Lane) : (s.setLane b l x).objs = s.objs := rfl
@[simp] theorem setLane_kidNext (s : State) (b : BRef) (l : Nat) (x : Lane) : (s.setLane b l x).kidNext = s.kidNext := rfl
@[simp] theorem setLane_windowOpened (s : State) (b : BRef) (l : Nat) (x : Lane) : (s.setLane b l x).windowOpened = s.windowOpened := rfl
@[simp] theorem setLane_sup (s : State) (b : BRef) (l : Nat) (x : Lane) : (s.setLane b l x).sup = s.sup := rfl
@[simp] theorem setLane_trapWait (s : State) (b : BRef) (l : Nat) (x : Lane) : (s.setLane b l x).trapWait = s.trapWait := rfl
@[simp] theorem setLane_fqSeq (s : State) (b : BRef) (l : Nat) (x : Lane) : (s.setLane b l x).fqSeq = s.fqSeq := rfl
@[simp] theorem setLane_tqSeq (s : State) (b : BRef) (l : Nat) (x : Lane) : (s.setLane b l x).tqSeq = s.tqSeq := rfl
@[simp] theorem setLane_rqSeq (s : State) (b : BRef) (l : Nat) (x : Lane) : (s.setLane b l x).rqSeq = s.rqSeq := rfl
@[simp] theorem setLane_calendar (s : State) (b : BRef) (l : Nat) (x : Lane) : (s.setLane b l x).calendar = s.calendar := rfl
@[simp] theorem setLane_calPending (s : State) (b : BRef) (l : Nat) (x : Lane) : (s.setLane b l x).calPending = s.calPending := rfl
@[simp] theorem setLane_frame (s : State) (b : BRef) (l : Nat) (x : Lane) : (s.setLane b l x).frame = s.frame := rfl
@[simp] theorem setLane_seq (s : State) (b : BRef) (l : Nat) (x : Lane) : (s.setLane b l x).seq = s.seq := rfl
@[simp] theorem setLane_boot (s : State) (b : BRef) (l : Nat) (x : Lane) : (s.setLane b l x).boot = s.boot := rfl
@[simp] theorem setLane_bootHalt (s : State) (b : BRef) (l : Nat) (x : Lane) : (s.setLane b l x).bootHalt = s.bootHalt := rfl
@[simp] theorem setLane_meas (s : State) (b : BRef) (l : Nat) (x : Lane) : (s.setLane b l x).meas = s.meas := rfl
@[simp] theorem setLane_fsvn (s : State) (b : BRef) (l : Nat) (x : Lane) : (s.setLane b l x).fsvn = s.fsvn := rfl
@[simp] theorem setLane_svn (s : State) (b : BRef) (l : Nat) (x : Lane) : (s.setLane b l x).svn = s.svn := rfl
@[simp] theorem setLane_edSlot (s : State) (b : BRef) (l : Nat) (x : Lane) : (s.setLane b l x).edSlot = s.edSlot := rfl
@[simp] theorem setLane_mlSlot (s : State) (b : BRef) (l : Nat) (x : Lane) : (s.setLane b l x).mlSlot = s.mlSlot := rfl
@[simp] theorem setLane_mcmd (s : State) (b : BRef) (l : Nat) (x : Lane) : (s.setLane b l x).mcmd = s.mcmd := rfl
@[simp] theorem setLane_mstatus (s : State) (b : BRef) (l : Nat) (x : Lane) : (s.setLane b l x).mstatus = s.mstatus := rfl
@[simp] theorem setLane_respAddr (s : State) (b : BRef) (l : Nat) (x : Lane) : (s.setLane b l x).respAddr = s.respAddr := rfl
@[simp] theorem setLane_mdata (s : State) (b : BRef) (l : Nat) (x : Lane) : (s.setLane b l x).mdata = s.mdata := rfl
@[simp] theorem setLane_telemetry (s : State) (b : BRef) (l : Nat) (x : Lane) : (s.setLane b l x).telemetry = s.telemetry := rfl
@[simp] theorem setLane_pcieUp (s : State) (b : BRef) (l : Nat) (x : Lane) : (s.setLane b l x).pcieUp = s.pcieUp := rfl
@[simp] theorem setLane_cxlDown (s : State) (b : BRef) (l : Nat) (x : Lane) : (s.setLane b l x).cxlDown = s.cxlDown := rfl
@[simp] theorem setLane_untrained (s : State) (b : BRef) (l : Nat) (x : Lane) : (s.setLane b l x).untrained = s.untrained := rfl
@[simp] theorem setLane_clock (s : State) (b : BRef) (l : Nat) (x : Lane) : (s.setLane b l x).clock = s.clock := rfl
@[simp] theorem setLane_vers (s : State) (b : BRef) (l : Nat) (x : Lane) : (s.setLane b l x).vers = s.vers := rfl
@[simp] theorem setLane_rels (s : State) (b : BRef) (l : Nat) (x : Lane) : (s.setLane b l x).rels = s.rels := rfl
@[simp] theorem setLane_draws (s : State) (b : BRef) (l : Nat) (x : Lane) : (s.setLane b l x).draws = s.draws := rfl
@[simp] theorem setLane_fences (s : State) (b : BRef) (l : Nat) (x : Lane) : (s.setLane b l x).fences = s.fences := rfl
@[simp] theorem setLane_mgrView (s : State) (b : BRef) (l : Nat) (x : Lane) : (s.setLane b l x).mgrView = s.mgrView := rfl
@[simp] theorem setLane_doneView (s : State) (b : BRef) (l : Nat) (x : Lane) : (s.setLane b l x).doneView = s.doneView := rfl
@[simp] theorem setLane_agentNext (s : State) (b : BRef) (l : Nat) (x : Lane) : (s.setLane b l x).agentNext = s.agentNext := rfl

@[simp] theorem mapLanes_cur (s : State) (b : BRef) (ls : List Nat) (f : Nat → Lane → Lane) : (s.mapLanes b ls f).cur = s.cur := rfl
@[simp] theorem mapLanes_issue (s : State) (b : BRef) (ls : List Nat) (f : Nat → Lane → Lane) : (s.mapLanes b ls f).issue = s.issue := rfl
@[simp] theorem mapLanes_agenda (s : State) (b : BRef) (ls : List Nat) (f : Nat → Lane → Lane) : (s.mapLanes b ls f).agenda = s.agenda := rfl
@[simp] theorem mapLanes_tick (s : State) (b : BRef) (ls : List Nat) (f : Nat → Lane → Lane) : (s.mapLanes b ls f).tick = s.tick := rfl
@[simp] theorem mapLanes_opSeq (s : State) (b : BRef) (ls : List Nat) (f : Nat → Lane → Lane) : (s.mapLanes b ls f).opSeq = s.opSeq := rfl
@[simp] theorem mapLanes_outLog (s : State) (b : BRef) (ls : List Nat) (f : Nat → Lane → Lane) : (s.mapLanes b ls f).outLog = s.outLog := rfl
@[simp] theorem mapLanes_mem (s : State) (b : BRef) (ls : List Nat) (f : Nat → Lane → Lane) : (s.mapLanes b ls f).mem = s.mem := rfl
@[simp] theorem mapLanes_poison (s : State) (b : BRef) (ls : List Nat) (f : Nat → Lane → Lane) : (s.mapLanes b ls f).poison = s.poison := rfl
@[simp] theorem mapLanes_refetch (s : State) (b : BRef) (ls : List Nat) (f : Nat → Lane → Lane) : (s.mapLanes b ls f).refetch = s.refetch := rfl
@[simp] theorem mapLanes_refetched (s : State) (b : BRef) (ls : List Nat) (f : Nat → Lane → Lane) : (s.mapLanes b ls f).refetched = s.refetched := rfl
@[simp] theorem mapLanes_origins (s : State) (b : BRef) (ls : List Nat) (f : Nat → Lane → Lane) : (s.mapLanes b ls f).origins = s.origins := rfl
@[simp] theorem mapLanes_hostMem (s : State) (b : BRef) (ls : List Nat) (f : Nat → Lane → Lane) : (s.mapLanes b ls f).hostMem = s.hostMem := rfl
@[simp] theorem mapLanes_roVa (s : State) (b : BRef) (ls : List Nat) (f : Nat → Lane → Lane) : (s.mapLanes b ls f).roVa = s.roVa := rfl
@[simp] theorem mapLanes_detBuf (s : State) (b : BRef) (ls : List Nat) (f : Nat → Lane → Lane) : (s.mapLanes b ls f).detBuf = s.detBuf := rfl
@[simp] theorem mapLanes_house (s : State) (b : BRef) (ls : List Nat) (f : Nat → Lane → Lane) : (s.mapLanes b ls f).house = s.house := rfl
@[simp] theorem mapLanes_dies (s : State) (b : BRef) (ls : List Nat) (f : Nat → Lane → Lane) : (s.mapLanes b ls f).dies = s.dies := rfl
@[simp] theorem mapLanes_l2 (s : State) (b : BRef) (ls : List Nat) (f : Nat → Lane → Lane) : (s.mapLanes b ls f).l2 = s.l2 := rfl
@[simp] theorem mapLanes_lfsr (s : State) (b : BRef) (ls : List Nat) (f : Nat → Lane → Lane) : (s.mapLanes b ls f).lfsr = s.lfsr := rfl
@[simp] theorem mapLanes_saved (s : State) (b : BRef) (ls : List Nat) (f : Nat → Lane → Lane) : (s.mapLanes b ls f).saved = s.saved := rfl
@[simp] theorem mapLanes_gangs (s : State) (b : BRef) (ls : List Nat) (f : Nat → Lane → Lane) : (s.mapLanes b ls f).gangs = s.gangs := rfl
@[simp] theorem mapLanes_gangNext (s : State) (b : BRef) (ls : List Nat) (f : Nat → Lane → Lane) : (s.mapLanes b ls f).gangNext = s.gangNext := rfl
@[simp] theorem mapLanes_doms (s : State) (b : BRef) (ls : List Nat) (f : Nat → Lane → Lane) : (s.mapLanes b ls f).doms = s.doms := rfl
@[simp] theorem mapLanes_stopWt (s : State) (b : BRef) (ls : List Nat) (f : Nat → Lane → Lane) : (s.mapLanes b ls f).stopWt = s.stopWt := rfl
@[simp] theorem mapLanes_qmsgs (s : State) (b : BRef) (ls : List Nat) (f : Nat → Lane → Lane) : (s.mapLanes b ls f).qmsgs = s.qmsgs := rfl
@[simp] theorem mapLanes_grants (s : State) (b : BRef) (ls : List Nat) (f : Nat → Lane → Lane) : (s.mapLanes b ls f).grants = s.grants := rfl
@[simp] theorem mapLanes_ctxs (s : State) (b : BRef) (ls : List Nat) (f : Nat → Lane → Lane) : (s.mapLanes b ls f).ctxs = s.ctxs := rfl
@[simp] theorem mapLanes_segs (s : State) (b : BRef) (ls : List Nat) (f : Nat → Lane → Lane) : (s.mapLanes b ls f).segs = s.segs := rfl
@[simp] theorem mapLanes_pages (s : State) (b : BRef) (ls : List Nat) (f : Nat → Lane → Lane) : (s.mapLanes b ls f).pages = s.pages := rfl
@[simp] theorem mapLanes_serial (s : State) (b : BRef) (ls : List Nat) (f : Nat → Lane → Lane) : (s.mapLanes b ls f).serial = s.serial := rfl
@[simp] theorem mapLanes_windows (s : State) (b : BRef) (ls : List Nat) (f : Nat → Lane → Lane) : (s.mapLanes b ls f).windows = s.windows := rfl
@[simp] theorem mapLanes_sessions (s : State) (b : BRef) (ls : List Nat) (f : Nat → Lane → Lane) : (s.mapLanes b ls f).sessions = s.sessions := rfl
@[simp] theorem mapLanes_nextLseq (s : State) (b : BRef) (ls : List Nat) (f : Nat → Lane → Lane) : (s.mapLanes b ls f).nextLseq = s.nextLseq := rfl
@[simp] theorem mapLanes_launches (s : State) (b : BRef) (ls : List Nat) (f : Nat → Lane → Lane) : (s.mapLanes b ls f).launches = s.launches := rfl
@[simp] theorem mapLanes_fireNext (s : State) (b : BRef) (ls : List Nat) (f : Nat → Lane → Lane) : (s.mapLanes b ls f).fireNext = s.fireNext := rfl
@[simp] theorem mapLanes_kernels (s : State) (b : BRef) (ls : List Nat) (f : Nat → Lane → Lane) : (s.mapLanes b ls f).kernels = s.kernels := rfl
@[simp] theorem mapLanes_objs (s : State) (b : BRef) (ls : List Nat) (f : Nat → Lane → Lane) : (s.mapLanes b ls f).objs = s.objs := rfl
@[simp] theorem mapLanes_kidNext (s : State) (b : BRef) (ls : List Nat) (f : Nat → Lane → Lane) : (s.mapLanes b ls f).kidNext = s.kidNext := rfl
@[simp] theorem mapLanes_windowOpened (s : State) (b : BRef) (ls : List Nat) (f : Nat → Lane → Lane) : (s.mapLanes b ls f).windowOpened = s.windowOpened := rfl
@[simp] theorem mapLanes_sup (s : State) (b : BRef) (ls : List Nat) (f : Nat → Lane → Lane) : (s.mapLanes b ls f).sup = s.sup := rfl
@[simp] theorem mapLanes_trapWait (s : State) (b : BRef) (ls : List Nat) (f : Nat → Lane → Lane) : (s.mapLanes b ls f).trapWait = s.trapWait := rfl
@[simp] theorem mapLanes_fqSeq (s : State) (b : BRef) (ls : List Nat) (f : Nat → Lane → Lane) : (s.mapLanes b ls f).fqSeq = s.fqSeq := rfl
@[simp] theorem mapLanes_tqSeq (s : State) (b : BRef) (ls : List Nat) (f : Nat → Lane → Lane) : (s.mapLanes b ls f).tqSeq = s.tqSeq := rfl
@[simp] theorem mapLanes_rqSeq (s : State) (b : BRef) (ls : List Nat) (f : Nat → Lane → Lane) : (s.mapLanes b ls f).rqSeq = s.rqSeq := rfl
@[simp] theorem mapLanes_calendar (s : State) (b : BRef) (ls : List Nat) (f : Nat → Lane → Lane) : (s.mapLanes b ls f).calendar = s.calendar := rfl
@[simp] theorem mapLanes_calPending (s : State) (b : BRef) (ls : List Nat) (f : Nat → Lane → Lane) : (s.mapLanes b ls f).calPending = s.calPending := rfl
@[simp] theorem mapLanes_frame (s : State) (b : BRef) (ls : List Nat) (f : Nat → Lane → Lane) : (s.mapLanes b ls f).frame = s.frame := rfl
@[simp] theorem mapLanes_seq (s : State) (b : BRef) (ls : List Nat) (f : Nat → Lane → Lane) : (s.mapLanes b ls f).seq = s.seq := rfl
@[simp] theorem mapLanes_boot (s : State) (b : BRef) (ls : List Nat) (f : Nat → Lane → Lane) : (s.mapLanes b ls f).boot = s.boot := rfl
@[simp] theorem mapLanes_bootHalt (s : State) (b : BRef) (ls : List Nat) (f : Nat → Lane → Lane) : (s.mapLanes b ls f).bootHalt = s.bootHalt := rfl
@[simp] theorem mapLanes_meas (s : State) (b : BRef) (ls : List Nat) (f : Nat → Lane → Lane) : (s.mapLanes b ls f).meas = s.meas := rfl
@[simp] theorem mapLanes_fsvn (s : State) (b : BRef) (ls : List Nat) (f : Nat → Lane → Lane) : (s.mapLanes b ls f).fsvn = s.fsvn := rfl
@[simp] theorem mapLanes_svn (s : State) (b : BRef) (ls : List Nat) (f : Nat → Lane → Lane) : (s.mapLanes b ls f).svn = s.svn := rfl
@[simp] theorem mapLanes_edSlot (s : State) (b : BRef) (ls : List Nat) (f : Nat → Lane → Lane) : (s.mapLanes b ls f).edSlot = s.edSlot := rfl
@[simp] theorem mapLanes_mlSlot (s : State) (b : BRef) (ls : List Nat) (f : Nat → Lane → Lane) : (s.mapLanes b ls f).mlSlot = s.mlSlot := rfl
@[simp] theorem mapLanes_mcmd (s : State) (b : BRef) (ls : List Nat) (f : Nat → Lane → Lane) : (s.mapLanes b ls f).mcmd = s.mcmd := rfl
@[simp] theorem mapLanes_mstatus (s : State) (b : BRef) (ls : List Nat) (f : Nat → Lane → Lane) : (s.mapLanes b ls f).mstatus = s.mstatus := rfl
@[simp] theorem mapLanes_respAddr (s : State) (b : BRef) (ls : List Nat) (f : Nat → Lane → Lane) : (s.mapLanes b ls f).respAddr = s.respAddr := rfl
@[simp] theorem mapLanes_mdata (s : State) (b : BRef) (ls : List Nat) (f : Nat → Lane → Lane) : (s.mapLanes b ls f).mdata = s.mdata := rfl
@[simp] theorem mapLanes_telemetry (s : State) (b : BRef) (ls : List Nat) (f : Nat → Lane → Lane) : (s.mapLanes b ls f).telemetry = s.telemetry := rfl
@[simp] theorem mapLanes_pcieUp (s : State) (b : BRef) (ls : List Nat) (f : Nat → Lane → Lane) : (s.mapLanes b ls f).pcieUp = s.pcieUp := rfl
@[simp] theorem mapLanes_cxlDown (s : State) (b : BRef) (ls : List Nat) (f : Nat → Lane → Lane) : (s.mapLanes b ls f).cxlDown = s.cxlDown := rfl
@[simp] theorem mapLanes_untrained (s : State) (b : BRef) (ls : List Nat) (f : Nat → Lane → Lane) : (s.mapLanes b ls f).untrained = s.untrained := rfl
@[simp] theorem mapLanes_clock (s : State) (b : BRef) (ls : List Nat) (f : Nat → Lane → Lane) : (s.mapLanes b ls f).clock = s.clock := rfl
@[simp] theorem mapLanes_vers (s : State) (b : BRef) (ls : List Nat) (f : Nat → Lane → Lane) : (s.mapLanes b ls f).vers = s.vers := rfl
@[simp] theorem mapLanes_rels (s : State) (b : BRef) (ls : List Nat) (f : Nat → Lane → Lane) : (s.mapLanes b ls f).rels = s.rels := rfl
@[simp] theorem mapLanes_draws (s : State) (b : BRef) (ls : List Nat) (f : Nat → Lane → Lane) : (s.mapLanes b ls f).draws = s.draws := rfl
@[simp] theorem mapLanes_fences (s : State) (b : BRef) (ls : List Nat) (f : Nat → Lane → Lane) : (s.mapLanes b ls f).fences = s.fences := rfl
@[simp] theorem mapLanes_mgrView (s : State) (b : BRef) (ls : List Nat) (f : Nat → Lane → Lane) : (s.mapLanes b ls f).mgrView = s.mgrView := rfl
@[simp] theorem mapLanes_doneView (s : State) (b : BRef) (ls : List Nat) (f : Nat → Lane → Lane) : (s.mapLanes b ls f).doneView = s.doneView := rfl
@[simp] theorem mapLanes_agentNext (s : State) (b : BRef) (ls : List Nat) (f : Nat → Lane → Lane) : (s.mapLanes b ls f).agentNext = s.agentNext := rfl

@[simp] theorem finishTo_cur (s : State) (x : Args) (d : Bool) (n : Nat → DWord) : (s.finishTo x d n).cur = s.cur := rfl
@[simp] theorem finishTo_issue (s : State) (x : Args) (d : Bool) (n : Nat → DWord) : (s.finishTo x d n).issue = s.issue := rfl
@[simp] theorem finishTo_agenda (s : State) (x : Args) (d : Bool) (n : Nat → DWord) : (s.finishTo x d n).agenda = s.agenda := rfl
@[simp] theorem finishTo_tick (s : State) (x : Args) (d : Bool) (n : Nat → DWord) : (s.finishTo x d n).tick = s.tick := rfl
@[simp] theorem finishTo_opSeq (s : State) (x : Args) (d : Bool) (n : Nat → DWord) : (s.finishTo x d n).opSeq = s.opSeq := rfl
@[simp] theorem finishTo_outLog (s : State) (x : Args) (d : Bool) (n : Nat → DWord) : (s.finishTo x d n).outLog = s.outLog := rfl
@[simp] theorem finishTo_mem (s : State) (x : Args) (d : Bool) (n : Nat → DWord) : (s.finishTo x d n).mem = s.mem := rfl
@[simp] theorem finishTo_poison (s : State) (x : Args) (d : Bool) (n : Nat → DWord) : (s.finishTo x d n).poison = s.poison := rfl
@[simp] theorem finishTo_refetch (s : State) (x : Args) (d : Bool) (n : Nat → DWord) : (s.finishTo x d n).refetch = s.refetch := rfl
@[simp] theorem finishTo_refetched (s : State) (x : Args) (d : Bool) (n : Nat → DWord) : (s.finishTo x d n).refetched = s.refetched := rfl
@[simp] theorem finishTo_origins (s : State) (x : Args) (d : Bool) (n : Nat → DWord) : (s.finishTo x d n).origins = s.origins := rfl
@[simp] theorem finishTo_hostMem (s : State) (x : Args) (d : Bool) (n : Nat → DWord) : (s.finishTo x d n).hostMem = s.hostMem := rfl
@[simp] theorem finishTo_roVa (s : State) (x : Args) (d : Bool) (n : Nat → DWord) : (s.finishTo x d n).roVa = s.roVa := rfl
@[simp] theorem finishTo_detBuf (s : State) (x : Args) (d : Bool) (n : Nat → DWord) : (s.finishTo x d n).detBuf = s.detBuf := rfl
@[simp] theorem finishTo_house (s : State) (x : Args) (d : Bool) (n : Nat → DWord) : (s.finishTo x d n).house = s.house := rfl
@[simp] theorem finishTo_dies (s : State) (x : Args) (d : Bool) (n : Nat → DWord) : (s.finishTo x d n).dies = s.dies := rfl
@[simp] theorem finishTo_l2 (s : State) (x : Args) (d : Bool) (n : Nat → DWord) : (s.finishTo x d n).l2 = s.l2 := rfl
@[simp] theorem finishTo_lfsr (s : State) (x : Args) (d : Bool) (n : Nat → DWord) : (s.finishTo x d n).lfsr = s.lfsr := rfl
@[simp] theorem finishTo_saved (s : State) (x : Args) (d : Bool) (n : Nat → DWord) : (s.finishTo x d n).saved = s.saved := rfl
@[simp] theorem finishTo_gangs (s : State) (x : Args) (d : Bool) (n : Nat → DWord) : (s.finishTo x d n).gangs = s.gangs := rfl
@[simp] theorem finishTo_gangNext (s : State) (x : Args) (d : Bool) (n : Nat → DWord) : (s.finishTo x d n).gangNext = s.gangNext := rfl
@[simp] theorem finishTo_doms (s : State) (x : Args) (d : Bool) (n : Nat → DWord) : (s.finishTo x d n).doms = s.doms := rfl
@[simp] theorem finishTo_stopWt (s : State) (x : Args) (d : Bool) (n : Nat → DWord) : (s.finishTo x d n).stopWt = s.stopWt := rfl
@[simp] theorem finishTo_qmsgs (s : State) (x : Args) (d : Bool) (n : Nat → DWord) : (s.finishTo x d n).qmsgs = s.qmsgs := rfl
@[simp] theorem finishTo_grants (s : State) (x : Args) (d : Bool) (n : Nat → DWord) : (s.finishTo x d n).grants = s.grants := rfl
@[simp] theorem finishTo_ctxs (s : State) (x : Args) (d : Bool) (n : Nat → DWord) : (s.finishTo x d n).ctxs = s.ctxs := rfl
@[simp] theorem finishTo_segs (s : State) (x : Args) (d : Bool) (n : Nat → DWord) : (s.finishTo x d n).segs = s.segs := rfl
@[simp] theorem finishTo_pages (s : State) (x : Args) (d : Bool) (n : Nat → DWord) : (s.finishTo x d n).pages = s.pages := rfl
@[simp] theorem finishTo_serial (s : State) (x : Args) (d : Bool) (n : Nat → DWord) : (s.finishTo x d n).serial = s.serial := rfl
@[simp] theorem finishTo_windows (s : State) (x : Args) (d : Bool) (n : Nat → DWord) : (s.finishTo x d n).windows = s.windows := rfl
@[simp] theorem finishTo_sessions (s : State) (x : Args) (d : Bool) (n : Nat → DWord) : (s.finishTo x d n).sessions = s.sessions := rfl
@[simp] theorem finishTo_nextLseq (s : State) (x : Args) (d : Bool) (n : Nat → DWord) : (s.finishTo x d n).nextLseq = s.nextLseq := rfl
@[simp] theorem finishTo_launches (s : State) (x : Args) (d : Bool) (n : Nat → DWord) : (s.finishTo x d n).launches = s.launches := rfl
@[simp] theorem finishTo_fireNext (s : State) (x : Args) (d : Bool) (n : Nat → DWord) : (s.finishTo x d n).fireNext = s.fireNext := rfl
@[simp] theorem finishTo_kernels (s : State) (x : Args) (d : Bool) (n : Nat → DWord) : (s.finishTo x d n).kernels = s.kernels := rfl
@[simp] theorem finishTo_objs (s : State) (x : Args) (d : Bool) (n : Nat → DWord) : (s.finishTo x d n).objs = s.objs := rfl
@[simp] theorem finishTo_kidNext (s : State) (x : Args) (d : Bool) (n : Nat → DWord) : (s.finishTo x d n).kidNext = s.kidNext := rfl
@[simp] theorem finishTo_windowOpened (s : State) (x : Args) (d : Bool) (n : Nat → DWord) : (s.finishTo x d n).windowOpened = s.windowOpened := rfl
@[simp] theorem finishTo_sup (s : State) (x : Args) (d : Bool) (n : Nat → DWord) : (s.finishTo x d n).sup = s.sup := rfl
@[simp] theorem finishTo_trapWait (s : State) (x : Args) (d : Bool) (n : Nat → DWord) : (s.finishTo x d n).trapWait = s.trapWait := rfl
@[simp] theorem finishTo_fqSeq (s : State) (x : Args) (d : Bool) (n : Nat → DWord) : (s.finishTo x d n).fqSeq = s.fqSeq := rfl
@[simp] theorem finishTo_tqSeq (s : State) (x : Args) (d : Bool) (n : Nat → DWord) : (s.finishTo x d n).tqSeq = s.tqSeq := rfl
@[simp] theorem finishTo_rqSeq (s : State) (x : Args) (d : Bool) (n : Nat → DWord) : (s.finishTo x d n).rqSeq = s.rqSeq := rfl
@[simp] theorem finishTo_calendar (s : State) (x : Args) (d : Bool) (n : Nat → DWord) : (s.finishTo x d n).calendar = s.calendar := rfl
@[simp] theorem finishTo_calPending (s : State) (x : Args) (d : Bool) (n : Nat → DWord) : (s.finishTo x d n).calPending = s.calPending := rfl
@[simp] theorem finishTo_frame (s : State) (x : Args) (d : Bool) (n : Nat → DWord) : (s.finishTo x d n).frame = s.frame := rfl
@[simp] theorem finishTo_seq (s : State) (x : Args) (d : Bool) (n : Nat → DWord) : (s.finishTo x d n).seq = s.seq := rfl
@[simp] theorem finishTo_boot (s : State) (x : Args) (d : Bool) (n : Nat → DWord) : (s.finishTo x d n).boot = s.boot := rfl
@[simp] theorem finishTo_bootHalt (s : State) (x : Args) (d : Bool) (n : Nat → DWord) : (s.finishTo x d n).bootHalt = s.bootHalt := rfl
@[simp] theorem finishTo_meas (s : State) (x : Args) (d : Bool) (n : Nat → DWord) : (s.finishTo x d n).meas = s.meas := rfl
@[simp] theorem finishTo_fsvn (s : State) (x : Args) (d : Bool) (n : Nat → DWord) : (s.finishTo x d n).fsvn = s.fsvn := rfl
@[simp] theorem finishTo_svn (s : State) (x : Args) (d : Bool) (n : Nat → DWord) : (s.finishTo x d n).svn = s.svn := rfl
@[simp] theorem finishTo_edSlot (s : State) (x : Args) (d : Bool) (n : Nat → DWord) : (s.finishTo x d n).edSlot = s.edSlot := rfl
@[simp] theorem finishTo_mlSlot (s : State) (x : Args) (d : Bool) (n : Nat → DWord) : (s.finishTo x d n).mlSlot = s.mlSlot := rfl
@[simp] theorem finishTo_mcmd (s : State) (x : Args) (d : Bool) (n : Nat → DWord) : (s.finishTo x d n).mcmd = s.mcmd := rfl
@[simp] theorem finishTo_mstatus (s : State) (x : Args) (d : Bool) (n : Nat → DWord) : (s.finishTo x d n).mstatus = s.mstatus := rfl
@[simp] theorem finishTo_respAddr (s : State) (x : Args) (d : Bool) (n : Nat → DWord) : (s.finishTo x d n).respAddr = s.respAddr := rfl
@[simp] theorem finishTo_mdata (s : State) (x : Args) (d : Bool) (n : Nat → DWord) : (s.finishTo x d n).mdata = s.mdata := rfl
@[simp] theorem finishTo_telemetry (s : State) (x : Args) (d : Bool) (n : Nat → DWord) : (s.finishTo x d n).telemetry = s.telemetry := rfl
@[simp] theorem finishTo_pcieUp (s : State) (x : Args) (d : Bool) (n : Nat → DWord) : (s.finishTo x d n).pcieUp = s.pcieUp := rfl
@[simp] theorem finishTo_cxlDown (s : State) (x : Args) (d : Bool) (n : Nat → DWord) : (s.finishTo x d n).cxlDown = s.cxlDown := rfl
@[simp] theorem finishTo_untrained (s : State) (x : Args) (d : Bool) (n : Nat → DWord) : (s.finishTo x d n).untrained = s.untrained := rfl
@[simp] theorem finishTo_clock (s : State) (x : Args) (d : Bool) (n : Nat → DWord) : (s.finishTo x d n).clock = s.clock := rfl
@[simp] theorem finishTo_vers (s : State) (x : Args) (d : Bool) (n : Nat → DWord) : (s.finishTo x d n).vers = s.vers := rfl
@[simp] theorem finishTo_rels (s : State) (x : Args) (d : Bool) (n : Nat → DWord) : (s.finishTo x d n).rels = s.rels := rfl
@[simp] theorem finishTo_draws (s : State) (x : Args) (d : Bool) (n : Nat → DWord) : (s.finishTo x d n).draws = s.draws := rfl
@[simp] theorem finishTo_fences (s : State) (x : Args) (d : Bool) (n : Nat → DWord) : (s.finishTo x d n).fences = s.fences := rfl
@[simp] theorem finishTo_mgrView (s : State) (x : Args) (d : Bool) (n : Nat → DWord) : (s.finishTo x d n).mgrView = s.mgrView := rfl
@[simp] theorem finishTo_doneView (s : State) (x : Args) (d : Bool) (n : Nat → DWord) : (s.finishTo x d n).doneView = s.doneView := rfl
@[simp] theorem finishTo_agentNext (s : State) (x : Args) (d : Bool) (n : Nat → DWord) : (s.finishTo x d n).agentNext = s.agentNext := rfl

@[simp] theorem finish_cur (s : State) (x : Args) (d : Bool) : (s.finish x d).cur = s.cur := rfl
@[simp] theorem finish_issue (s : State) (x : Args) (d : Bool) : (s.finish x d).issue = s.issue := rfl
@[simp] theorem finish_agenda (s : State) (x : Args) (d : Bool) : (s.finish x d).agenda = s.agenda := rfl
@[simp] theorem finish_tick (s : State) (x : Args) (d : Bool) : (s.finish x d).tick = s.tick := rfl
@[simp] theorem finish_opSeq (s : State) (x : Args) (d : Bool) : (s.finish x d).opSeq = s.opSeq := rfl
@[simp] theorem finish_outLog (s : State) (x : Args) (d : Bool) : (s.finish x d).outLog = s.outLog := rfl
@[simp] theorem finish_mem (s : State) (x : Args) (d : Bool) : (s.finish x d).mem = s.mem := rfl
@[simp] theorem finish_poison (s : State) (x : Args) (d : Bool) : (s.finish x d).poison = s.poison := rfl
@[simp] theorem finish_refetch (s : State) (x : Args) (d : Bool) : (s.finish x d).refetch = s.refetch := rfl
@[simp] theorem finish_refetched (s : State) (x : Args) (d : Bool) : (s.finish x d).refetched = s.refetched := rfl
@[simp] theorem finish_origins (s : State) (x : Args) (d : Bool) : (s.finish x d).origins = s.origins := rfl
@[simp] theorem finish_hostMem (s : State) (x : Args) (d : Bool) : (s.finish x d).hostMem = s.hostMem := rfl
@[simp] theorem finish_roVa (s : State) (x : Args) (d : Bool) : (s.finish x d).roVa = s.roVa := rfl
@[simp] theorem finish_detBuf (s : State) (x : Args) (d : Bool) : (s.finish x d).detBuf = s.detBuf := rfl
@[simp] theorem finish_house (s : State) (x : Args) (d : Bool) : (s.finish x d).house = s.house := rfl
@[simp] theorem finish_dies (s : State) (x : Args) (d : Bool) : (s.finish x d).dies = s.dies := rfl
@[simp] theorem finish_l2 (s : State) (x : Args) (d : Bool) : (s.finish x d).l2 = s.l2 := rfl
@[simp] theorem finish_lfsr (s : State) (x : Args) (d : Bool) : (s.finish x d).lfsr = s.lfsr := rfl
@[simp] theorem finish_saved (s : State) (x : Args) (d : Bool) : (s.finish x d).saved = s.saved := rfl
@[simp] theorem finish_gangs (s : State) (x : Args) (d : Bool) : (s.finish x d).gangs = s.gangs := rfl
@[simp] theorem finish_gangNext (s : State) (x : Args) (d : Bool) : (s.finish x d).gangNext = s.gangNext := rfl
@[simp] theorem finish_doms (s : State) (x : Args) (d : Bool) : (s.finish x d).doms = s.doms := rfl
@[simp] theorem finish_stopWt (s : State) (x : Args) (d : Bool) : (s.finish x d).stopWt = s.stopWt := rfl
@[simp] theorem finish_qmsgs (s : State) (x : Args) (d : Bool) : (s.finish x d).qmsgs = s.qmsgs := rfl
@[simp] theorem finish_grants (s : State) (x : Args) (d : Bool) : (s.finish x d).grants = s.grants := rfl
@[simp] theorem finish_ctxs (s : State) (x : Args) (d : Bool) : (s.finish x d).ctxs = s.ctxs := rfl
@[simp] theorem finish_segs (s : State) (x : Args) (d : Bool) : (s.finish x d).segs = s.segs := rfl
@[simp] theorem finish_pages (s : State) (x : Args) (d : Bool) : (s.finish x d).pages = s.pages := rfl
@[simp] theorem finish_serial (s : State) (x : Args) (d : Bool) : (s.finish x d).serial = s.serial := rfl
@[simp] theorem finish_windows (s : State) (x : Args) (d : Bool) : (s.finish x d).windows = s.windows := rfl
@[simp] theorem finish_sessions (s : State) (x : Args) (d : Bool) : (s.finish x d).sessions = s.sessions := rfl
@[simp] theorem finish_nextLseq (s : State) (x : Args) (d : Bool) : (s.finish x d).nextLseq = s.nextLseq := rfl
@[simp] theorem finish_launches (s : State) (x : Args) (d : Bool) : (s.finish x d).launches = s.launches := rfl
@[simp] theorem finish_fireNext (s : State) (x : Args) (d : Bool) : (s.finish x d).fireNext = s.fireNext := rfl
@[simp] theorem finish_kernels (s : State) (x : Args) (d : Bool) : (s.finish x d).kernels = s.kernels := rfl
@[simp] theorem finish_objs (s : State) (x : Args) (d : Bool) : (s.finish x d).objs = s.objs := rfl
@[simp] theorem finish_kidNext (s : State) (x : Args) (d : Bool) : (s.finish x d).kidNext = s.kidNext := rfl
@[simp] theorem finish_windowOpened (s : State) (x : Args) (d : Bool) : (s.finish x d).windowOpened = s.windowOpened := rfl
@[simp] theorem finish_sup (s : State) (x : Args) (d : Bool) : (s.finish x d).sup = s.sup := rfl
@[simp] theorem finish_trapWait (s : State) (x : Args) (d : Bool) : (s.finish x d).trapWait = s.trapWait := rfl
@[simp] theorem finish_fqSeq (s : State) (x : Args) (d : Bool) : (s.finish x d).fqSeq = s.fqSeq := rfl
@[simp] theorem finish_tqSeq (s : State) (x : Args) (d : Bool) : (s.finish x d).tqSeq = s.tqSeq := rfl
@[simp] theorem finish_rqSeq (s : State) (x : Args) (d : Bool) : (s.finish x d).rqSeq = s.rqSeq := rfl
@[simp] theorem finish_calendar (s : State) (x : Args) (d : Bool) : (s.finish x d).calendar = s.calendar := rfl
@[simp] theorem finish_calPending (s : State) (x : Args) (d : Bool) : (s.finish x d).calPending = s.calPending := rfl
@[simp] theorem finish_frame (s : State) (x : Args) (d : Bool) : (s.finish x d).frame = s.frame := rfl
@[simp] theorem finish_seq (s : State) (x : Args) (d : Bool) : (s.finish x d).seq = s.seq := rfl
@[simp] theorem finish_boot (s : State) (x : Args) (d : Bool) : (s.finish x d).boot = s.boot := rfl
@[simp] theorem finish_bootHalt (s : State) (x : Args) (d : Bool) : (s.finish x d).bootHalt = s.bootHalt := rfl
@[simp] theorem finish_meas (s : State) (x : Args) (d : Bool) : (s.finish x d).meas = s.meas := rfl
@[simp] theorem finish_fsvn (s : State) (x : Args) (d : Bool) : (s.finish x d).fsvn = s.fsvn := rfl
@[simp] theorem finish_svn (s : State) (x : Args) (d : Bool) : (s.finish x d).svn = s.svn := rfl
@[simp] theorem finish_edSlot (s : State) (x : Args) (d : Bool) : (s.finish x d).edSlot = s.edSlot := rfl
@[simp] theorem finish_mlSlot (s : State) (x : Args) (d : Bool) : (s.finish x d).mlSlot = s.mlSlot := rfl
@[simp] theorem finish_mcmd (s : State) (x : Args) (d : Bool) : (s.finish x d).mcmd = s.mcmd := rfl
@[simp] theorem finish_mstatus (s : State) (x : Args) (d : Bool) : (s.finish x d).mstatus = s.mstatus := rfl
@[simp] theorem finish_respAddr (s : State) (x : Args) (d : Bool) : (s.finish x d).respAddr = s.respAddr := rfl
@[simp] theorem finish_mdata (s : State) (x : Args) (d : Bool) : (s.finish x d).mdata = s.mdata := rfl
@[simp] theorem finish_telemetry (s : State) (x : Args) (d : Bool) : (s.finish x d).telemetry = s.telemetry := rfl
@[simp] theorem finish_pcieUp (s : State) (x : Args) (d : Bool) : (s.finish x d).pcieUp = s.pcieUp := rfl
@[simp] theorem finish_cxlDown (s : State) (x : Args) (d : Bool) : (s.finish x d).cxlDown = s.cxlDown := rfl
@[simp] theorem finish_untrained (s : State) (x : Args) (d : Bool) : (s.finish x d).untrained = s.untrained := rfl
@[simp] theorem finish_clock (s : State) (x : Args) (d : Bool) : (s.finish x d).clock = s.clock := rfl
@[simp] theorem finish_vers (s : State) (x : Args) (d : Bool) : (s.finish x d).vers = s.vers := rfl
@[simp] theorem finish_rels (s : State) (x : Args) (d : Bool) : (s.finish x d).rels = s.rels := rfl
@[simp] theorem finish_draws (s : State) (x : Args) (d : Bool) : (s.finish x d).draws = s.draws := rfl
@[simp] theorem finish_fences (s : State) (x : Args) (d : Bool) : (s.finish x d).fences = s.fences := rfl
@[simp] theorem finish_mgrView (s : State) (x : Args) (d : Bool) : (s.finish x d).mgrView = s.mgrView := rfl
@[simp] theorem finish_doneView (s : State) (x : Args) (d : Bool) : (s.finish x d).doneView = s.doneView := rfl
@[simp] theorem finish_agentNext (s : State) (x : Args) (d : Bool) : (s.finish x d).agentNext = s.agentNext := rfl

@[simp] theorem parkAgain_cur (s : State) (x : Args) (ws : List (Nat × Why)) : (s.parkAgain x ws).cur = s.cur := rfl
@[simp] theorem parkAgain_issue (s : State) (x : Args) (ws : List (Nat × Why)) : (s.parkAgain x ws).issue = s.issue := rfl
@[simp] theorem parkAgain_agenda (s : State) (x : Args) (ws : List (Nat × Why)) : (s.parkAgain x ws).agenda = s.agenda := rfl
@[simp] theorem parkAgain_tick (s : State) (x : Args) (ws : List (Nat × Why)) : (s.parkAgain x ws).tick = s.tick := rfl
@[simp] theorem parkAgain_opSeq (s : State) (x : Args) (ws : List (Nat × Why)) : (s.parkAgain x ws).opSeq = s.opSeq := rfl
@[simp] theorem parkAgain_outLog (s : State) (x : Args) (ws : List (Nat × Why)) : (s.parkAgain x ws).outLog = s.outLog := rfl
@[simp] theorem parkAgain_mem (s : State) (x : Args) (ws : List (Nat × Why)) : (s.parkAgain x ws).mem = s.mem := rfl
@[simp] theorem parkAgain_poison (s : State) (x : Args) (ws : List (Nat × Why)) : (s.parkAgain x ws).poison = s.poison := rfl
@[simp] theorem parkAgain_refetch (s : State) (x : Args) (ws : List (Nat × Why)) : (s.parkAgain x ws).refetch = s.refetch := rfl
@[simp] theorem parkAgain_refetched (s : State) (x : Args) (ws : List (Nat × Why)) : (s.parkAgain x ws).refetched = s.refetched := rfl
@[simp] theorem parkAgain_origins (s : State) (x : Args) (ws : List (Nat × Why)) : (s.parkAgain x ws).origins = s.origins := rfl
@[simp] theorem parkAgain_hostMem (s : State) (x : Args) (ws : List (Nat × Why)) : (s.parkAgain x ws).hostMem = s.hostMem := rfl
@[simp] theorem parkAgain_roVa (s : State) (x : Args) (ws : List (Nat × Why)) : (s.parkAgain x ws).roVa = s.roVa := rfl
@[simp] theorem parkAgain_detBuf (s : State) (x : Args) (ws : List (Nat × Why)) : (s.parkAgain x ws).detBuf = s.detBuf := rfl
@[simp] theorem parkAgain_house (s : State) (x : Args) (ws : List (Nat × Why)) : (s.parkAgain x ws).house = s.house := rfl
@[simp] theorem parkAgain_dies (s : State) (x : Args) (ws : List (Nat × Why)) : (s.parkAgain x ws).dies = s.dies := rfl
@[simp] theorem parkAgain_l2 (s : State) (x : Args) (ws : List (Nat × Why)) : (s.parkAgain x ws).l2 = s.l2 := rfl
@[simp] theorem parkAgain_lfsr (s : State) (x : Args) (ws : List (Nat × Why)) : (s.parkAgain x ws).lfsr = s.lfsr := rfl
@[simp] theorem parkAgain_saved (s : State) (x : Args) (ws : List (Nat × Why)) : (s.parkAgain x ws).saved = s.saved := rfl
@[simp] theorem parkAgain_gangs (s : State) (x : Args) (ws : List (Nat × Why)) : (s.parkAgain x ws).gangs = s.gangs := rfl
@[simp] theorem parkAgain_gangNext (s : State) (x : Args) (ws : List (Nat × Why)) : (s.parkAgain x ws).gangNext = s.gangNext := rfl
@[simp] theorem parkAgain_doms (s : State) (x : Args) (ws : List (Nat × Why)) : (s.parkAgain x ws).doms = s.doms := rfl
@[simp] theorem parkAgain_stopWt (s : State) (x : Args) (ws : List (Nat × Why)) : (s.parkAgain x ws).stopWt = s.stopWt := rfl
@[simp] theorem parkAgain_qmsgs (s : State) (x : Args) (ws : List (Nat × Why)) : (s.parkAgain x ws).qmsgs = s.qmsgs := rfl
@[simp] theorem parkAgain_grants (s : State) (x : Args) (ws : List (Nat × Why)) : (s.parkAgain x ws).grants = s.grants := rfl
@[simp] theorem parkAgain_ctxs (s : State) (x : Args) (ws : List (Nat × Why)) : (s.parkAgain x ws).ctxs = s.ctxs := rfl
@[simp] theorem parkAgain_segs (s : State) (x : Args) (ws : List (Nat × Why)) : (s.parkAgain x ws).segs = s.segs := rfl
@[simp] theorem parkAgain_pages (s : State) (x : Args) (ws : List (Nat × Why)) : (s.parkAgain x ws).pages = s.pages := rfl
@[simp] theorem parkAgain_serial (s : State) (x : Args) (ws : List (Nat × Why)) : (s.parkAgain x ws).serial = s.serial := rfl
@[simp] theorem parkAgain_windows (s : State) (x : Args) (ws : List (Nat × Why)) : (s.parkAgain x ws).windows = s.windows := rfl
@[simp] theorem parkAgain_sessions (s : State) (x : Args) (ws : List (Nat × Why)) : (s.parkAgain x ws).sessions = s.sessions := rfl
@[simp] theorem parkAgain_nextLseq (s : State) (x : Args) (ws : List (Nat × Why)) : (s.parkAgain x ws).nextLseq = s.nextLseq := rfl
@[simp] theorem parkAgain_launches (s : State) (x : Args) (ws : List (Nat × Why)) : (s.parkAgain x ws).launches = s.launches := rfl
@[simp] theorem parkAgain_fireNext (s : State) (x : Args) (ws : List (Nat × Why)) : (s.parkAgain x ws).fireNext = s.fireNext := rfl
@[simp] theorem parkAgain_kernels (s : State) (x : Args) (ws : List (Nat × Why)) : (s.parkAgain x ws).kernels = s.kernels := rfl
@[simp] theorem parkAgain_objs (s : State) (x : Args) (ws : List (Nat × Why)) : (s.parkAgain x ws).objs = s.objs := rfl
@[simp] theorem parkAgain_kidNext (s : State) (x : Args) (ws : List (Nat × Why)) : (s.parkAgain x ws).kidNext = s.kidNext := rfl
@[simp] theorem parkAgain_windowOpened (s : State) (x : Args) (ws : List (Nat × Why)) : (s.parkAgain x ws).windowOpened = s.windowOpened := rfl
@[simp] theorem parkAgain_sup (s : State) (x : Args) (ws : List (Nat × Why)) : (s.parkAgain x ws).sup = s.sup := rfl
@[simp] theorem parkAgain_trapWait (s : State) (x : Args) (ws : List (Nat × Why)) : (s.parkAgain x ws).trapWait = s.trapWait := rfl
@[simp] theorem parkAgain_fqSeq (s : State) (x : Args) (ws : List (Nat × Why)) : (s.parkAgain x ws).fqSeq = s.fqSeq := rfl
@[simp] theorem parkAgain_tqSeq (s : State) (x : Args) (ws : List (Nat × Why)) : (s.parkAgain x ws).tqSeq = s.tqSeq := rfl
@[simp] theorem parkAgain_rqSeq (s : State) (x : Args) (ws : List (Nat × Why)) : (s.parkAgain x ws).rqSeq = s.rqSeq := rfl
@[simp] theorem parkAgain_calendar (s : State) (x : Args) (ws : List (Nat × Why)) : (s.parkAgain x ws).calendar = s.calendar := rfl
@[simp] theorem parkAgain_calPending (s : State) (x : Args) (ws : List (Nat × Why)) : (s.parkAgain x ws).calPending = s.calPending := rfl
@[simp] theorem parkAgain_frame (s : State) (x : Args) (ws : List (Nat × Why)) : (s.parkAgain x ws).frame = s.frame := rfl
@[simp] theorem parkAgain_seq (s : State) (x : Args) (ws : List (Nat × Why)) : (s.parkAgain x ws).seq = s.seq := rfl
@[simp] theorem parkAgain_boot (s : State) (x : Args) (ws : List (Nat × Why)) : (s.parkAgain x ws).boot = s.boot := rfl
@[simp] theorem parkAgain_bootHalt (s : State) (x : Args) (ws : List (Nat × Why)) : (s.parkAgain x ws).bootHalt = s.bootHalt := rfl
@[simp] theorem parkAgain_meas (s : State) (x : Args) (ws : List (Nat × Why)) : (s.parkAgain x ws).meas = s.meas := rfl
@[simp] theorem parkAgain_fsvn (s : State) (x : Args) (ws : List (Nat × Why)) : (s.parkAgain x ws).fsvn = s.fsvn := rfl
@[simp] theorem parkAgain_svn (s : State) (x : Args) (ws : List (Nat × Why)) : (s.parkAgain x ws).svn = s.svn := rfl
@[simp] theorem parkAgain_edSlot (s : State) (x : Args) (ws : List (Nat × Why)) : (s.parkAgain x ws).edSlot = s.edSlot := rfl
@[simp] theorem parkAgain_mlSlot (s : State) (x : Args) (ws : List (Nat × Why)) : (s.parkAgain x ws).mlSlot = s.mlSlot := rfl
@[simp] theorem parkAgain_mcmd (s : State) (x : Args) (ws : List (Nat × Why)) : (s.parkAgain x ws).mcmd = s.mcmd := rfl
@[simp] theorem parkAgain_mstatus (s : State) (x : Args) (ws : List (Nat × Why)) : (s.parkAgain x ws).mstatus = s.mstatus := rfl
@[simp] theorem parkAgain_respAddr (s : State) (x : Args) (ws : List (Nat × Why)) : (s.parkAgain x ws).respAddr = s.respAddr := rfl
@[simp] theorem parkAgain_mdata (s : State) (x : Args) (ws : List (Nat × Why)) : (s.parkAgain x ws).mdata = s.mdata := rfl
@[simp] theorem parkAgain_telemetry (s : State) (x : Args) (ws : List (Nat × Why)) : (s.parkAgain x ws).telemetry = s.telemetry := rfl
@[simp] theorem parkAgain_pcieUp (s : State) (x : Args) (ws : List (Nat × Why)) : (s.parkAgain x ws).pcieUp = s.pcieUp := rfl
@[simp] theorem parkAgain_cxlDown (s : State) (x : Args) (ws : List (Nat × Why)) : (s.parkAgain x ws).cxlDown = s.cxlDown := rfl
@[simp] theorem parkAgain_untrained (s : State) (x : Args) (ws : List (Nat × Why)) : (s.parkAgain x ws).untrained = s.untrained := rfl
@[simp] theorem parkAgain_clock (s : State) (x : Args) (ws : List (Nat × Why)) : (s.parkAgain x ws).clock = s.clock := rfl
@[simp] theorem parkAgain_vers (s : State) (x : Args) (ws : List (Nat × Why)) : (s.parkAgain x ws).vers = s.vers := rfl
@[simp] theorem parkAgain_rels (s : State) (x : Args) (ws : List (Nat × Why)) : (s.parkAgain x ws).rels = s.rels := rfl
@[simp] theorem parkAgain_draws (s : State) (x : Args) (ws : List (Nat × Why)) : (s.parkAgain x ws).draws = s.draws := rfl
@[simp] theorem parkAgain_fences (s : State) (x : Args) (ws : List (Nat × Why)) : (s.parkAgain x ws).fences = s.fences := rfl
@[simp] theorem parkAgain_mgrView (s : State) (x : Args) (ws : List (Nat × Why)) : (s.parkAgain x ws).mgrView = s.mgrView := rfl
@[simp] theorem parkAgain_doneView (s : State) (x : Args) (ws : List (Nat × Why)) : (s.parkAgain x ws).doneView = s.doneView := rfl
@[simp] theorem parkAgain_agentNext (s : State) (x : Args) (ws : List (Nat × Why)) : (s.parkAgain x ws).agentNext = s.agentNext := rfl

@[simp] theorem raise_cur (s : State) (f : FFlags) : (s.raise f).cur = s.cur := rfl
@[simp] theorem raise_issue (s : State) (f : FFlags) : (s.raise f).issue = s.issue := rfl
@[simp] theorem raise_agenda (s : State) (f : FFlags) : (s.raise f).agenda = s.agenda := rfl
@[simp] theorem raise_tick (s : State) (f : FFlags) : (s.raise f).tick = s.tick := rfl
@[simp] theorem raise_opSeq (s : State) (f : FFlags) : (s.raise f).opSeq = s.opSeq := rfl
@[simp] theorem raise_outLog (s : State) (f : FFlags) : (s.raise f).outLog = s.outLog := rfl
@[simp] theorem raise_mem (s : State) (f : FFlags) : (s.raise f).mem = s.mem := rfl
@[simp] theorem raise_poison (s : State) (f : FFlags) : (s.raise f).poison = s.poison := rfl
@[simp] theorem raise_refetch (s : State) (f : FFlags) : (s.raise f).refetch = s.refetch := rfl
@[simp] theorem raise_refetched (s : State) (f : FFlags) : (s.raise f).refetched = s.refetched := rfl
@[simp] theorem raise_origins (s : State) (f : FFlags) : (s.raise f).origins = s.origins := rfl
@[simp] theorem raise_hostMem (s : State) (f : FFlags) : (s.raise f).hostMem = s.hostMem := rfl
@[simp] theorem raise_roVa (s : State) (f : FFlags) : (s.raise f).roVa = s.roVa := rfl
@[simp] theorem raise_detBuf (s : State) (f : FFlags) : (s.raise f).detBuf = s.detBuf := rfl
@[simp] theorem raise_house (s : State) (f : FFlags) : (s.raise f).house = s.house := rfl
@[simp] theorem raise_dies (s : State) (f : FFlags) : (s.raise f).dies = s.dies := rfl
@[simp] theorem raise_l2 (s : State) (f : FFlags) : (s.raise f).l2 = s.l2 := rfl
@[simp] theorem raise_lfsr (s : State) (f : FFlags) : (s.raise f).lfsr = s.lfsr := rfl
@[simp] theorem raise_saved (s : State) (f : FFlags) : (s.raise f).saved = s.saved := rfl
@[simp] theorem raise_gangs (s : State) (f : FFlags) : (s.raise f).gangs = s.gangs := rfl
@[simp] theorem raise_gangNext (s : State) (f : FFlags) : (s.raise f).gangNext = s.gangNext := rfl
@[simp] theorem raise_doms (s : State) (f : FFlags) : (s.raise f).doms = s.doms := rfl
@[simp] theorem raise_stopWt (s : State) (f : FFlags) : (s.raise f).stopWt = s.stopWt := rfl
@[simp] theorem raise_qmsgs (s : State) (f : FFlags) : (s.raise f).qmsgs = s.qmsgs := rfl
@[simp] theorem raise_grants (s : State) (f : FFlags) : (s.raise f).grants = s.grants := rfl
@[simp] theorem raise_ctxs (s : State) (f : FFlags) : (s.raise f).ctxs = s.ctxs := rfl
@[simp] theorem raise_segs (s : State) (f : FFlags) : (s.raise f).segs = s.segs := rfl
@[simp] theorem raise_pages (s : State) (f : FFlags) : (s.raise f).pages = s.pages := rfl
@[simp] theorem raise_serial (s : State) (f : FFlags) : (s.raise f).serial = s.serial := rfl
@[simp] theorem raise_windows (s : State) (f : FFlags) : (s.raise f).windows = s.windows := rfl
@[simp] theorem raise_sessions (s : State) (f : FFlags) : (s.raise f).sessions = s.sessions := rfl
@[simp] theorem raise_nextLseq (s : State) (f : FFlags) : (s.raise f).nextLseq = s.nextLseq := rfl
@[simp] theorem raise_launches (s : State) (f : FFlags) : (s.raise f).launches = s.launches := rfl
@[simp] theorem raise_fireNext (s : State) (f : FFlags) : (s.raise f).fireNext = s.fireNext := rfl
@[simp] theorem raise_kernels (s : State) (f : FFlags) : (s.raise f).kernels = s.kernels := rfl
@[simp] theorem raise_objs (s : State) (f : FFlags) : (s.raise f).objs = s.objs := rfl
@[simp] theorem raise_kidNext (s : State) (f : FFlags) : (s.raise f).kidNext = s.kidNext := rfl
@[simp] theorem raise_windowOpened (s : State) (f : FFlags) : (s.raise f).windowOpened = s.windowOpened := rfl
@[simp] theorem raise_sup (s : State) (f : FFlags) : (s.raise f).sup = s.sup := rfl
@[simp] theorem raise_trapWait (s : State) (f : FFlags) : (s.raise f).trapWait = s.trapWait := rfl
@[simp] theorem raise_fqSeq (s : State) (f : FFlags) : (s.raise f).fqSeq = s.fqSeq := rfl
@[simp] theorem raise_tqSeq (s : State) (f : FFlags) : (s.raise f).tqSeq = s.tqSeq := rfl
@[simp] theorem raise_rqSeq (s : State) (f : FFlags) : (s.raise f).rqSeq = s.rqSeq := rfl
@[simp] theorem raise_calendar (s : State) (f : FFlags) : (s.raise f).calendar = s.calendar := rfl
@[simp] theorem raise_calPending (s : State) (f : FFlags) : (s.raise f).calPending = s.calPending := rfl
@[simp] theorem raise_frame (s : State) (f : FFlags) : (s.raise f).frame = s.frame := rfl
@[simp] theorem raise_seq (s : State) (f : FFlags) : (s.raise f).seq = s.seq := rfl
@[simp] theorem raise_boot (s : State) (f : FFlags) : (s.raise f).boot = s.boot := rfl
@[simp] theorem raise_bootHalt (s : State) (f : FFlags) : (s.raise f).bootHalt = s.bootHalt := rfl
@[simp] theorem raise_meas (s : State) (f : FFlags) : (s.raise f).meas = s.meas := rfl
@[simp] theorem raise_fsvn (s : State) (f : FFlags) : (s.raise f).fsvn = s.fsvn := rfl
@[simp] theorem raise_svn (s : State) (f : FFlags) : (s.raise f).svn = s.svn := rfl
@[simp] theorem raise_edSlot (s : State) (f : FFlags) : (s.raise f).edSlot = s.edSlot := rfl
@[simp] theorem raise_mlSlot (s : State) (f : FFlags) : (s.raise f).mlSlot = s.mlSlot := rfl
@[simp] theorem raise_mcmd (s : State) (f : FFlags) : (s.raise f).mcmd = s.mcmd := rfl
@[simp] theorem raise_mstatus (s : State) (f : FFlags) : (s.raise f).mstatus = s.mstatus := rfl
@[simp] theorem raise_respAddr (s : State) (f : FFlags) : (s.raise f).respAddr = s.respAddr := rfl
@[simp] theorem raise_mdata (s : State) (f : FFlags) : (s.raise f).mdata = s.mdata := rfl
@[simp] theorem raise_telemetry (s : State) (f : FFlags) : (s.raise f).telemetry = s.telemetry := rfl
@[simp] theorem raise_pcieUp (s : State) (f : FFlags) : (s.raise f).pcieUp = s.pcieUp := rfl
@[simp] theorem raise_cxlDown (s : State) (f : FFlags) : (s.raise f).cxlDown = s.cxlDown := rfl
@[simp] theorem raise_untrained (s : State) (f : FFlags) : (s.raise f).untrained = s.untrained := rfl
@[simp] theorem raise_clock (s : State) (f : FFlags) : (s.raise f).clock = s.clock := rfl
@[simp] theorem raise_vers (s : State) (f : FFlags) : (s.raise f).vers = s.vers := rfl
@[simp] theorem raise_rels (s : State) (f : FFlags) : (s.raise f).rels = s.rels := rfl
@[simp] theorem raise_draws (s : State) (f : FFlags) : (s.raise f).draws = s.draws := rfl
@[simp] theorem raise_fences (s : State) (f : FFlags) : (s.raise f).fences = s.fences := rfl
@[simp] theorem raise_mgrView (s : State) (f : FFlags) : (s.raise f).mgrView = s.mgrView := rfl
@[simp] theorem raise_doneView (s : State) (f : FFlags) : (s.raise f).doneView = s.doneView := rfl
@[simp] theorem raise_agentNext (s : State) (f : FFlags) : (s.raise f).agentNext = s.agentNext := rfl

@[simp] theorem setHouse_cur (s : State) (c : Nat) (h : House) : (s.setHouse c h).cur = s.cur := rfl
@[simp] theorem setHouse_issue (s : State) (c : Nat) (h : House) : (s.setHouse c h).issue = s.issue := rfl
@[simp] theorem setHouse_agenda (s : State) (c : Nat) (h : House) : (s.setHouse c h).agenda = s.agenda := rfl
@[simp] theorem setHouse_tick (s : State) (c : Nat) (h : House) : (s.setHouse c h).tick = s.tick := rfl
@[simp] theorem setHouse_opSeq (s : State) (c : Nat) (h : House) : (s.setHouse c h).opSeq = s.opSeq := rfl
@[simp] theorem setHouse_outLog (s : State) (c : Nat) (h : House) : (s.setHouse c h).outLog = s.outLog := rfl
@[simp] theorem setHouse_mem (s : State) (c : Nat) (h : House) : (s.setHouse c h).mem = s.mem := rfl
@[simp] theorem setHouse_poison (s : State) (c : Nat) (h : House) : (s.setHouse c h).poison = s.poison := rfl
@[simp] theorem setHouse_refetch (s : State) (c : Nat) (h : House) : (s.setHouse c h).refetch = s.refetch := rfl
@[simp] theorem setHouse_refetched (s : State) (c : Nat) (h : House) : (s.setHouse c h).refetched = s.refetched := rfl
@[simp] theorem setHouse_origins (s : State) (c : Nat) (h : House) : (s.setHouse c h).origins = s.origins := rfl
@[simp] theorem setHouse_hostMem (s : State) (c : Nat) (h : House) : (s.setHouse c h).hostMem = s.hostMem := rfl
@[simp] theorem setHouse_roVa (s : State) (c : Nat) (h : House) : (s.setHouse c h).roVa = s.roVa := rfl
@[simp] theorem setHouse_detBuf (s : State) (c : Nat) (h : House) : (s.setHouse c h).detBuf = s.detBuf := rfl
@[simp] theorem setHouse_cores (s : State) (c : Nat) (h : House) : (s.setHouse c h).cores = s.cores := rfl
@[simp] theorem setHouse_dies (s : State) (c : Nat) (h : House) : (s.setHouse c h).dies = s.dies := rfl
@[simp] theorem setHouse_l2 (s : State) (c : Nat) (h : House) : (s.setHouse c h).l2 = s.l2 := rfl
@[simp] theorem setHouse_lfsr (s : State) (c : Nat) (h : House) : (s.setHouse c h).lfsr = s.lfsr := rfl
@[simp] theorem setHouse_saved (s : State) (c : Nat) (h : House) : (s.setHouse c h).saved = s.saved := rfl
@[simp] theorem setHouse_gangs (s : State) (c : Nat) (h : House) : (s.setHouse c h).gangs = s.gangs := rfl
@[simp] theorem setHouse_gangNext (s : State) (c : Nat) (h : House) : (s.setHouse c h).gangNext = s.gangNext := rfl
@[simp] theorem setHouse_doms (s : State) (c : Nat) (h : House) : (s.setHouse c h).doms = s.doms := rfl
@[simp] theorem setHouse_stopWt (s : State) (c : Nat) (h : House) : (s.setHouse c h).stopWt = s.stopWt := rfl
@[simp] theorem setHouse_qmsgs (s : State) (c : Nat) (h : House) : (s.setHouse c h).qmsgs = s.qmsgs := rfl
@[simp] theorem setHouse_grants (s : State) (c : Nat) (h : House) : (s.setHouse c h).grants = s.grants := rfl
@[simp] theorem setHouse_ctxs (s : State) (c : Nat) (h : House) : (s.setHouse c h).ctxs = s.ctxs := rfl
@[simp] theorem setHouse_segs (s : State) (c : Nat) (h : House) : (s.setHouse c h).segs = s.segs := rfl
@[simp] theorem setHouse_pages (s : State) (c : Nat) (h : House) : (s.setHouse c h).pages = s.pages := rfl
@[simp] theorem setHouse_serial (s : State) (c : Nat) (h : House) : (s.setHouse c h).serial = s.serial := rfl
@[simp] theorem setHouse_windows (s : State) (c : Nat) (h : House) : (s.setHouse c h).windows = s.windows := rfl
@[simp] theorem setHouse_sessions (s : State) (c : Nat) (h : House) : (s.setHouse c h).sessions = s.sessions := rfl
@[simp] theorem setHouse_nextLseq (s : State) (c : Nat) (h : House) : (s.setHouse c h).nextLseq = s.nextLseq := rfl
@[simp] theorem setHouse_launches (s : State) (c : Nat) (h : House) : (s.setHouse c h).launches = s.launches := rfl
@[simp] theorem setHouse_fireNext (s : State) (c : Nat) (h : House) : (s.setHouse c h).fireNext = s.fireNext := rfl
@[simp] theorem setHouse_kernels (s : State) (c : Nat) (h : House) : (s.setHouse c h).kernels = s.kernels := rfl
@[simp] theorem setHouse_objs (s : State) (c : Nat) (h : House) : (s.setHouse c h).objs = s.objs := rfl
@[simp] theorem setHouse_kidNext (s : State) (c : Nat) (h : House) : (s.setHouse c h).kidNext = s.kidNext := rfl
@[simp] theorem setHouse_windowOpened (s : State) (c : Nat) (h : House) : (s.setHouse c h).windowOpened = s.windowOpened := rfl
@[simp] theorem setHouse_sup (s : State) (c : Nat) (h : House) : (s.setHouse c h).sup = s.sup := rfl
@[simp] theorem setHouse_trapWait (s : State) (c : Nat) (h : House) : (s.setHouse c h).trapWait = s.trapWait := rfl
@[simp] theorem setHouse_fqSeq (s : State) (c : Nat) (h : House) : (s.setHouse c h).fqSeq = s.fqSeq := rfl
@[simp] theorem setHouse_tqSeq (s : State) (c : Nat) (h : House) : (s.setHouse c h).tqSeq = s.tqSeq := rfl
@[simp] theorem setHouse_rqSeq (s : State) (c : Nat) (h : House) : (s.setHouse c h).rqSeq = s.rqSeq := rfl
@[simp] theorem setHouse_calendar (s : State) (c : Nat) (h : House) : (s.setHouse c h).calendar = s.calendar := rfl
@[simp] theorem setHouse_calPending (s : State) (c : Nat) (h : House) : (s.setHouse c h).calPending = s.calPending := rfl
@[simp] theorem setHouse_frame (s : State) (c : Nat) (h : House) : (s.setHouse c h).frame = s.frame := rfl
@[simp] theorem setHouse_seq (s : State) (c : Nat) (h : House) : (s.setHouse c h).seq = s.seq := rfl
@[simp] theorem setHouse_boot (s : State) (c : Nat) (h : House) : (s.setHouse c h).boot = s.boot := rfl
@[simp] theorem setHouse_bootHalt (s : State) (c : Nat) (h : House) : (s.setHouse c h).bootHalt = s.bootHalt := rfl
@[simp] theorem setHouse_meas (s : State) (c : Nat) (h : House) : (s.setHouse c h).meas = s.meas := rfl
@[simp] theorem setHouse_fsvn (s : State) (c : Nat) (h : House) : (s.setHouse c h).fsvn = s.fsvn := rfl
@[simp] theorem setHouse_svn (s : State) (c : Nat) (h : House) : (s.setHouse c h).svn = s.svn := rfl
@[simp] theorem setHouse_edSlot (s : State) (c : Nat) (h : House) : (s.setHouse c h).edSlot = s.edSlot := rfl
@[simp] theorem setHouse_mlSlot (s : State) (c : Nat) (h : House) : (s.setHouse c h).mlSlot = s.mlSlot := rfl
@[simp] theorem setHouse_mcmd (s : State) (c : Nat) (h : House) : (s.setHouse c h).mcmd = s.mcmd := rfl
@[simp] theorem setHouse_mstatus (s : State) (c : Nat) (h : House) : (s.setHouse c h).mstatus = s.mstatus := rfl
@[simp] theorem setHouse_respAddr (s : State) (c : Nat) (h : House) : (s.setHouse c h).respAddr = s.respAddr := rfl
@[simp] theorem setHouse_mdata (s : State) (c : Nat) (h : House) : (s.setHouse c h).mdata = s.mdata := rfl
@[simp] theorem setHouse_telemetry (s : State) (c : Nat) (h : House) : (s.setHouse c h).telemetry = s.telemetry := rfl
@[simp] theorem setHouse_pcieUp (s : State) (c : Nat) (h : House) : (s.setHouse c h).pcieUp = s.pcieUp := rfl
@[simp] theorem setHouse_cxlDown (s : State) (c : Nat) (h : House) : (s.setHouse c h).cxlDown = s.cxlDown := rfl
@[simp] theorem setHouse_untrained (s : State) (c : Nat) (h : House) : (s.setHouse c h).untrained = s.untrained := rfl
@[simp] theorem setHouse_clock (s : State) (c : Nat) (h : House) : (s.setHouse c h).clock = s.clock := rfl
@[simp] theorem setHouse_vers (s : State) (c : Nat) (h : House) : (s.setHouse c h).vers = s.vers := rfl
@[simp] theorem setHouse_rels (s : State) (c : Nat) (h : House) : (s.setHouse c h).rels = s.rels := rfl
@[simp] theorem setHouse_draws (s : State) (c : Nat) (h : House) : (s.setHouse c h).draws = s.draws := rfl
@[simp] theorem setHouse_fences (s : State) (c : Nat) (h : House) : (s.setHouse c h).fences = s.fences := rfl
@[simp] theorem setHouse_mgrView (s : State) (c : Nat) (h : House) : (s.setHouse c h).mgrView = s.mgrView := rfl
@[simp] theorem setHouse_doneView (s : State) (c : Nat) (h : House) : (s.setHouse c h).doneView = s.doneView := rfl
@[simp] theorem setHouse_agentNext (s : State) (c : Nat) (h : House) : (s.setHouse c h).agentNext = s.agentNext := rfl

@[simp] theorem setSup_cur (s : State) (n : Nat) (v : DWord) : (s.setSup n v).cur = s.cur := rfl
@[simp] theorem setSup_issue (s : State) (n : Nat) (v : DWord) : (s.setSup n v).issue = s.issue := rfl
@[simp] theorem setSup_agenda (s : State) (n : Nat) (v : DWord) : (s.setSup n v).agenda = s.agenda := rfl
@[simp] theorem setSup_tick (s : State) (n : Nat) (v : DWord) : (s.setSup n v).tick = s.tick := rfl
@[simp] theorem setSup_opSeq (s : State) (n : Nat) (v : DWord) : (s.setSup n v).opSeq = s.opSeq := rfl
@[simp] theorem setSup_outLog (s : State) (n : Nat) (v : DWord) : (s.setSup n v).outLog = s.outLog := rfl
@[simp] theorem setSup_mem (s : State) (n : Nat) (v : DWord) : (s.setSup n v).mem = s.mem := rfl
@[simp] theorem setSup_poison (s : State) (n : Nat) (v : DWord) : (s.setSup n v).poison = s.poison := rfl
@[simp] theorem setSup_refetch (s : State) (n : Nat) (v : DWord) : (s.setSup n v).refetch = s.refetch := rfl
@[simp] theorem setSup_refetched (s : State) (n : Nat) (v : DWord) : (s.setSup n v).refetched = s.refetched := rfl
@[simp] theorem setSup_origins (s : State) (n : Nat) (v : DWord) : (s.setSup n v).origins = s.origins := rfl
@[simp] theorem setSup_hostMem (s : State) (n : Nat) (v : DWord) : (s.setSup n v).hostMem = s.hostMem := rfl
@[simp] theorem setSup_roVa (s : State) (n : Nat) (v : DWord) : (s.setSup n v).roVa = s.roVa := rfl
@[simp] theorem setSup_detBuf (s : State) (n : Nat) (v : DWord) : (s.setSup n v).detBuf = s.detBuf := rfl
@[simp] theorem setSup_cores (s : State) (n : Nat) (v : DWord) : (s.setSup n v).cores = s.cores := rfl
@[simp] theorem setSup_house (s : State) (n : Nat) (v : DWord) : (s.setSup n v).house = s.house := rfl
@[simp] theorem setSup_dies (s : State) (n : Nat) (v : DWord) : (s.setSup n v).dies = s.dies := rfl
@[simp] theorem setSup_l2 (s : State) (n : Nat) (v : DWord) : (s.setSup n v).l2 = s.l2 := rfl
@[simp] theorem setSup_lfsr (s : State) (n : Nat) (v : DWord) : (s.setSup n v).lfsr = s.lfsr := rfl
@[simp] theorem setSup_saved (s : State) (n : Nat) (v : DWord) : (s.setSup n v).saved = s.saved := rfl
@[simp] theorem setSup_gangs (s : State) (n : Nat) (v : DWord) : (s.setSup n v).gangs = s.gangs := rfl
@[simp] theorem setSup_gangNext (s : State) (n : Nat) (v : DWord) : (s.setSup n v).gangNext = s.gangNext := rfl
@[simp] theorem setSup_doms (s : State) (n : Nat) (v : DWord) : (s.setSup n v).doms = s.doms := rfl
@[simp] theorem setSup_stopWt (s : State) (n : Nat) (v : DWord) : (s.setSup n v).stopWt = s.stopWt := rfl
@[simp] theorem setSup_qmsgs (s : State) (n : Nat) (v : DWord) : (s.setSup n v).qmsgs = s.qmsgs := rfl
@[simp] theorem setSup_grants (s : State) (n : Nat) (v : DWord) : (s.setSup n v).grants = s.grants := rfl
@[simp] theorem setSup_ctxs (s : State) (n : Nat) (v : DWord) : (s.setSup n v).ctxs = s.ctxs := rfl
@[simp] theorem setSup_segs (s : State) (n : Nat) (v : DWord) : (s.setSup n v).segs = s.segs := rfl
@[simp] theorem setSup_pages (s : State) (n : Nat) (v : DWord) : (s.setSup n v).pages = s.pages := rfl
@[simp] theorem setSup_serial (s : State) (n : Nat) (v : DWord) : (s.setSup n v).serial = s.serial := rfl
@[simp] theorem setSup_windows (s : State) (n : Nat) (v : DWord) : (s.setSup n v).windows = s.windows := rfl
@[simp] theorem setSup_sessions (s : State) (n : Nat) (v : DWord) : (s.setSup n v).sessions = s.sessions := rfl
@[simp] theorem setSup_nextLseq (s : State) (n : Nat) (v : DWord) : (s.setSup n v).nextLseq = s.nextLseq := rfl
@[simp] theorem setSup_launches (s : State) (n : Nat) (v : DWord) : (s.setSup n v).launches = s.launches := rfl
@[simp] theorem setSup_fireNext (s : State) (n : Nat) (v : DWord) : (s.setSup n v).fireNext = s.fireNext := rfl
@[simp] theorem setSup_kernels (s : State) (n : Nat) (v : DWord) : (s.setSup n v).kernels = s.kernels := rfl
@[simp] theorem setSup_objs (s : State) (n : Nat) (v : DWord) : (s.setSup n v).objs = s.objs := rfl
@[simp] theorem setSup_kidNext (s : State) (n : Nat) (v : DWord) : (s.setSup n v).kidNext = s.kidNext := rfl
@[simp] theorem setSup_windowOpened (s : State) (n : Nat) (v : DWord) : (s.setSup n v).windowOpened = s.windowOpened := rfl
@[simp] theorem setSup_trapWait (s : State) (n : Nat) (v : DWord) : (s.setSup n v).trapWait = s.trapWait := rfl
@[simp] theorem setSup_fqSeq (s : State) (n : Nat) (v : DWord) : (s.setSup n v).fqSeq = s.fqSeq := rfl
@[simp] theorem setSup_tqSeq (s : State) (n : Nat) (v : DWord) : (s.setSup n v).tqSeq = s.tqSeq := rfl
@[simp] theorem setSup_rqSeq (s : State) (n : Nat) (v : DWord) : (s.setSup n v).rqSeq = s.rqSeq := rfl
@[simp] theorem setSup_calendar (s : State) (n : Nat) (v : DWord) : (s.setSup n v).calendar = s.calendar := rfl
@[simp] theorem setSup_calPending (s : State) (n : Nat) (v : DWord) : (s.setSup n v).calPending = s.calPending := rfl
@[simp] theorem setSup_frame (s : State) (n : Nat) (v : DWord) : (s.setSup n v).frame = s.frame := rfl
@[simp] theorem setSup_seq (s : State) (n : Nat) (v : DWord) : (s.setSup n v).seq = s.seq := rfl
@[simp] theorem setSup_boot (s : State) (n : Nat) (v : DWord) : (s.setSup n v).boot = s.boot := rfl
@[simp] theorem setSup_bootHalt (s : State) (n : Nat) (v : DWord) : (s.setSup n v).bootHalt = s.bootHalt := rfl
@[simp] theorem setSup_meas (s : State) (n : Nat) (v : DWord) : (s.setSup n v).meas = s.meas := rfl
@[simp] theorem setSup_fsvn (s : State) (n : Nat) (v : DWord) : (s.setSup n v).fsvn = s.fsvn := rfl
@[simp] theorem setSup_svn (s : State) (n : Nat) (v : DWord) : (s.setSup n v).svn = s.svn := rfl
@[simp] theorem setSup_edSlot (s : State) (n : Nat) (v : DWord) : (s.setSup n v).edSlot = s.edSlot := rfl
@[simp] theorem setSup_mlSlot (s : State) (n : Nat) (v : DWord) : (s.setSup n v).mlSlot = s.mlSlot := rfl
@[simp] theorem setSup_mcmd (s : State) (n : Nat) (v : DWord) : (s.setSup n v).mcmd = s.mcmd := rfl
@[simp] theorem setSup_mstatus (s : State) (n : Nat) (v : DWord) : (s.setSup n v).mstatus = s.mstatus := rfl
@[simp] theorem setSup_respAddr (s : State) (n : Nat) (v : DWord) : (s.setSup n v).respAddr = s.respAddr := rfl
@[simp] theorem setSup_mdata (s : State) (n : Nat) (v : DWord) : (s.setSup n v).mdata = s.mdata := rfl
@[simp] theorem setSup_telemetry (s : State) (n : Nat) (v : DWord) : (s.setSup n v).telemetry = s.telemetry := rfl
@[simp] theorem setSup_pcieUp (s : State) (n : Nat) (v : DWord) : (s.setSup n v).pcieUp = s.pcieUp := rfl
@[simp] theorem setSup_cxlDown (s : State) (n : Nat) (v : DWord) : (s.setSup n v).cxlDown = s.cxlDown := rfl
@[simp] theorem setSup_untrained (s : State) (n : Nat) (v : DWord) : (s.setSup n v).untrained = s.untrained := rfl
@[simp] theorem setSup_clock (s : State) (n : Nat) (v : DWord) : (s.setSup n v).clock = s.clock := rfl
@[simp] theorem setSup_vers (s : State) (n : Nat) (v : DWord) : (s.setSup n v).vers = s.vers := rfl
@[simp] theorem setSup_rels (s : State) (n : Nat) (v : DWord) : (s.setSup n v).rels = s.rels := rfl
@[simp] theorem setSup_draws (s : State) (n : Nat) (v : DWord) : (s.setSup n v).draws = s.draws := rfl
@[simp] theorem setSup_fences (s : State) (n : Nat) (v : DWord) : (s.setSup n v).fences = s.fences := rfl
@[simp] theorem setSup_mgrView (s : State) (n : Nat) (v : DWord) : (s.setSup n v).mgrView = s.mgrView := rfl
@[simp] theorem setSup_doneView (s : State) (n : Nat) (v : DWord) : (s.setSup n v).doneView = s.doneView := rfl
@[simp] theorem setSup_agentNext (s : State) (n : Nat) (v : DWord) : (s.setSup n v).agentNext = s.agentNext := rfl

@[simp] theorem setCore_ref (s : State) (c : Nat) (x : Core) : (s.setCore c x).ref = s.ref := rfl
@[simp] theorem setCrew_ref (s : State) (c k : Nat) (x : Crew) : (s.setCrew c k x).ref = s.ref := rfl
@[simp] theorem setBundle_ref (s : State) (b : BRef) (x : Bundle) : (s.setBundle b x).ref = s.ref := rfl
@[simp] theorem mapLanes_ref (s : State) (b : BRef) (ls : List Nat) (f : Nat → Lane → Lane) : (s.mapLanes b ls f).ref = s.ref := rfl
@[simp] theorem setBundle_lanes (s : State) (b : BRef) (x : Bundle) : (s.setBundle b x).lanes = s.lanes := rfl
@[simp] theorem setCrew_lanes (s : State) (c k : Nat) (x : Crew) : (s.setCrew c k x).lanes = s.lanes := rfl

end Sys2Proof.Machine
end

