-- ==== Sys2Proof/Laws/Alu.lean ====
section
/-!
SUPPORT. What the shared shape of the lane instructions does: with no port among the operands and no storage to ask
for, an instruction commits, and the commit changes the destination, the lanes' PCs, and the flags, tags and FSTAT of its
bundle.
-/

namespace Sys2Proof.Machine

theorem take_noPorts (s : State) (b : BRef) (sh : Shape) (x : Args) (act : List Nat) (h : noPorts x = true) :
    s.take b sh x act = .ok noneTaken := by
  simp only [noPorts, Bool.not_eq_true', Bool.or_eq_false_iff] at h
  have hs : portSources sh x = [] := by
    unfold portSources
    rcases x with ⟨g, d, a, b', c, lit, sc⟩
    cases a <;> cases b' <;> cases c <;> simp_all [isPort]
  have hd : portDest sh x = none := by
    unfold portDest
    rcases x with ⟨g, d, a, b', c, lit, sc⟩
    cases d <;> simp_all [isPort]
  unfold State.take
  rw [hs, hd]
  rfl

/-- An instruction that acts on its course's lanes commits when its crew is of the gang class and it names no port. -/
theorem aluG_commits (s : State) (i : Instr) (x : Args) (sgn : Bool) (rule : TagRule)
    (f : List LIn → List (Nat × LOut) × FFlags) (hp : noPorts x = true) (hq : s.curCrew.byTags = false) :
    ∃ tags, s.aluG i x sgn rule f = .next (s.commit (i.shape.getD default) x noneTaken (s.act x) tags
      (f (s.lanes.map (s.laneIn s.ref noneTaken (i.shape.getD default) x sgn (s.act x)))).1
      (f (s.lanes.map (s.laneIn s.ref noneTaken (i.shape.getD default) x sgn (s.act x)))).2) := by
  have hr : ∀ ts, s.reserve s.ref ts = (s, .ok) := by
    intro ts
    unfold State.reserve
    rw [show (s.crew s.ref.core s.ref.slot).byTags = false from hq]
    rfl
  have hpush : ∀ act r v (k : Unit → Out), s.pushOr x act r v k = k () := by
    intro act r v k
    unfold State.pushOr
    split
    · next n hn => simp [noPorts, hn, isPort] at hp
    · rfl
  unfold State.aluG
  simp only [take_noPorts _ _ _ _ _ hp, hpush, State.withRoom, hr]
  exact ⟨_, rfl⟩

theorem State.atCourse.trans {s t u : State} (h : s.atCourse t) (g : t.atCourse u) : s.atCourse u := by
  obtain ⟨c, w, bs, rfl, ho, hy⟩ := h
  obtain ⟨c', w', bs', rfl, ho', hy'⟩ := g
  refine ⟨c', w', bs', by simp [State.curCrew], fun j hj => ?_, ?_⟩
  · rw [ho' j hj]; simp only [State.curCrew, setCrew_cur, crew_setCrew]; exact ho j hj
  · rw [setCrew_ref, hy] at hy'
    rw [hy']

theorem atCourse_setBundle (s : State) (y : Bundle)
    (h : y = { s.bundle s.ref with lanes := y.lanes, flags := y.flags, tags := y.tags, fstat := y.fstat, raised := y.raised }) :
    s.atCourse (s.setBundle s.ref y) :=
  ⟨s.curCrew.c, s.curCrew.cBy, put s.curCrew.bundles s.cur.bundle y, rfl, fun _ hj => find_put_ne _ _ hj, by simpa using h⟩

theorem atCourse_mapLanes (s : State) (ls : List Nat) (f : Nat → Lane → Lane) : s.atCourse (s.mapLanes s.ref ls f) := by
  refine atCourse_setBundle s _ ?_
  rw [Bundle.mapLanes_eq]

theorem Bundle.flagInc_eq (y : Bundle) (n : Fin 16) : y.flagInc n = { y with flags := (y.flagInc n).flags } := by
  unfold Bundle.flagInc; split <;> rfl
theorem Bundle.flagDec_eq (y : Bundle) (n : Fin 16) : y.flagDec n = { y with flags := (y.flagDec n).flags } := by
  unfold Bundle.flagDec; split <;> rfl

theorem Bundle.marks_eq (y : Bundle) (again : Bool) (x : Args) (done : Bool) :
    y.marks again x done = { y with flags := (y.marks again x done).flags } := by
  unfold Bundle.marks
  split
  · split
    · rw [Bundle.flagDec_eq, Bundle.flagDec_eq]
    · rw [Bundle.flagDec_eq]
  · split
    · rfl
    · rw [Bundle.flagInc_eq]

@[simp] theorem Bundle.marks_lane (y : Bundle) (again : Bool) (x : Args) (done : Bool) (l : Nat) :
    (y.marks again x done).lane l = y.lane l := by
  rw [Bundle.marks_eq]; rfl

theorem atCourse_finishTo (s : State) (x : Args) (d : Bool) (n : Nat → DWord) : s.atCourse (s.finishTo x d n) := by
  refine atCourse_setBundle s _ ?_
  rw [Bundle.marks_eq, Bundle.mapLanes_eq]

theorem atCourse_finish (s : State) (x : Args) (d : Bool) : s.atCourse (s.finish x d) := atCourse_finishTo s x d _

/-- A finished course: each of its lanes stands at its next PC, and is otherwise as it was. -/
theorem finishTo_lane (s : State) (x : Args) (d : Bool) (n : Nat → DWord) (l : Nat) :
    (s.finishTo x d n).lane s.ref l =
      if l ∈ s.lanes then
        { s.lane s.ref l with
          pc := n l, hold := if s.cur.again then (s.lane s.ref l).hold else .stall (s.stallEnd x) }
      else s.lane s.ref l := by
  unfold State.finishTo
  rw [lane_setBundle, Bundle.marks_lane, Bundle.lane_mapLanes _ _ _ _ s.lanes_nodup]
  rfl

theorem atCourse_raise (s : State) (f : FFlags) : s.atCourse (s.raise f) := atCourse_setBundle s _ rfl

theorem atCourse_setTags (s : State) (ts : List (Nat × Tag)) :
    s.atCourse (s.setBundle s.ref ((s.bundle s.ref).setTags ts)) := atCourse_setBundle s _ rfl

@[simp] theorem atCourse_cur {s t : State} (h : s.atCourse t) : t.cur = s.cur := by
  obtain ⟨c, w, bs, rfl, -⟩ := h; rfl
theorem atCourse_ref {s t : State} (h : s.atCourse t) : t.ref = s.ref := by
  obtain ⟨c, w, bs, rfl, -⟩ := h; rfl
theorem atCourse_lanes {s t : State} (h : s.atCourse t) : t.lanes = s.lanes := by
  obtain ⟨c, w, bs, rfl, -⟩ := h; rfl
/-- How the course's crew is placed does not change. -/
theorem atCourse_byTags {s t : State} (h : s.atCourse t) : t.curCrew.byTags = s.curCrew.byTags := by
  obtain ⟨c, w, bs, rfl, -⟩ := h
  simp [State.curCrew, Crew.byTags]

/-- New tags of a crew placed as a gang free no storage. -/
theorem giveTags_gang (s : State) (ts : List (Nat × Tag)) (h : s.curCrew.byTags = false) :
    s.giveTags s.ref ts = s.setBundle s.ref ((s.bundle s.ref).setTags ts) := by
  unfold State.giveTags
  rw [show (s.crew s.ref.core s.ref.slot).byTags = false from h]
  rfl

/-- Crew registers written: those, and what is kept of their writes. -/
theorem Crew.putC_eq (k : Crew) (cyc b n : Nat) (w : Word) :
    k.putC cyc b n w = { k with c := (k.putC cyc b n w).c, cBy := (k.putC cyc b n w).cBy } := by
  unfold Crew.putC
  split
  · split <;> rfl
  · rfl
theorem writeC_eq (s : State) (b : BRef) (n : Nat) (ws : List Word) :
    ∃ c w, s.writeC b n ws = s.setCrew b.core b.slot { s.crew b.core b.slot with c := c, cBy := w } := by
  unfold State.writeC
  generalize ws.zipIdx = l
  suffices h : ∀ k : Crew, ∃ c w,
      l.foldl (fun k e => k.putC (s.core b.core).cyc b.bundle (n + e.2) e.1) k = { k with c := c, cBy := w } by
    obtain ⟨c, w, e⟩ := h (s.crew b.core b.slot)
    exact ⟨c, w, by rw [e]⟩
  induction l with
  | nil => exact fun k => ⟨k.c, k.cBy, rfl⟩
  | cons e r ih =>
    intro k
    rw [List.foldl_cons, Crew.putC_eq]
    obtain ⟨c, w, h⟩ := ih { k with c := (k.putC _ _ _ _).c, cBy := (k.putC _ _ _ _).cBy }
    exact ⟨c, w, h⟩

theorem atCourse_writePred (s : State) (act : List Nat) (o : Opnd) (v : Nat → Bool) :
    s.writePred s.ref act o v = s ∨ s.atCourse (s.writePred s.ref act o v) := by
  unfold State.writePred
  split
  · exact .inr (atCourse_mapLanes _ _ _)
  · exact .inl rfl

theorem atCourse_writeDst (s : State) (x : Args) (t : Taken) (act : List Nat) (r : Nat) (v : Nat → List Word)
    (hq : ∀ n, x.d ≠ .q n) :
    s.writeDst s.ref x t act r v = s ∨ s.atCourse (s.writeDst s.ref x t act r v) := by
  unfold State.writeDst
  split
  · exact .inr (atCourse_mapLanes _ _ _)
  · split
    · exact .inl rfl
    · rename_i n _ _ l _
      obtain ⟨c, w, h⟩ := writeC_eq s s.ref n.val (v l)
      rw [h]
      refine .inr ⟨c, w, s.curCrew.bundles, rfl, fun _ _ => rfl, ?_⟩
      simp [State.bundle, State.ref]
  · next n hn => exact absurd hn (hq n)
  · exact .inl rfl

/-- `s` itself, or `s` changed at the course's place. -/
def State.atCourseOr (s t : State) : Prop := t = s ∨ s.atCourse t

theorem State.atCourseOr.then {s t u : State} (h : s.atCourseOr t) (g : t.atCourse u) : s.atCourse u := by
  rcases h with rfl | h
  · exact g
  · exact h.trans g
theorem State.atCourseOr.thenOr {s t u : State} (h : s.atCourseOr t) (g : t.atCourseOr u) : s.atCourseOr u := by
  rcases g with rfl | g
  · exact h
  · exact .inr (h.then g)
theorem State.atCourseOr.ref {s t : State} (h : s.atCourseOr t) : t.ref = s.ref := by
  rcases h with rfl | h
  · rfl
  · exact atCourse_ref h
theorem State.atCourseOr.cur {s t : State} (h : s.atCourseOr t) : t.cur = s.cur := by
  rcases h with rfl | h
  · rfl
  · exact atCourse_cur h
theorem State.atCourseOr.lanes {s t : State} (h : s.atCourseOr t) : t.lanes = s.lanes := by
  unfold State.lanes; rw [h.cur]

/-- The result part of a commit: destination, then carry predicate. -/
def State.results (s : State) (sh : Shape) (x : Args) (t : Taken) (act : List Nat) (outs : List (Nat × LOut)) : State :=
  let s2 := if sh.d.kind == .predDst then s.writePred s.ref act x.d fun l => (outOf outs l).pred
    else s.writeDst s.ref x t act sh.d.regs fun l => wordsOf sh.d.regs (outOf outs l).val
  if sh.c.kind == .pzCarry then s2.writePred s.ref act x.c fun l => (outOf outs l).pred else s2

theorem results_frame (s : State) (sh : Shape) (x : Args) (t : Taken) (act : List Nat) (outs : List (Nat × LOut))
    (hq : ∀ n, x.d ≠ .q n) : s.atCourseOr (s.results sh x t act outs) := by
  unfold State.results
  have h2 : s.atCourseOr (if sh.d.kind == .predDst then s.writePred s.ref act x.d fun l => (outOf outs l).pred
      else s.writeDst s.ref x t act sh.d.regs fun l => wordsOf sh.d.regs (outOf outs l).val) := by
    split
    · exact atCourse_writePred _ _ _ _
    · exact atCourse_writeDst _ _ _ _ _ _ hq
  dsimp only
  split
  · have h3 := atCourse_writePred (if sh.d.kind == .predDst then s.writePred s.ref act x.d fun l => (outOf outs l).pred
      else s.writeDst s.ref x t act sh.d.regs fun l => wordsOf sh.d.regs (outOf outs l).val) act x.c
      fun l => (outOf outs l).pred
    rw [h2.ref] at h3
    exact h2.thenOr h3
  · exact h2

theorem noPorts_d {x : Args} (h : noPorts x = true) (n : Fin 8) : x.d ≠ .q n := by
  intro hn; simp [noPorts, hn, isPort] at h

theorem pushes_noPorts {x : Args} (h : noPorts x = true) (act : List Nat) : pushes x act = false := by
  unfold pushes
  split
  · next n hn => exact absurd hn (noPorts_d h n)
  · rfl

/-- The state a commit finishes from. -/
def State.beforeEnd (s : State) (sh : Shape) (x : Args) (act : List Nat) (tags : List (Nat × Tag))
    (outs : List (Nat × LOut)) (fl : FFlags) : State :=
  let s3 := s.results sh x noneTaken act outs
  (s3.setBundle s.ref ((s3.bundle s.ref).setTags tags)).raise fl

theorem commit_eq (s : State) (sh : Shape) (x : Args) (act : List Nat) (tags : List (Nat × Tag))
    (outs : List (Nat × LOut)) (fl : FFlags) (hp : noPorts x = true) (hg : s.curCrew.byTags = false) :
    s.commit sh x noneTaken act tags outs fl = (s.beforeEnd sh x act tags outs fl).finish x true := by
  have h := results_frame s sh x noneTaken act outs (noPorts_d hp)
  have hb : (s.results sh x noneTaken act outs).curCrew.byTags = false := by
    rcases h with h | h
    · rw [h]; exact hg
    · rw [atCourse_byTags h]; exact hg
  unfold State.commit State.beforeEnd
  rw [pushes_noPorts hp]
  show (((s.results sh x noneTaken act outs).giveTags s.ref tags).raise fl).finish x true = _
  rw [← h.ref, giveTags_gang _ _ hb]

theorem beforeEnd_frame (s : State) (sh : Shape) (x : Args) (act : List Nat) (tags : List (Nat × Tag))
    (outs : List (Nat × LOut)) (fl : FFlags) (hp : noPorts x = true) :
    s.atCourse (s.beforeEnd sh x act tags outs fl) := by
  have h := results_frame s sh x noneTaken act outs (noPorts_d hp)
  refine (h.then ?_).trans (atCourse_raise _ _)
  rw [← h.ref]
  exact atCourse_setTags _ _

/-- A commit without ports changes only what its own place holds. -/
theorem commit_frame (s : State) (sh : Shape) (x : Args) (act : List Nat) (tags : List (Nat × Tag))
    (outs : List (Nat × LOut)) (fl : FFlags) (hp : noPorts x = true) (hg : s.curCrew.byTags = false) :
    s.atCourse (s.commit sh x noneTaken act tags outs fl) := by
  rw [commit_eq _ _ _ _ _ _ _ hp hg]
  exact (beforeEnd_frame s sh x act tags outs fl hp).trans (atCourse_finish _ _ _)

theorem beforeEnd_lane (s : State) (sh : Shape) (x : Args) (act : List Nat) (tags : List (Nat × Tag))
    (outs : List (Nat × LOut)) (fl : FFlags) (hp : noPorts x = true) (l : Nat) :
    (s.beforeEnd sh x act tags outs fl).lane s.ref l = (s.results sh x noneTaken act outs).lane s.ref l := by
  have h := results_frame s sh x noneTaken act outs (noPorts_d hp)
  have hr : (s.results sh x noneTaken act outs).ref = s.ref := h.ref
  simp [State.beforeEnd, State.raise, hr, Bundle.setTags, Bundle.lane, State.lane_eq]

/-- What a commit leaves in a lane: the result, and the next PC in the lanes of the course. -/
theorem commit_lane (s : State) (sh : Shape) (x : Args) (act : List Nat) (tags : List (Nat × Tag))
    (outs : List (Nat × LOut)) (fl : FFlags) (hp : noPorts x = true) (hg : s.curCrew.byTags = false) (l : Nat) :
    (s.commit sh x noneTaken act tags outs fl).lane s.ref l =
      let z := (s.results sh x noneTaken act outs).lane s.ref l
      if l ∈ s.lanes then
        { z with pc := s.cur.pc + 16, hold := if s.cur.again then z.hold else .stall (s.stallEnd x) }
      else z := by
  have hf := beforeEnd_frame s sh x act tags outs fl hp
  have hc := atCourse_cur hf
  have hl := atCourse_lanes hf
  have hcyc : (s.beforeEnd sh x act tags outs fl).stallEnd x = s.stallEnd x := by
    obtain ⟨c, w, bs, hs, -⟩ := hf
    unfold State.stallEnd
    rw [hs]
    simp [State.core, State.setCrew, State.setCore]
  rw [commit_eq _ _ _ _ _ _ _ hp hg]
  have := finishTo_lane (s.beforeEnd sh x act tags outs fl) x true (fun _ => (s.beforeEnd sh x act tags outs fl).cur.pc + 16) l
  rw [atCourse_ref hf] at this
  rw [show (s.beforeEnd sh x act tags outs fl).finish x true = (s.beforeEnd sh x act tags outs fl).finishTo x true
    (fun _ => (s.beforeEnd sh x act tags outs fl).cur.pc + 16) from rfl, this, beforeEnd_lane _ _ _ _ _ _ _ hp, hl, hc, hcyc]

/-- Words written to consecutive registers of a lane. -/
theorem findD_zipIdx (m : SMap Word) (ws : List Word) (n k : Nat) :
    findD ((ws.zipIdx).foldl (fun m e => put m (n + e.2) e.1) m) k 0 =
      if n ≤ k ∧ k < n + ws.length then ws.getD (k - n) 0 else findD m k 0 := by
  have key : ∀ (ws : List Word) (m : SMap Word) (i : Nat),
      findD ((ws.zipIdx i).foldl (fun m e => put m (n + e.2) e.1) m) k 0 =
        if n + i ≤ k ∧ k < n + i + ws.length then ws.getD (k - (n + i)) 0 else findD m k 0 := by
    intro ws
    induction ws with
    | nil => intro m i; simp
    | cons w r ih =>
      intro m i
      rw [List.zipIdx_cons, List.foldl_cons, ih]
      simp only [List.length_cons]
      by_cases h1 : k = n + i
      · subst h1
        simp
      · rw [findD_put_ne _ _ _ h1]
        by_cases h2 : n + (i + 1) ≤ k ∧ k < n + (i + 1) + r.length
        · rw [if_pos h2, if_pos (by omega)]
          rw [show k - (n + i) = (k - (n + (i + 1))) + 1 by omega]
          simp
        · rw [if_neg h2, if_neg (by omega)]
  simpa using key ws m 0

theorem writeV_v1 (s : State) (act : List Nat) (n : Nat) (vals : Nat → List Word) (hn : act.Nodup) (l k : Nat) :
    ((s.writeV s.ref act n vals).lane s.ref l).v1 k =
      if l ∈ act ∧ n ≤ k ∧ k < n + (vals l).length then (vals l).getD (k - n) 0 else (s.lane s.ref l).v1 k := by
  unfold State.writeV State.mapLanes
  rw [lane_setBundle, Bundle.lane_mapLanes _ _ _ _ hn]
  by_cases h : l ∈ act
  · simp only [h, if_true, true_and, Lane.v1, findD_zipIdx]
    rfl
  · simp [h]; rfl

theorem wordsOf_length (r : Nat) (v : DWord) (h : r = 1 ∨ r = 2) : (wordsOf r v).length = r := by
  rcases h with rfl | rfl <;> rfl

end Sys2Proof.Machine
end

