-- ==== Sys2Proof/Tests/Slice0.lean ====
section
/-!
SUPPORT. Tests of the decoder and of single steps against words and results that the spec works out, the terms that
`Instr.wf` refuses, and for each statement a concrete state and operands that meet what it assumes.
-/

open Sys2Proof Sys2Proof.Machine

namespace Sys2Proof.Tests

set_option Elab.async false

/-! ### Decoding (Tables 11-1 to 11-5, and the form tables of chapters 13 to 16) -/

/-- Unguarded operands with the default scheduling field of R206. -/
def x (d a b c : Opnd) (lit : Word) : Args := ⟨⟨7, false⟩, d, a, b, c, lit, ⟨false, 0, 15, 15, 0, 0⟩⟩

/-- Every word decodes to its instruction, which is well formed and encodes to the word. -/
def wordsOk (l : List (BitVec 128 × Instr)) : Bool :=
  l.all fun p => decode p.1 == some p.2 && p.2.wf && encode p.2 == p.1

/-- Table 13-1 (part 1). -/
theorem test_words_class_0_a : wordsOk [
    (0x0FF00000_00000000_00000000_00007000, .nop (x .none .none .none .none 0)),
    (0x0FF00000_80000000_0300000F_F8027001, .mov .b64 (x (.v 2) .imm .none .none 2147483648)),
    (0x0FF00000_00000000_02001020_04037002, .iadd .n32 (x (.v 3) (.v 1) (.c 2) .none 0)),
    (0x0FF00000_00000000_04000080_18047003, .isub .s64 (x (.v 4) (.v 6) (.v 8) .none 0)),
    (0x0FF00000_00000000_0348C060_080A7004, .iaddc .b64 (x (.v 10) (.v 2) (.v 6) (.p 3) 0)),
    (0x0FF00000_00000000_05000080_18047005, .imul .n64 (x (.v 4) (.v 6) (.v 8) .none 0)),
    (0x0FF00000_00000000_01000080_18047006, .imulh .s32 (x (.v 4) (.v 6) (.v 8) .none 0)),
    (0x0FF00000_00000000_00024080_18047007, .imad .b32 (x (.v 4) (.v 6) (.v 8) (.v 9) 0)),
    (0x0FF00000_00000000_02028080_18047008, .imadw .n32 (x (.v 4) (.v 6) (.v 8) (.v 10) 0)),
    (0x0FF00000_00000000_04000080_18047009, .idiv .s64 (x (.v 4) (.v 6) (.v 8) .none 0)),
    (0x0FF00000_00000000_02000080_1804700A, .irem .n32 (x (.v 4) (.v 6) (.v 8) .none 0)),
    (0x0FF00000_00000000_01000000_1804700B, .iabs .s32 (x (.v 4) (.v 6) .none .none 0))] = true := by decide +kernel

/-- Table 13-1 (part 2). -/
theorem test_words_class_0_b : wordsOk [
    (0x0FF00000_00000000_04000000_1804700C, .ineg .s64 (x (.v 4) (.v 6) .none .none 0)),
    (0x0FF00000_00000000_02000080_1804700D, .imin .n32 (x (.v 4) (.v 6) (.v 8) .none 0)),
    (0x0FF00000_00000000_01000080_1804700E, .imax .s32 (x (.v 4) (.v 6) (.v 8) .none 0)),
    (0x0FF00000_00000000_55000080_1922700F, .icmp .ge .n64 (x (.p 2) (.v 6) (.v 8) .none 0)),
    (0x0FF00000_00000000_00484080_18047010, .isel .b32 (x (.v 4) (.v 6) (.v 8) (.p 1) 0)),
    (0x0FF00000_000000FF_00003FE0_18047011, .andL .b32 (x (.v 4) (.v 6) .imm .none 255)),
    (0x0FF00000_00000000_00000080_18047012, .orL .b32 (x (.v 4) (.v 6) (.v 8) .none 0)),
    (0x0FF00000_00000000_03000080_18047013, .xorL .b64 (x (.v 4) (.v 6) (.v 8) .none 0)),
    (0x0FF00000_00000000_00000080_18047014, .andn .b32 (x (.v 4) (.v 6) (.v 8) .none 0)),
    (0x0FF00000_00000000_03000000_18047015, .notL .b64 (x (.v 4) (.v 6) .none .none 0)),
    (0x0FF00000_00000000_00000080_18047016, .shl .b32 (x (.v 4) (.v 6) (.v 8) .none 0)),
    (0x0FF00000_00000000_03000080_18047017, .shr .b64 (x (.v 4) (.v 6) (.v 8) .none 0))] = true := by decide +kernel

/-- Table 13-1 (part 3). -/
theorem test_words_class_0_c : wordsOk [
    (0x0FF00000_00000000_01000080_18047018, .shra .s32 (x (.v 4) (.v 6) (.v 8) .none 0)),
    (0x0FF00000_00000000_03000080_18047019, .rotl .b64 (x (.v 4) (.v 6) (.v 8) .none 0)),
    (0x0FF00000_00000000_0000C040_201A701A, .funnel (x (.v 26) (.v 8) (.v 4) (.v 3) 0)),
    (0x0FF00000_00000000_03000000_1804701B, .popc .b64 (x (.v 4) (.v 6) .none .none 0)),
    (0x0FF00000_00000000_00000000_1804701C, .clz .b32 (x (.v 4) (.v 6) .none .none 0)),
    (0x0FF00000_00000000_00000000_1804701D, .ctz .b32 (x (.v 4) (.v 6) .none .none 0)),
    (0x0FF00000_00000000_03000000_1804701E, .brev .b64 (x (.v 4) (.v 6) .none .none 0)),
    (0x0FF00000_00000A05_01003FE0_1804701F, .bfx .s32 (x (.v 4) (.v 6) .imm .none 2565)),
    (0x0FF00000_00000000_00024080_18047020, .bfi (x (.v 4) (.v 6) (.v 8) (.v 9) 0)),
    (0x0FF00000_00000000_C1000080_18047021, .lea 12 .s32 (x (.v 4) (.v 6) (.v 8) .none 0)),
    (0x0FF00000_000000B0_00495244_89267022, .plop 0xB0 (x (.p 6) (.p 2) (.p 4) (.p 5) 0)),
    (0x0FF00000_00000000_00000000_00047023, .pmovPack (x (.v 4) .none .none .none 0))] = true := by decide +kernel

/-- Table 13-1 (part 4). -/
theorem test_words_class_0_d : wordsOk [
    (0x0FF00000_00000009_00003FE0_19247023, .pmovUnpack (x (.p 4) (.v 6) .imm .none 9)),
    (0x0FF00000_00000000_00000000_18047024, .gettag (x (.v 4) (.v 6) .none .none 0)),
    (0x0FF00000_00000000_00000000_00047025, .taggen (x (.v 4) .none .none .none 0))] = true := by decide +kernel

/-- Table 13-4 (part 1). -/
theorem test_words_class_1_a : wordsOk [
    (0x0FF00000_00000000_5A000080_18047100, .fadd .rz .f32 (x (.v 4) (.v 6) (.v 8) .none 0)),
    (0x0FF00000_00000000_0B000080_18047101, .fsub .fmode .f16 (x (.v 4) (.v 6) (.v 8) .none 0)),
    (0x0FF00000_00000000_4C000080_18047102, .fmul .rn .bf16 (x (.v 4) (.v 6) (.v 8) .none 0)),
    (0x0FF00000_00000000_6A024080_18047103, .ffma .rd .f32 (x (.v 4) (.v 6) (.v 8) (.v 9) 0)),
    (0x0FF00000_00000000_0A000080_18047104, .fmin .f32 (x (.v 4) (.v 6) (.v 8) .none 0)),
    (0x0FF00000_00000000_0B000080_18047105, .fmax .f16 (x (.v 4) (.v 6) (.v 8) .none 0)),
    (0x0FF00000_00000000_0A000000_18047106, .fabs .f32 (x (.v 4) (.v 6) .none .none 0)),
    (0x0FF00000_00000000_0C000000_18047107, .fneg .bf16 (x (.v 4) (.v 6) .none .none 0)),
    (0x0FF00000_00000000_6A000080_19217108, .fcmp .un .f32 (x (.p 1) (.v 6) (.v 8) .none 0)),
    (0x0FF00000_00000000_0A000000_18047109, .fclass (x (.v 4) (.v 6) .none .none 0)),
    (0x0FF00000_00000000_7A000000_1804710A, .frnd .ru (x (.v 4) (.v 6) .none .none 0)),
    (0x0FF00000_00000000_4A000080_1804710B, .fscale .rn (x (.v 4) (.v 6) (.v 8) .none 0))] = true := by decide +kernel

/-- Table 13-4 (part 2). -/
theorem test_words_class_1_b : wordsOk [
    (0x0FF00000_00000000_4D000080_1804710C, .hadd2 .rn .f16x2 (x (.v 4) (.v 6) (.v 8) .none 0)),
    (0x0FF00000_00000000_0E000080_1804710D, .hmul2 .fmode .bf16x2 (x (.v 4) (.v 6) (.v 8) .none 0)),
    (0x0FF00000_00000000_5D024080_1804710E, .hfma2 .rz .f16x2 (x (.v 4) (.v 6) (.v 8) (.v 9) 0)),
    (0x0FF00000_00000000_4E024080_1804710F, .fdot2 .rn .bf16x2 (x (.v 4) (.v 6) (.v 8) (.v 9) 0))] = true := by decide +kernel

/-- Table 13-7. -/
theorem test_words_class_2 : wordsOk [
    (0x0FF00000_0000000A_51000000_18047200, .cvt .rz .s32 .f32 (x (.v 4) (.v 6) .none .none 0)),
    (0x0FF00000_00000000_4D000080_18047201, .pack2 .rn .f16x2 (x (.v 4) (.v 6) (.v 8) .none 0)),
    (0x0FF00000_00000000_0E000000_18047202, .unpack2 .bf16x2 (x (.v 4) (.v 6) .none .none 0)),
    (0x0FF00000_00000000_0A000080_18047203, .had16 (x (.v 4) (.v 6) (.v 8) .none 0)),
    (0x0FF00000_00000000_1F000000_18047204, .qblk .sb5 (x (.v 4) (.v 6) .none .none 0)),
    (0x0FF00000_00000000_2F000000_18047205, .dqblk .sb8 (x (.v 4) (.v 6) .none .none 0)),
    (0x0FF00000_00000000_00000080_18047206, .seedflip (x (.v 4) (.v 6) (.v 8) .none 0))] = true := by decide +kernel

/-- Table 13-8. -/
theorem test_words_class_3 : wordsOk [
    (0x0FF00000_00000000_0A000000_18047300, .rcp (x (.v 4) (.v 6) .none .none 0)),
    (0x0FF00000_00000000_0A000000_18047301, .rsq (x (.v 4) (.v 6) .none .none 0)),
    (0x0FF00000_00000000_0A000000_18047302, .sqrt (x (.v 4) (.v 6) .none .none 0)),
    (0x0FF00000_00000000_0A000000_18047303, .ex2 (x (.v 4) (.v 6) .none .none 0)),
    (0x0FF00000_00000000_0A000000_18047304, .lg2 (x (.v 4) (.v 6) .none .none 0)),
    (0x0FF00000_00000000_0A000000_18047305, .sin (x (.v 4) (.v 6) .none .none 0)),
    (0x0FF00000_00000000_0A000000_18047306, .cos (x (.v 4) (.v 6) .none .none 0)),
    (0x0FF00000_00000000_0A000000_18047307, .tanh (x (.v 4) (.v 6) .none .none 0))] = true := by decide +kernel

/-- Table 14-1. -/
theorem test_words_class_4 : wordsOk [
    (0x0FF00000_FFFFFFB0_00000000_00007400, .bra 0xFFFFFFB0 (x .none .none .none .none 0)),
    (0x0FF00000_00000000_01000000_18007401, .brx true (x .none (.v 6) .none .none 0)),
    (0x0FF00000_00000040_00000000_00007402, .call 0x40 (x .none .none .none .none 0)),
    (0x0FF00000_00000000_00000004_10007403, .callx false (x .none (.c 4) .none .none 0)),
    (0x0FF00000_00000000_00000000_00007404, .ret (x .none .none .none .none 0)),
    (0x0FF00000_00000000_00000000_00007405, .join (x .none .none .none .none 0)),
    (0x0FF00000_00000000_00000000_00007406, .exitL (x .none .none .none .none 0)),
    (0x0FF00000_00000064_00000000_00007407, .sleep 100 (x .none .none .none .none 0))] = true := by decide +kernel

/-- Table 14-2 (part 1). -/
theorem test_words_class_5_a : wordsOk [
    (0x0FF00000_FFFFFFF0_CB000000_18047500, .ldg .s16 ⟨.acq, .dev⟩ 0xFFFFFFF0 (x (.v 4) (.v 6) .none .none 0)),
    (0x0FF00000_00000008_F5000080_18007501, .stg .b64 ⟨.rel, .sys⟩ 8 (x .none (.v 6) (.v 8) .none 0)),
    (0x0FF00000_000FFFFC_00000000_18047502, .lds .n8 ⟨.rlx, .lane⟩ 0xFFFFC (x (.v 4) (.v 6) .none .none 0)),
    (0x0FF00000_FFF00010_54003FE0_18007503, .sts .b32 ⟨.rel, .crew⟩ 0x10 (x .none (.v 6) .imm .none 4095)),
    (0x0FF00000_00000020_02000000_18087504, .ldgv .x8 ⟨.rlx, .lane⟩ 0x20 (x (.v 8) (.v 6) .none .none 0)),
    (0x0FF00000_00000020_00000080_18007505, .stgv .x2 ⟨.rlx, .lane⟩ 0x20 (x .none (.v 6) (.v 8) .none 0)),
    (0x0FF00000_00000040_03000000_18087506, .ldsv .x16 ⟨.rlx, .lane⟩ 0x40 (x (.v 8) (.v 6) .none .none 0)),
    (0x0FF00000_00000040_91000080_18007507, .stsv .x4 ⟨.rel, .gang⟩ 0x40 (x .none (.v 6) (.v 8) .none 0)),
    (0x0FF00000_00000080_02000080_18007508, .lineset .poisoned 0x80 (x .none (.v 6) (.v 8) .none 0)),
    (0x0FF00000_00000080_00000000_18047509, .lineq 0x80 (x (.v 4) (.v 6) .none .none 0)),
    (0x0FF00000_00000100_00000000_1800750A, .pref 0x100 (x .none (.v 6) .none .none 0)),
    (0x0FF00000_00000100_02000000_1800750B, .cctl .wbinv 0x100 (x .none (.v 6) .none .none 0))] = true := by decide +kernel

/-- Table 14-2 (part 2). -/
theorem test_words_class_5_b : wordsOk [
    (0x0FF00000_00000004_04000080_1804750C, .ldgw ⟨.rlx, .lane⟩ 4 (x (.v 4) (.v 6) (.v 8) .none 0)),
    (0x0FF00000_00000004_D4024080_1800750D, .stgw ⟨.rel, .dev⟩ 4 (x .none (.v 6) (.v 8) (.v 9) 0))] = true := by decide +kernel

/-- Table 14-4. -/
theorem test_words_class_6 : wordsOk [
    (0x0FF00000_2FFFFFF8_FD000080_18047600, .atomg .max .n64 ⟨.ar, .sys⟩ 0xFFFFFF8 (x (.v 4) (.v 6) (.v 8) .none 0)),
    (0x0FF00000_60000004_00000080_18047601, .atoms .exch .b32 ⟨.rlx, .lane⟩ 4 (x (.v 4) (.v 6) (.v 8) .none 0)),
    (0x0FF00000_00000000_06000080_18007602, .redg .add .f32 ⟨.rlx, .lane⟩ 0 (x .none (.v 6) (.v 8) .none 0)),
    (0x0FF00000_00000008_AB028080_18047603, .casg .b64 ⟨.acq, .die⟩ 8 (x (.v 4) (.v 6) (.v 8) (.v 10) 0)),
    (0x0FF00000_00000008_00028080_18047604, .cass .b32 ⟨.rlx, .lane⟩ 8 (x (.v 4) (.v 6) (.v 8) (.v 10) 0)),
    (0x0FF00000_00000000_D8000000_00007605, .fence ⟨.ar, .dev⟩ (x .none .none .none .none 0)),
    (0x0FF00000_00007FFF_0000000F_F8007606, .qfence (x .none .imm .none .none 32767)),
    (0x0FF00000_00000007_19003FE0_18047607, .cbar .max .s32 (x (.v 4) (.v 6) .imm .none 7)),
    (0x0FF00000_00000003_00003FE0_18007608, .expect (x .none (.v 6) .imm .none 3)),
    (0x0FF00000_00000000_00000080_18007609, .arrive (x .none (.v 6) (.v 8) .none 0)),
    (0x0FF00000_00000000_00000080_1800760A, .waitr (x .none (.v 6) (.v 8) .none 0))] = true := by decide +kernel

/-- Table 14-7. -/
theorem test_words_class_7 : wordsOk [
    (0x0FF00000_00000000_00000004_84047700, .ballot (x (.v 4) (.p 1) .none .none 0)),
    (0x0FF00000_00000000_20000000_19217701, .vote .uni (x (.p 1) (.v 6) .none .none 0)),
    (0x0FF00000_00000000_23000080_18047702, .shfl .down .b64 (x (.v 4) (.v 6) (.v 8) .none 0)),
    (0x0FF00000_00000000_00001300_18047703, .bcast .b32 (x (.v 4) (.v 6) (.special .lane) .none 0)),
    (0x0FF00000_00000000_22000000_18047704, .redb .max .n32 (x (.v 4) (.v 6) .none .none 0)),
    (0x0FF00000_00000000_8A000000_18047705, .scanb .add .f32 true (x (.v 4) (.v 6) .none .none 0)),
    (0x0FF00000_00000000_03000000_18047706, .matchL .b64 (x (.v 4) (.v 6) .none .none 0)),
    (0x0FF00000_00000000_00000000_00047707, .actmask (x (.v 4) .none .none .none 0))] = true := by decide +kernel

/-- Table 15-1. -/
theorem test_words_class_8 : wordsOk [
    (0x0FF00000_00000000_01000063_E9217800, .pbind true (x (.p 1) (.q 2) (.v 6) .none 0)),
    (0x0FF00000_00000000_00000003_E8007801, .punbind (x .none (.q 2) .none .none 0)),
    (0x0FF00000_00000001_00003FE3_E8047802, .pstat (x (.v 4) (.q 2) .imm .none 1)),
    (0x0FF00000_00000000_00000063_E8007803, .pskip (x .none (.q 2) (.v 6) .none 0)),
    (0x0FF00000_000000FF_0000000F_F8007804, .pflush (x .none .imm .none .none 255)),
    (0x0FF00000_00000020_00000003_E8007805, .bpend 0x20 (x .none (.q 2) .none .none 0)),
    (0x0FF00000_00000000_00003FF3_E8007806, .prewind (x .none (.q 2) .zero .none 0))] = true := by decide +kernel

/-- Table 15-2. -/
theorem test_words_class_9 : wordsOk [
    (0x0FF00000_00000000_00000000_19117900, .tld (x (.t 1) (.v 6) .none .none 0)),
    (0x0FF00000_00000000_00001120_18007901, .tst (x .none (.v 6) (.t 2) .none 0)),
    (0x0FF00000_00000000_00000000_01137902, .tzero (x (.t 3) .none .none .none 0)),
    (0x0FF00000_00000000_000600C0_78007903, .mloop (x .none (.v 30) (.v 12) (.v 24) 0)),
    (0x0FF00000_00000000_000600C4_0C007904, .gmloop (x .none (.c 3) (.v 12) (.v 24) 0)),
    (0x0FF00000_00000000_000000C0_79217905, .accalloc (x (.p 1) (.v 30) (.v 12) .none 0)),
    (0x0FF00000_00000000_00000000_78007906, .accfree (x .none (.v 30) .none .none 0)),
    (0x0FF00000_00000000_000000C0_78047907, .accrd (x (.v 4) (.v 30) (.v 12) .none 0)),
    (0x0FF00000_00000000_000100C0_78007908, .accwr (x .none (.v 30) (.v 12) (.v 4) 0)),
    (0x0FF00000_00000000_1F0301E0_18007909, .accst (.blk .sb5) (x .none (.v 6) (.v 30) (.v 12) 0)),
    (0x0FF00000_00000000_00000000_0000790A, .mwait (x .none .none .none .none 0))] = true := by decide +kernel

/-- Table 16-3 (part 1). -/
theorem test_words_class_A_a : wordsOk [
    (0x0FF00000_00000000_00000000_18047A00, .segnew (x (.v 4) (.v 6) .none .none 0)),
    (0x0FF00000_00000000_00000000_19047A01, .segseal (x (.c 4) (.v 6) .none .none 0)),
    (0x0FF00000_00000000_00000000_18047A02, .segretire (x (.v 4) (.v 6) .none .none 0)),
    (0x0FF00000_00000000_00000000_18047A03, .ctxnew (x (.v 4) (.v 6) .none .none 0)),
    (0x0FF00000_00000000_00000000_1BFF7A04, .ctxfree (x .zero (.v 6) .none .none 0)),
    (0x0FF00000_00000000_00008090_1C057A05, .link (x (.v 5) (.v 7) (.v 9) (.v 2) 0)),
    (0x0FF00000_00000000_00000080_18047A06, .unlink (x (.v 4) (.v 6) (.v 8) .none 0)),
    (0x0FF00000_00000000_00000000_18047A07, .fork (x (.v 4) (.v 6) .none .none 0)),
    (0x0FF00000_00000000_00000000_18047A08, .ctxflat (x (.v 4) (.v 6) .none .none 0)),
    (0x0FF00000_00000000_00024080_18047A09, .append (x (.v 4) (.v 6) (.v 8) (.v 9) 0)),
    (0x0FF00000_00000000_00028080_18047A0A, .patch (x (.v 4) (.v 6) (.v 8) (.v 10) 0)),
    (0x0FF00000_00000000_01000080_18047A0B, .attn true false (x (.v 4) (.v 6) (.v 8) .none 0))] = true := by decide +kernel

/-- Table 16-3 (part 2). -/
theorem test_words_class_A_b : wordsOk [
    (0x0FF00000_00000000_00000000_18047A0C, .specb (x (.v 4) (.v 6) .none .none 0)),
    (0x0FF00000_00000000_00000000_18047A0D, .speca (x (.v 4) (.v 6) .none .none 0)),
    (0x0FF00000_00000000_00000080_18047A0E, .specr (x (.v 4) (.v 6) (.v 8) .none 0)),
    (0x0FF00000_00000000_00000080_18047A0F, .ctxq (x (.v 4) (.v 6) (.v 8) .none 0)),
    (0x0FF00000_00000000_00488080_18047A10, .palloc (x (.v 4) (.v 6) (.v 8) (.p 2) 0)),
    (0x0FF00000_00000000_00000000_18047A11, .pfree (x (.v 4) (.v 6) .none .none 0)),
    (0x0FF00000_00000000_00000000_18047A12, .promote (x (.v 4) (.v 6) .none .none 0)),
    (0x0FF00000_00000000_00000000_18047A13, .demote (x (.v 4) (.v 6) .none .none 0))] = true := by decide +kernel

/-- Table 15-9. -/
theorem test_words_class_B : wordsOk [
    (0x0FF00000_FFF00010_BA028080_18047B00, .cpy ⟨.gg, 3, true, false, .b128⟩ 0xFFF0 0x0010 (x (.v 4) (.v 6) (.v 8) (.v 10) 0)),
    (0x0FF00000_00000000_54028080_18007B01, .tcpy ⟨.sg, 1, false, true, .b32⟩ (x .none (.v 6) (.v 8) (.v 10) 0)),
    (0x0FF00000_00050100_C5FFC080_18007B02, .cpyfill ⟨.ss, 0, false, true, .b64⟩ 5 0x0100 (x .none (.v 6) (.v 8) .zero 0))] = true := by decide +kernel

/-- Table 16-11. -/
theorem test_words_class_C : wordsOk [
    (0x0FF00000_00000001_00FF81E0_00097C00, .spawn (x (.v 9) (.v 0) (.v 30) .imm 1)),
    (0x0FF00000_00000000_00000080_18047C01, .splitw (x (.v 4) (.v 6) (.v 8) .none 0)),
    (0x0FF00000_00000000_00000000_18047C02, .retw (x (.v 4) (.v 6) .none .none 0)),
    (0x0FF00000_00000000_01000080_18007C02, .retwSv (x .none (.v 6) (.v 8) .none 0)),
    (0x0FF00000_00000000_00000000_19217C03, .waitq (x (.p 1) (.v 6) .none .none 0)),
    (0x0FF00000_00000000_00000000_18047C04, .qopen (x (.v 4) (.v 6) .none .none 0)),
    (0x0FF00000_00000000_00000000_18047C05, .qclose (x (.v 4) (.v 6) .none .none 0)),
    (0x0FF00000_00000000_00000000_18047C06, .qread (x (.v 4) (.v 6) .none .none 0)),
    (0x0FF00000_00000000_00000000_18007C07, .postres (x .none (.v 6) .none .none 0)),
    (0x0FF00000_00000000_00040080_18007C08, .msend (x .none (.v 6) (.v 8) (.v 16) 0))] = true := by decide +kernel

/-- Table 16-12. -/
theorem test_words_class_D : wordsOk [
    (0x0FF00000_00000007_00003FE0_00007D00, .gbar (x .none .none .imm .none 7)),
    (0x0FF00000_00000000_00000014_0C007D01, .rsend (x .none (.c 3) (.v 1) .none 0)),
    (0x0FF00000_00000000_00000080_18047D02, .rrecv (x (.v 4) (.v 6) (.v 8) .none 0)),
    (0x0FF00000_00000000_00028080_18007D03, .mcast (x .none (.v 6) (.v 8) (.v 10) 0))] = true := by decide +kernel

/-- Table 16-17. -/
theorem test_words_class_E : wordsOk [
    (0x0FF00000_00000111_00000000_10007E00, .movk 0x111 (x .none (.v 4) .none .none 0)),
    (0x0FF00000_00000100_00000000_00047E01, .movr 0x100 (x (.v 4) .none .none .none 0)),
    (0x0FF00000_00000005_00000000_00007E02, .trap 5 (x .none .none .none .none 0)),
    (0x0FF00000_00000006_00000000_00007E03, .svc 6 (x .none .none .none .none 0)),
    (0x0FF00000_00000000_00000000_00007E04, .eret (x .none .none .none .none 0)),
    (0x0FF00000_00000000_00000000_00047E05, .slotq (x (.v 4) .none .none .none 0)),
    (0x0FF00000_00000000_00000080_18047E06, .csave (x (.v 4) (.v 6) (.v 8) .none 0)),
    (0x0FF00000_00000000_00000080_18047E07, .crestore (x (.v 4) (.v 6) (.v 8) .none 0))] = true := by decide +kernel

/-! ### What `Instr.wf` and the limits of a kernel refuse -/

/-- Each kind of operand field refuses an operand of another kind (R188). -/
theorem test_wf_refuses_kinds : [
    Instr.nop (x (.v 1) .none .none .none 0),
    .mov .b32 (x (.p 1) (.v 1) .none .none 0),
    .mov .b32 (x (.v 1) (.t 1) .none .none 0),
    .ldg .b32 ⟨.rlx, .lane⟩ 0 (x (.v 1) (.q 1) .none .none 0),
    .lds .b32 ⟨.rlx, .lane⟩ 0 (x (.v 1) .imm .none .none 0),
    .brx false (x .none .zero .none .none 0),
    .icmp .eq .b32 (x (.v 1) (.v 1) (.v 2) .none 0),
    .plop 0 (x (.p 1) (.v 1) (.p 2) (.p 3) 0),
    .iaddc .b32 (x (.v 1) (.v 2) (.v 3) (.v 4) 0),
    .palloc (x (.v 1) (.v 2) (.v 4) (.v 5) 0),
    .gettag (x (.v 1) (.c 1) .none .none 0),
    .taggen (x (.c 1) .none .none .none 0),
    .stgv .x2 ⟨.rlx, .lane⟩ 0 (x .none (.v 2) (.c 4) .none 0),
    .ldgv .x2 ⟨.rlx, .lane⟩ 0 (x (.c 4) (.v 2) .none .none 0),
    .mloop (x .none (.v 1) (.v 2) (.q 0) 0),
    .slotq (x (.q 0) .none .none .none 0),
    .qfence (x .none (.v 1) .none .none 0),
    .gbar (x .none .none (.v 1) .none 0),
    .punbind (x .none (.v 1) .none .none 0),
    .tzero (x (.v 1) .none .none .none 0),
    .tst (x .none (.v 1) (.v 2) .none 0),
    .segnew (x (.q 1) (.v 1) .none .none 0),
    .attn false false (x (.c 1) (.v 1) (.v 4) .none 0)].all (fun i => !i.wf) = true := by decide +kernel

/-- Each check of modifiers and literals refuses a value that the form does not assign (R191). -/
theorem test_wf_refuses_modifiers : [
    Instr.mov .f32 (x (.v 1) (.v 1) .none .none 0),
    .iadd .n8 (x (.v 1) (.v 1) (.v 2) .none 0),
    .imulh .b32 (x (.v 1) (.v 1) (.v 2) .none 0),
    .idiv .b32 (x (.v 1) (.v 1) (.v 2) .none 0),
    .iabs .n32 (x (.v 1) (.v 1) .none .none 0),
    .icmp .lt .b32 (x (.p 1) (.v 1) (.v 2) .none 0),
    .fadd .rn .s32 (x (.v 1) (.v 1) (.v 2) .none 0),
    .fadd .rn .f16 (x (.v 1) .imm (.v 2) .none 0x10000),
    .hadd2 .rn .f32 (x (.v 1) (.v 1) (.v 2) .none 0),
    .cvt .rn .f16x2 .f32 (x (.v 1) (.v 1) .none .none 0),
    .bra 8 (x .none .none .none .none 0),
    .bpend 8 (x .none (.q 1) .none .none 0),
    .ldg .b32 ⟨.rel, .dev⟩ 0 (x (.v 1) (.v 2) .none .none 0),
    .ldg .b32 ⟨.rlx, .dev⟩ 0 (x (.v 1) (.v 2) .none .none 0),
    .stg .b32 ⟨.acq, .dev⟩ 0 (x .none (.v 2) (.v 1) .none 0),
    .sts .b32 ⟨.rlx, .lane⟩ 0 (x .none (.v 2) .imm .none 4096),
    .lineset .full 0 (x .none (.v 2) .imm .none 4096),
    .atomg .and .f32 ⟨.rlx, .lane⟩ 0 (x (.v 1) (.v 2) (.v 4) .none 0),
    .casg .s32 ⟨.rlx, .lane⟩ 0 (x (.v 1) (.v 2) (.v 4) (.v 5) 0),
    .fence ⟨.rlx, .lane⟩ (x .none .none .none .none 0),
    .qfence (x .none .imm .none .none 32768),
    .cbar .and .f32 (x (.v 1) (.v 2) .imm .none 1),
    .cbar .none .b32 (x .none .none .imm .none 8),
    .redb .add .b32 (x (.v 1) (.v 2) .none .none 0),
    .shfl .idx .s32 (x (.v 1) (.v 2) (.v 3) .none 0),
    .tcpy ⟨.gs, 0, false, false, .b64⟩ (x .none (.v 2) (.v 4) (.v 6) 0),
    .cpyfill ⟨.sg, 0, false, false, .b32⟩ 1 0 (x .none (.v 2) (.v 4) .zero 0),
    .gbar (x .none .none .imm .none 8)].all (fun i => !i.wf) = true := by decide +kernel

/-- A pop and a peek in one instruction (R188), a literal that no field selects (R212), and a step that is no instruction. -/
theorem test_wf_refuses_the_rest : [
    Instr.iadd .b32 (x (.v 1) (.q 1) (.peek 2) .none 0),
    .iadd .b32 (x (.v 1) (.v 1) (.v 2) .none 5),
    .pickerDecision 0 0].all (fun i => !i.wf) = true := by decide +kernel

/-- A register beyond the declared count, an odd pair, a port before version 3, a tile beyond the declared count, and SB3
under version 1 (R12, R13, R16, R192, Table 11-7). -/
theorem test_limits_refuse : [
    ((⟨3, 8, 0, false⟩ : Env), Instr.mov .b32 (x (.v 8) (.v 1) .none .none 0)),
    (⟨3, 8, 0, false⟩, .mov .b64 (x (.v 3) (.v 2) .none .none 0)),
    (⟨3, 8, 0, false⟩, .mov .b64 (x (.v 2) (.c 3) .none .none 0)),
    (⟨3, 8, 0, false⟩, .ldgv .x4 ⟨.rlx, .lane⟩ 0 (x (.v 6) (.v 2) .none .none 0)),
    (⟨2, 8, 0, false⟩, .mov .b32 (x (.v 1) (.q 1) .none .none 0)),
    (⟨3, 8, 2, false⟩, .tzero (x (.t 2) .none .none .none 0)),
    (⟨1, 8, 2, false⟩, .qblk .sb3 (x (.v 1) (.v 2) .none .none 0)),
    (⟨3, 8, 2, true⟩, .movk 0x10C (x .none (.v 2) .none .none 0))].all
      (fun p => p.2.wf && !p.2.inLimits p.1) = true := by decide +kernel

/-- Reserved words: an unassigned operation, class 0xF, RSV not zero, a reserved operand code, an unused field, and a
reserved rounding code (R188, R191, R192). -/
theorem test_decode_refuses : [
    (0x0FF00000_00000000_00000000_00007026 : BitVec 128),
    0x0FF00000_00000000_00000000_00007F00,
    0x0FF00001_00000000_00000000_00007000,
    0x0FF00000_00000000_00000004_A0047001,
    0x0FF00000_00000000_00000000_00017000,
    0x0FF00000_00000000_1A000080_18047100].all (fun w => decode w == none) = true := by decide +kernel

/-! ### Single steps -/

/-- A lane with some registers. -/
def laneOf (r : SMap Word) : Lane := { (default : Lane) with pc := 0x1000, v := r, wt := 100 }
/-- A bundle with live lanes 0 to n - 1. -/
def bundleOf (n : Nat) (r : Nat → SMap Word) : Bundle :=
  { (default : Bundle) with live := maskOf (List.range n), lanes := (List.range n).map fun l => (l, laneOf (r l)) }
/-- A crew of the gang class with one bundle, 64 registers and 8 KiB of scratchpad. -/
def crewOf (y : Bundle) : Crew :=
  { (default : Crew) with ver := 3, nreg := 64, slines := 64, ntiles := 8, nacc := 4, nbundles := 1, bundles := [(0, y)] }
/-- The page of 64 KiB at 0x10000, cached, ordered RC, readable and writable. -/
def page : Tlb :=
  { asid := 0, va := 0x10000, large := false, pa := 0x10000, ord := .rc, user := true, writable := true, far := false,
    cmp := false, acct := 0, origin := none }
/-- The crew in slot 0 of core 0, with a course of some lanes at 0x1000. -/
def onCore (k : Crew) (mask : Word) : State :=
  { State.reset with
    cores := put State.reset.cores 0 { (default : Core) with crews := [(0, k)], tlb := [page] },
    cur := ⟨0, 0, 0, mask, 0x1000, 0, false⟩ }
/-- Four live lanes, all in the course. -/
def four (r : Nat → SMap Word) : State := onCore (crewOf (bundleOf 4 r)) 0xF
/-- One lane of four in the course. -/
def one (r : SMap Word) : State := onCore (crewOf (bundleOf 4 fun _ => r)) 1

def after (i : Instr) (s : State) : State :=
  match exec i s with
  | .next t => t
  | _ => s
/-- Register n of a lane after an instruction. -/
def reg (i : Instr) (s : State) (l n : Nat) : Word := ((after i s).lane s.ref l).v1 n
def prd (i : Instr) (s : State) (l : Nat) (p : Fin 8) : Bool := ((after i s).lane s.ref l).pred p

def va : Opnd := .v 1
def ab (d a b : Opnd) : Args := x d a b .none 0

/-- R222, its example. -/
theorem test_bfx : reg (.bfx .s32 (ab (.v 3) (.v 1) (.v 2))) (one [(1, 0x4020), (2, 0x0A05)]) 0 3 = 0xFFFFFE01 := by
  decide +kernel
theorem test_bfi : reg (.bfi (x (.v 3) (.v 1) (.v 2) .zero 0)) (one [(1, 0x3FF), (2, 0x0A05)]) 0 3 = 0x7FE0 := by
  decide +kernel
/-- R220, its example: index 10 of a stream of three-bit indices. -/
theorem test_funnel : reg (.funnel (x (.v 3) (.v 1) (.v 2) .imm 30)) (one [(1, 0x40000000), (2, 1)]) 0 3 = 5 := by
  decide +kernel
/-- R220: a count of 32 shifts every bit out, and `SHRA` leaves the sign. -/
theorem test_shl_by_width : reg (.shl .b32 (x (.v 3) (.v 1) .imm .none 32)) (one [(1, 0xFFFFFFFF)]) 0 3 = 0 := by
  decide +kernel
theorem test_shra_by_width : reg (.shra .s32 (x (.v 3) (.v 1) .imm .none 32)) (one [(1, 0x80000000)]) 0 3 = 0xFFFFFFFF := by
  decide +kernel
/-- R217: 2^64 - 1 plus 1 with no carry in is 0, with the carry out in p3. -/
theorem test_iaddc_carry :
    let s := one [(2, 0xFFFFFFFF), (3, 0xFFFFFFFF), (4, 1), (5, 0)]
    let i := Instr.iaddc .b64 (x (.v 6) (.v 2) (.v 4) (.p 3) 0)
    reg i s 0 6 = 0 ∧ reg i s 0 7 = 0 ∧ prd i s 0 3 = true := by decide +kernel
/-- R57. -/
theorem test_idiv_by_zero : reg (.idiv .s32 (ab (.v 3) (.v 1) .zero)) (one [(1, 7)]) 0 3 = 0xFFFFFFFF := by decide +kernel
theorem test_irem_sign : reg (.irem .s32 (ab (.v 3) (.v 1) (.v 2))) (one [(1, 0xFFFFFFF9), (2, 2)]) 0 3 = 0xFFFFFFFF := by
  decide +kernel
/-- R216: -1 times -1 has high half 0 as signed numbers and 0xFFFFFFFE as unsigned ones. -/
theorem test_imulh : reg (.imulh .s32 (ab (.v 3) (.v 1) (.v 1))) (one [(1, 0xFFFFFFFF)]) 0 3 = 0 ∧
    reg (.imulh .n32 (ab (.v 3) (.v 1) (.v 1))) (one [(1, 0xFFFFFFFF)]) 0 3 = 0xFFFFFFFE := by decide +kernel
/-- R223: a negative index. -/
theorem test_lea :
    let s := one [(2, 0x1000), (3, 1), (4, 0xFFFFFFFF)]
    let i := Instr.lea 3 .s32 (ab (.v 6) (.v 2) (.v 4))
    reg i s 0 6 = 0xFF8 ∧ reg i s 0 7 = 1 := by decide +kernel
/-- R224: 0xE8 is the majority of three; p7 reads 1. -/
theorem test_plop : prd (.plop 0xE8 (x (.p 1) (.p 2) (.p 7) (.p 7) 0)) (one []) 0 1 = true ∧
    prd (.plop 0xE8 (x (.p 1) (.p 2) (.p 7) .zero 0)) (one []) 0 1 = false := by decide +kernel
/-- R225: bit 7 is always 1. -/
theorem test_pmov_pack : reg (.pmovPack (x (.v 3) .none .none .none 0)) (one []) 0 3 = 0x80 := by decide +kernel
/-- R21: LANE is affine, and a copy of it keeps that tag. -/
theorem test_mov_keeps_tag :
    let s := after (.mov .b32 (x (.v 3) (.special .lane) .none .none 0)) (four fun _ => [])
    (s.bundle s.ref).tag 3 0 = .affine ∧ reg (.gettag (x (.v 4) (.v 3) .none .none 0)) s 2 4 = 1 := by decide +kernel
/-- R189: a crew register takes the highest-numbered lane's value. -/
theorem test_crew_destination :
    (after (.mov .b32 (x (.c 2) (.special .lane) .none .none 0)) (four fun _ => [])).curCrew.c1 2 = 3 := by decide +kernel

/-- 1.0 + 2.0 = 3.0, and 1.0 + 2^-24 is a tie that goes to the even 1.0 and raises NX (R58, R63). -/
theorem test_fadd : reg (.fadd .rn .f32 (ab (.v 3) (.v 1) (.v 2))) (one [(1, 0x3F800000), (2, 0x40000000)]) 0 3 = 0x40400000 := by
  decide +kernel
theorem test_fadd_tie :
    let s := one [(1, 0x3F800000), (2, 0x33800000)]
    let t := after (.fadd .rn .f32 (ab (.v 3) (.v 1) (.v 2))) s
    (t.lane s.ref 0).v1 3 = 0x3F800000 ∧ (t.bundle s.ref).fstat.getLsbD 0 = true := by decide +kernel
/-- One rounding: (1 + 2^-12)^2 - (1 + 2^-11) is 2^-24. -/
theorem test_ffma : reg (.ffma .rn .f32 (x (.v 4) (.v 1) (.v 1) (.v 2) 0)) (one [(1, 0x3F800800), (2, 0xBF801000)]) 0 4 =
    0x33800000 := by decide +kernel
/-- -0 is below +0 (R62), equal to it (R230), and class 5 (R231). -/
theorem test_fmin_zero : reg (.fmin .f32 (ab (.v 3) (.v 1) (.v 2))) (one [(1, 0), (2, 0x80000000)]) 0 3 = 0x80000000 := by
  decide +kernel
theorem test_fcmp_zero : prd (.fcmp .eq .f32 (ab (.p 1) (.v 1) (.v 2))) (one [(1, 0), (2, 0x80000000)]) 0 1 = true := by
  decide +kernel
theorem test_fclass : reg (.fclass (x (.v 3) (.v 1) .none .none 0)) (one [(1, 0x80000000)]) 0 3 = 0x20 := by decide +kernel
/-- 2.5 toward zero is 2; 65520 is halfway to 2^16 and goes to infinity in FP16. -/
theorem test_cvt_int : reg (.cvt .rz .s32 .f32 (x (.v 3) (.v 1) .none .none 0)) (one [(1, 0x40200000)]) 0 3 = 2 := by
  decide +kernel
theorem test_cvt_f16 : reg (.cvt .rn .f16 .f32 (x (.v 3) (.v 1) .none .none 0)) (one [(1, 0x477FF000)]) 0 3 = 0x7C00 := by
  decide +kernel
/-- 1/2 is exact. -/
theorem test_rcp : reg (.rcp (x (.v 3) (.v 1) .none .none 0)) (one [(1, 0x40000000)]) 0 3 = 0x3F000000 := by decide +kernel
/-- R74, its example. -/
theorem test_seedflip : reg (.seedflip (ab (.v 3) (.v 1) .zero)) (one [(1, 1)]) 0 3 = 0xFDDE := by decide +kernel
/-- Table 03-6: the block of 3.0, -2.5, 0.25, 0.2 and twelve zeros is 80 FE 4C 0B 01 00 00 00 00 00 00 00. -/
theorem test_qblk :
    let s := onCore (crewOf (bundleOf 16 fun l => [(1, [0x40400000, 0xC0200000, 0x3E800000, 0x3E4CCCCD].getD l 0)])) 0xFFFF
    let i := Instr.qblk .sb5 (x (.v 3) (.v 1) .none .none 0)
    reg i s 0 3 = 0x0B4CFE80 ∧ reg i s 1 3 = 1 ∧ reg i s 2 3 = 0 := by decide +kernel
/-- R75: 1.0 at e = 0 gives sixteen outputs of 0.25. -/
theorem test_had16 :
    let s := onCore (crewOf (bundleOf 16 fun l => [(1, if l = 0 then 0x3F800000 else 0)])) 0xFFFF
    let i := Instr.had16 (ab (.v 3) (.v 1) .zero)
    reg i s 0 3 = 0x3E800000 ∧ reg i s 15 3 = 0x3E800000 := by decide +kernel

/-- The course of Table 14-8: lanes 0 to 7, with the guard false in lanes 2 and 5. -/
def eight : State := onCore (crewOf (bundleOf 8 fun l => [(5, [3, 1, 4, 1, 5, 9, 2, 6].getD l 0)])) 0xFF
def eightOn : State := eight.mapLanes eight.ref [2, 5] fun _ z => { z with p := 2 }
def guarded (d a b : Opnd) (lit : Word) : Args := { x d a b .none lit with guard := ⟨1, true⟩ }
/-- Table 14-8. -/
theorem test_ballot : reg (.ballot (guarded (.v 8) (.v 5) .none 0)) eightOn 0 8 = 0xDB ∧
    reg (.ballot (guarded (.v 8) (.v 5) .none 0)) eightOn 2 8 = 0 := by decide +kernel
theorem test_redb : reg (.redb .add .s32 (guarded (.v 8) (.v 5) .none 0)) eightOn 6 8 = 18 := by decide +kernel
theorem test_scanb : ([0, 1, 3, 4, 6, 7].map (reg (.scanb .add .s32 false (guarded (.v 8) (.v 5) .none 0)) eightOn · 8)) =
    [3, 4, 5, 10, 12, 18] := by decide +kernel
theorem test_scanb_exc : ([0, 1, 3, 4, 6, 7].map (reg (.scanb .add .s32 true (guarded (.v 8) (.v 5) .none 0)) eightOn · 8)) =
    [0, 3, 4, 5, 10, 12] := by decide +kernel
theorem test_shfl : ([0, 1, 3, 4, 6, 7].map (reg (.shfl .xor .b32 (guarded (.v 8) (.v 5) .imm 1)) eightOn · 8)) =
    [1, 3, 1, 5, 6, 2] := by decide +kernel
theorem test_vote : prd (.vote .uni (guarded (.p 2) (.v 5) .none 0)) eightOn 0 2 = false := by decide +kernel

/-- R243: the displacement is signed. -/
theorem test_bra : ((after (.bra 0xFFFFFFB0 (x .none .none .none .none 0)) (one [])).lane ⟨0, 0, 0⟩ 0).pc = 0xFB0 := by
  decide +kernel
/-- R245: the return slot of depth 0 of lane 1 of bundle 0 lies at 8192 - 256 + 8. -/
theorem test_call :
    let t := after (.call 0x40 (x .none .none .none .none 0)) (onCore (crewOf (bundleOf 4 fun _ => [])) 2)
    t.curCrew.scratch.readNat (8192 - 256 + 8) 8 = 0x1010 ∧ (t.lane ⟨0, 0, 0⟩ 1).cd = 1 ∧ (t.lane ⟨0, 0, 0⟩ 1).pc = 0x1040 := by
  decide +kernel
/-- R246: a return at depth 0 traps STACK with 2. -/
theorem test_ret_empty : ((after (.ret (x .none .none .none .none 0)) (one [])).bundle ⟨0, 0, 0⟩).stopped =
    some ⟨0x1000, 1, 1, ⟨0x12, 2, 0, 0, 0⟩⟩ := by decide +kernel
/-- R131: the weight of a lane that exits goes to its bundle's sums. -/
theorem test_exit : findD ((after (.exitL (x .none .none .none .none 0)) (one [])).bundle ⟨0, 0, 0⟩).rsums 0 0 = 100 := by
  decide +kernel

/-- Little-endian bytes of the own allocation, sign-extended below 32 bits (R250). -/
theorem test_lds :
    let s := one [(1, 0x10)]
    let s := s.setCrew 0 0 { s.curCrew with scratch := s.curCrew.scratch.writeNat 0x10 4 0x8180FF7F }
    let t := after (.lds .s16 ⟨.rlx, .lane⟩ 2 (x (.v 3) (.v 1) .none .none 0)) s
    reg (.loadResultReturn 0 0) t 0 3 = 0xFFFF8180 := by decide +kernel
/-- Table 14-5: of two lanes that store to one word, the higher-numbered one's part is the later one (R251). -/
theorem test_sts_order :
    let t := after (.sts .b32 ⟨.rlx, .lane⟩ 0 (x .none (.v 4) (.v 6) .none 0))
      (onCore (crewOf (bundleOf 2 fun l => [(4, 0x40), (6, BitVec.ofNat 32 (l + 1))])) 3)
    (t.core 0).pend.map (fun p => p.parts.map fun a => (a.lane, leNat a.data)) = [[(0, 1), (1, 2)]] := by decide +kernel
/-- The word of Table 14-5, which holds 10. -/
def word10 : State :=
  let s := onCore (crewOf (bundleOf 2 fun l => [(4, 0x40), (6, BitVec.ofNat 32 (l + 1)), (7, 10)])) 3
  s.setCrew 0 0 { s.curCrew with scratch := s.curCrew.scratch.writeNat 0x40 4 10 }
theorem test_atoms :
    let i := Instr.atoms .add .s32 ⟨.rlx, .lane⟩ 0 (x (.v 5) (.v 4) (.v 6) .none 0)
    reg i word10 0 5 = 10 ∧ reg i word10 1 5 = 11 ∧ (after i word10).curCrew.scratch.readNat 0x40 4 = 13 := by decide +kernel
theorem test_cass :
    let i := Instr.cass .b32 ⟨.rlx, .lane⟩ 0 (x (.v 5) (.v 4) (.v 7) (.v 6) 0)
    reg i word10 0 5 = 10 ∧ reg i word10 1 5 = 1 ∧ (after i word10).curCrew.scratch.readNat 0x40 4 = 1 := by decide +kernel
/-- R256: sixteen codes of lines, 0b11 beyond the allocation of 64. -/
theorem test_lineq : reg (.lineq 0 (x (.v 3) (.v 1) .none .none 0)) (one [(1, 63 * 128)]) 0 3 = 0xFFFFFFFD := by decide +kernel
/-- R255: two lines set empty, and the next one left full. -/
theorem test_lineset :
    let t := after (.lineset .empty 0 (x .none (.v 1) .imm .none 2)) (one [(1, 0x80)])
    [0, 1, 2, 3].map t.curCrew.line = [.full, .empty, .empty, .full] := by decide +kernel
/-- R88: an arrival that meets the expected count advances GEN and clears the counts. -/
theorem test_arrive :
    let s := one [(1, 0x40)]
    let s := s.setCrew 0 0 { s.curCrew with scratch := s.curCrew.scratch.writeNat 0x40 8 (1 * 2 ^ 16 + 7) }
    (after (.arrive (x .none (.v 1) .imm .none 1)) s).curCrew.scratch.readNat 0x40 8 = 8 := by decide +kernel
/-- A global store is outstanding until it is performed. -/
theorem test_stg :
    let s := one [(4, 0x10020), (5, 0), (6, 0xA1B2C3D4)]
    let t := after (.stg .b32 ⟨.rlx, .lane⟩ 0 (x .none (.v 4) (.v 6) .none 0)) s
    t.mem.readNat 0x10020 4 = 0 ∧ (after (.storePerformed 0 0) t).mem.readNat 0x10020 4 = 0xA1B2C3D4 := by decide +kernel
/-- R321: TINFO0 is the code. -/
theorem test_trap : ((after (.trap 5 (x .none .none .none .none 0)) (one [])).bundle ⟨0, 0, 0⟩).stopped.map (·.info) =
    some ⟨0x10, 5, 0, 0, 0⟩ := by decide +kernel
/-- R368: on a house core a trap goes on at TVEC with INH set. -/
theorem test_house_trap :
    let s := { State.reset with cur := ⟨768, 0, 0, 1, 0, 0, false⟩ }
    let t := after (.svc 9 (x .none .none .none .none 0)) (s.setHouse 768 { s.houseOf 768 with tvec := 0x2000 })
    (t.houseOf 768).tcause = 0x11 ∧ (t.houseOf 768).tinfo0 = 9 ∧ (t.houseOf 768).inh = true ∧ (t.lane s.ref 0).pc = 0x2000 := by
  decide +kernel
/-- R322: with no calendar, `SLOTQ` reads no slot. -/
theorem test_slotq : reg (.slotq (x (.v 4) .none .none .none 0)) (one []) 0 4 = 0xF00 ∧
    reg (.slotq (x (.v 4) .none .none .none 0)) (one []) 0 6 = 0x00400040 := by decide +kernel
/-- R310: weight moves from one lane to another of its bundle. -/
theorem test_splitw :
    let t := after (.splitw (x (.v 3) (.v 1) .imm .none 2)) (one [(1, 30)])
    (t.lane ⟨0, 0, 0⟩ 0).wt = 70 ∧ (t.lane ⟨0, 0, 0⟩ 2).wt = 130 := by decide +kernel
/-- Table 06-4, steps 8 and 9: a root grants the full 2^20 and adds it to T. -/
theorem test_borrow :
    let s := { State.reset with
      doms := [(7, { (default : Dom) with st := .opened, t := 67108864, h := 67108861 })],
      qmsgs := [⟨.borrow, 7, 1, ⟨0, 0, 0⟩, 0, false, []⟩] }
    (findD (after (.qdBorrow 0) s).doms 7 default).t = 68157440 ∧
      (findD (after (.qdBorrow 0) s).doms 7 default).h = 67108861 := by decide +kernel
/-- R76: the block of Table 03-6 with itself. -/
theorem test_block_dot : blockDot 0x010B4CFE80 4 0x010B4CFE80 4 = 0x41760000 := by decide +kernel

/-! ### Every statement's hypotheses are met: a state and operands for each (for each clause, where they differ) -/

/-- Operands of a lane form: v3 from v1, v2 and v5. -/
def lx : Args := x (.v 3) (.v 1) (.v 2) (.v 5) 0
def lp : Args := x (.p 1) (.v 1) (.v 2) (.v 5) 0
/-- Lanes with values in v1, v2 and v5. -/
def ls : State := four fun l => [(1, BitVec.ofNat 32 (l + 5)), (2, 3), (5, 1)]
/-- Lanes that hold one value in v1 and one in v2. -/
def lsv (a b : Word) : State := four fun _ => [(1, a), (2, b)]

/-- The hypotheses that the statements about lane forms share. -/
theorem witness_lane_forms : noPorts lx = true ∧ ls.gangClass = true ∧ lx.d = .v 3 ∧ ls.act lx = [0, 1, 2, 3] := by
  decide +kernel
theorem witness_LaneFormsCompleteAndFrame : laneForm (.iadd .b32 lx) = true ∧ (Instr.iadd .b32 lx).args = some lx ∧
    noPorts lx = true ∧ ls.gangClass = true ∧ (∀ n, lx.d ≠ .c n) ∧ ls.cur.again = false ∧ 3 ∉ (one []).lanes ∧
    vDst (.iadd .b32 lx) lx 4 = false ∧ pDst (.iadd .b32 lx) lx 1 = false := by decide +kernel
/-- The same lanes in a crew of the queued class. -/
def queuedLs : State := ls.setCrew 0 0 { ls.curCrew with queued := true }
/-- The same beside a crew that takes all of its core's storage. -/
def fullCore : State := queuedLs.setCrew 0 1 { ls.curCrew with queued := false, nreg := 64, nbundles := 64 }
theorem witness_LaneFormsCompleteAndFrame_queued :
    queuedLs.gangClass = false ∧ (queuedLs.core queuedLs.cur.core).rfUse + 1024 ≤ rfBytes ∧
      fullCore.gangClass = false ∧ fullCore.act lx ≠ [] ∧ Ty.b32.regs = 1 ∧
      (∀ k < 8, (fullCore.bundle fullCore.ref).tagOf 3 k = .uniform) ∧ rfBytes ≤ (fullCore.core fullCore.cur.core).rfUse := by
  decide +kernel
theorem witness_IntegerArithmetic : noPorts lx = true ∧ ls.gangClass = true ∧ lx.d = .v 3 ∧ Ty.b32.isInt = true ∧
    Ty.b32.regs = 1 ∧ Ty.s64.isInt = true ∧ Ty.s64.regs = 2 ∧ (x (.v 4) (.v 1) (.v 2) (.p 0) 0).c = .p 0 ∧
    (Instr.iadd .b32 lx).shape.map (fun sh => decide (sh.opc < 0x100)) = some true ∧ (Instr.iadd .b32 lx).args = some lx := by
  decide +kernel
theorem witness_IntegerComparisons : noPorts lp = true ∧ ls.gangClass = true ∧ lp.d = .p 1 ∧ (1 : Fin 8) ≠ 7 ∧
    Ty.n64.isInt = true ∧ Ty.n64.regs = 2 := by decide +kernel
theorem witness_LogicAndShiftForms : noPorts lx = true ∧ ls.gangClass = true ∧ lx.d = .v 3 ∧ Ty.b64.isInt = true ∧
    Ty.b64.regs = 2 ∧ Ty.b32.isInt = true ∧ Ty.b32.regs = 1 := by decide +kernel
theorem witness_BitForms : noPorts lx = true ∧ ls.gangClass = true ∧ lx.d = .v 3 ∧ Ty.b32.isInt = true ∧ Ty.b32.regs = 1 ∧
    Ty.b64.isInt = true ∧ Ty.b64.regs = 2 := by decide +kernel
theorem witness_PredicateAndTagForms : noPorts lp = true ∧ ls.gangClass = true ∧ lp.d = .p 1 ∧ lx.d = .v 3 ∧ lx.a = .v 1 ∧
    ls.act lx ≠ [] := by decide +kernel
theorem witness_OperandsAndDestinations :
    let y := x (.c 2) (.v 1) .none .none 0
    noPorts y = true ∧ ls.gangClass = true ∧ y.d = .c 2 ∧ Ty.b32.isInt = true ∧ Ty.b32.regs = 1 ∧
      (ls.act y).getLast? = some 3 ∧ ls.act { y with guard := ⟨7, true⟩ } = [] := by decide +kernel
theorem witness_FloatComparisons : noPorts lp = true ∧ ls.gangClass = true ∧ lp.d = .p 1 ∧ lx.d = .v 3 ∧
    (∃ u, exec (.fclass lx) ls = .next u) :=
  ⟨by decide +kernel, by decide +kernel, rfl, rfl, ⟨_, rfl⟩⟩
theorem witness_FloatNansAndFlags :
    (∀ l ∈ (lsv 0x7FC00000 0).act lx, isNan32 ((lsv 0x7FC00000 0).src32 lx l lx.a) = true) ∧
      ls.act { lx with guard := ⟨7, true⟩ } = [] ∧ (lsv 0x7F800000 0xFF800000).act lx ≠ [] ∧
      (∀ l ∈ (lsv 0x7F800000 0xFF800000).act lx, (lsv 0x7F800000 0xFF800000).src32 lx l lx.a = 0x7F800000 ∧
        (lsv 0x7F800000 0xFF800000).src32 lx l lx.b = 0xFF800000) := by decide +kernel
theorem witness_FloatNansAndFlags_pairs :
    (∀ l ∈ (lsv 0x3F807FC1 0).act lx, isNan32 ((lsv 0x3F807FC1 0).src32 lx l lx.a <<< 16) = true) ∧
      (∀ l ∈ (lsv 0x7FC13F80 0).act lx, isNan32 ((lsv 0x7FC13F80 0).src32 lx l lx.a &&& 0xFFFF0000) = true) ∧
      (let y := x (.v 3) (.v 1) (.v 2) (.v 1) 0
       noPorts y = true ∧ y.d = .v 3 ∧ ∀ l ∈ (lsv 0x7FC00000 0).act y, isNan32 ((lsv 0x7FC00000 0).src32 y l y.c) = true) := by
  decide +kernel
theorem witness_ConversionForms :
    let y := x (.v 4) (.v 1) .none .none 0
    noPorts y = true ∧ (lsv 0 0).gangClass = true ∧ y.d = .v 4 ∧
      (∀ l ∈ (lsv 0x7FC00000 0).act y, isNan32 ((lsv 0x7FC00000 0).src32 y l y.a) = true) ∧
      (∀ l ∈ (lsv 0x7F800000 0).act y, (lsv 0x7F800000 0).src32 y l y.a = 0x7F800000) ∧
      (∀ l ∈ (lsv 0xFF800000 0).act y, (lsv 0xFF800000 0).src32 y l y.a = 0xFF800000) ∧
      (∀ l ∈ (lsv 0x3F803F80 0).act y, isNan32 (((lsv 0x3F803F80 0).src32 y l y.a) <<< 16) = false ∧
        isNan32 ((lsv 0x3F803F80 0).src32 y l y.a) = false) ∧
      (∀ l ∈ (lsv 0x80000000 0).act y, (lsv 0x80000000 0).src32 y l y.a = 0x80000000) := by decide +kernel
theorem witness_ConversionForms_pack :
    let s := lsv 0x3F800000 0x40000000
    ∀ l ∈ s.act lx, (s.src32 lx l lx.a).setWidth 16 = 0#16 ∧ (s.src32 lx l lx.b).setWidth 16 = 0#16 ∧
      isNan32 (s.src32 lx l lx.a) = false ∧ isNan32 (s.src32 lx l lx.b) = false := by decide +kernel
/-- Every lane reads a through v1. -/
def reads (a : Word) : Bool := ((lsv a 0).act lx).all fun l => (lsv a 0).src32 lx l lx.a == a
theorem witness_SpecialFunctionInputs : noPorts lx = true ∧ (lsv 0 0).gangClass = true ∧ lx.d = .v 3 ∧
    reads 0xFF800000 = true ∧ reads 0x80000000 = true ∧ reads 0 = true ∧ reads 0x7F800000 = true ∧ reads 0x7FC00000 = true ∧
      isNan32 0x7FC00000 = true := by decide +kernel
theorem witness_BlockForms : noPorts lx = true ∧ ls.gangClass = true ∧ lx.d = .v 3 ∧ (3 : Nat) ∈ ls.act lx ∧
    (let s := lsv 0x7FC000FF 0
     16 * (3 / 16) ∈ s.act lx ∧ (s.src32 lx 0 lx.a).setWidth 8 = 0xFF#8 ∧ 1 ∈ s.act lx ∧ isNan32 (s.src32 lx 1 lx.a) = true) := by
  decide +kernel
theorem witness_CrossLaneForms : noPorts lx = true ∧ noPorts lp = true ∧ ls.gangClass = true ∧ lx.d = .v 3 ∧ lp.d = .p 1 ∧
    (ls.act lx).head? = some 0 := by decide +kernel
theorem witness_ReductionsAndScans : noPorts lx = true ∧ ls.gangClass = true ∧ lx.d = .v 3 ∧ ls.act lx = [0, 1, 2, 3] := by
  decide +kernel

/-- Something answers a value of which `p` holds. -/
def answered {ε α : Type} (r : Except ε α) (p : α → Bool) : Bool :=
  match r with
  | .ok a => p a
  | .error _ => false
/-- A state in which nothing has been written yet, where every reader knows the newest of every byte. -/
theorem knows {s : State} {b : BRef} {l n : Nat} {cs : List Nat} (h : s.vers = []) : s.knowsNewest b l n cs := by
  intro c _ e he
  rw [h] at he
  cases he

/-! ### Control -/

/-- Lanes whose pair v4:v5 holds a branch target. -/
def targets (f : Nat → Word) (mask : Word) : State := onCore (crewOf (bundleOf 4 fun l => [(4, f l)])) mask
def bx : Args := x .none (.v 4) .none .none 0
/-- A lane that has made n calls; its return slots hold multiples of 16. -/
def called (n : Nat) : State :=
  let s := one [(4, 0x2000)]
  s.mapLanes s.ref [0] fun _ z => { z with cd := n }

theorem witness_BranchesAndCalls_goes :
    let s := targets (fun _ => 0x2000) 0xF
    (∀ l ∈ s.lanes, s.src64 bx false l bx.a = 0x2000) ∧ (0x2000#64).toNat % 16 = 0 ∧
      (∀ l ∈ s.act bx, (s.src64 bx false l bx.a).toNat % 16 = 0) := by decide +kernel
theorem witness_BranchesAndCalls_traps :
    let s := targets (fun _ => 0x2008) 1
    let u := targets (fun l => BitVec.ofNat 32 (0x2000 + 16 * l)) 0xF
    s.fresh ∧ u.fresh ∧ s.act bx = [0] ∧ (s.act bx).head? = some 0 ∧
      (s.src64 bx false 0 bx.a).toNat % 16 ≠ 0 ∧ (u.act bx).head? = some 0 ∧ 1 ∈ u.act bx ∧
      u.src64 bx false 1 bx.a ≠ u.src64 bx false 0 bx.a := by
  unfold State.fresh
  decide +kernel
theorem witness_BranchesAndCalls_calls :
    let s := called 1
    let k := s.curCrew
    s.cur.again = false ∧ (s.lane s.ref 0).cd < 64 ∧ 256 * k.nbundles * ((s.lane s.ref 0).cd + 1) ≤ k.slines * 128 ∧
      (∀ d ∈ [0, 1], ∀ n ∈ linesTouched (k.slines * 128 - 256 * k.nbundles * (d + 1) + 8 * (32 * s.cur.bundle + 0)) 8,
        s.line s.cur.core s.cur.slot n = .full) ∧
      (∀ l ∈ s.act bx, (s.src64 bx false l bx.a).toNat % 16 = 0) ∧ 0 < (s.lane s.ref 0).cd ∧
      (s.scr s.cur.core s.cur.slot).readNat (k.slines * 128 - 256 * k.nbundles) 8 % 16 = 0 ∧ s.act bx = [0] ∧
      ((called 64).lane s.ref 0).cd = 64 ∧ ((called 0).lane s.ref 0).cd = 0 := by decide +kernel

def cx : Args := x .none .none .none .none 0
/-- Lane 0 of a bundle sleeps. -/
def asleep : State :=
  let s := one []
  s.setBundle s.ref { s.bundle s.ref with parked := [⟨0x1000, [(0, .sleep 5)], 15, 15, false, false, false⟩] }
theorem witness_JoinExitAndSleep :
    let s := ls
    let u := one []
    s.cur.again = false ∧ (s.bundle s.ref).parked = [] ∧ s.act cx = lanesOf (s.bundle s.ref).live ∧ s.act cx ≠ [] ∧
      3 ∈ lanesOf (u.bundle u.ref).live ∧ 3 ∉ u.act cx ∧ (u.bundle u.ref).parked = [] ∧ (u.core u.cur.core).pend = [] ∧
      u.curCrew.barriers = [] ∧ u.curCrew.gang = none ∧ u.act cx = [0] := by decide +kernel
theorem witness_JoinExitAndSleep_expire :
    let s := asleep
    s.hasBundle ⟨0, 0, 0⟩ = true ∧ (s.bundle ⟨0, 0, 0⟩).parked = [⟨0x1000, [(0, .sleep 5)], 15, 15, false, false, false⟩] ∧
      (s.core 0).cyc < 5 ∧ 5 ≤ ((s.setCore 0 { s.core 0 with cyc := 5 }).core 0).cyc := by decide +kernel

/-! ### Memory -/

/-- A lane whose pair v4:v5 holds an address of the cached page, with v6 = 0xA1B2C3D4. -/
def atPage : State := one [(4, 0x10020), (6, 0xA1B2C3D4)]
def ldx : Args := x (.v 8) (.v 4) (.v 6) .none 0
theorem witness_xlate_read : atPage.xlateAll ⟨0, 0, 0⟩ .read [(0, 0x10020, 4)] =
    .ok [(0, ⟨[0x10020, 0x10021, 0x10022, 0x10023], [page], 0x10020⟩)] := by rfl
theorem witness_xlate_write : atPage.xlateAll ⟨0, 0, 0⟩ .write [(0, 0x10020, 4)] =
    .ok [(0, ⟨[0x10020, 0x10021, 0x10022, 0x10023], [page], 0x10020⟩)] := by rfl
theorem witness_xlate_atomic : atPage.xlateAll ⟨0, 0, 0⟩ .atomic [(0, 0x10020, 4)] =
    .ok [(0, ⟨[0x10020, 0x10021, 0x10022, 0x10023], [page], 0x10020⟩)] := by rfl
theorem witness_GlobalLoads_issue :
    let s := atPage
    noPorts ldx = true ∧ s.gangClass = true ∧ s.act ldx ≠ [] ∧ s.ref = ⟨0, 0, 0⟩ ∧
      (s.act ldx).map (fun l => (l, (s.src64 ldx false l ldx.a).toNat, 4)) = [(0, 0x10020, 4)] ∧ page.ord ≠ .so ∧
      ldx.d = .v 8 := by decide +kernel
/-- A part of n bytes at 0x10020, of lane 0. -/
def part (n : Nat) (data : List Byte) : Part :=
  ⟨0, 0, (List.range n).map fun i => 0x10020 + i, data, 0x10020, n, .rc, false, none, none, 0, none⟩
/-- An instruction of lane 0 that is outstanding with one part, its destination v8. -/
def pending (k : PKind) (a : Part) : Pend := ⟨0, ⟨0, 0, 0⟩, k, [a], .v 8, 15, 0, [], []⟩
def withPend (p : Pend) : State := atPage.setCore 0 { atPage.core 0 with pend := [p] }
def loading : Pend := pending (.load false 1) (part 4 [])
theorem witness_GlobalLoads_return :
    let s := withPend loading
    lastPart s 0 loading (part 4 []) [] ∧ s.knowsNewest ⟨0, 0, 0⟩ 0 0 (part 4 []).cells ∧ s.hasBundle ⟨0, 0, 0⟩ = true ∧
      loading.got = [] ∧ loading.dst = .v 8 ∧ loading.kind = .load false 1 ∧ (s.crew 0 0).barriers = [] ∧
      (part 4 []).cells.length = 4 :=
  ⟨⟨rfl, rfl, rfl, rfl, by decide +kernel, by decide +kernel, by simp⟩, knows rfl, by decide +kernel⟩
theorem witness_GlobalStores_issue :
    let s := atPage
    let y := x .none (.v 4) (.v 6) .none 0
    noPorts y = true ∧ s.gangClass = true ∧ s.act y ≠ [] ∧ s.pageAt 0x10020 = none ∧ y.b = .v 6 := by decide +kernel
theorem witness_GlobalStores_performed :
    let a := part 2 [7, 8]
    lastPart (withPend (pending .store a)) 0 (pending .store a) a [] ∧ a.scr = none ∧
      a.cells = ((List.range a.data.length).map fun i => 0x10020 + i) :=
  ⟨⟨rfl, rfl, rfl, rfl, by decide +kernel, by decide +kernel, by simp⟩, rfl, rfl⟩
/-- A lane whose v1 holds an offset of its own allocation, of 64 lines. -/
def atScr (off : Word) : State := one [(1, off), (6, 3)]
def sx' : Args := x (.v 8) (.v 1) (.v 6) .none 0
theorem witness_ScratchpadAccesses :
    let s := atScr 0x40
    noPorts sx' = true ∧ s.gangClass = true ∧ sx'.d = .v 8 ∧ ownFull s sx' 64 (fun l => s.src32 sx' l sx'.a) ∧ s.act sx' = [0] ∧
      s.hasCrew s.cur.core s.cur.slot = true ∧ sx'.b = .v 6 ∧
      (∀ j ∈ linesTouched 0x40 64, s.curCrew.line j ≠ .poisoned) ∧ (s.src32 sx' 0 sx'.a).toNat + 64 ≤ s.curCrew.slines * 128 := by
  unfold ownFull
  decide +kernel
/-- A part of four bytes at 0x40 of the own allocation. -/
def spart (data : List Byte) : Part := ⟨0, 0, (List.range 4).map (2 ^ 64 + 0x40 + ·), data, 0, 4, .rc, false, none, none, 0, some (0, 0, 0x40)⟩
theorem witness_ScratchpadAccesses_performed :
    let p := pending (.load false 1) (spart [])
    let q := pending .store (spart [1, 2, 3, 4])
    let s := withPend p
    lastPart s 0 p (spart []) [] ∧ s.knowsNewest ⟨0, 0, 0⟩ 0 0 (spart []).cells ∧
      lastPart (withPend q) 0 q (spart [1, 2, 3, 4]) [] ∧ s.hasBundle ⟨0, 0, 0⟩ = true ∧ p.got = [] ∧ p.dst = .v 8 ∧
      (s.crew 0 0).barriers = [] ∧ (spart []).cells = (List.range 4).map fun i => s.scrCell 0 0 (0x40 + i) :=
  ⟨⟨rfl, rfl, rfl, rfl, by decide +kernel, by decide +kernel, by simp⟩, knows rfl,
    ⟨rfl, rfl, rfl, rfl, by decide +kernel, by decide +kernel, by simp⟩, by decide +kernel⟩
/-- Line 2 poisoned. -/
def poisoned2 : State := let s := atScr 0x100; s.setLine 0 0 2 .poisoned
theorem witness_ScratchpadAccesses_traps :
    let s := atScr 8190
    let u := poisoned2
    s.fresh ∧ u.fresh ∧ u.act sx' = [0] ∧ s.act sx' = [0] ∧
      s.curCrew.slines * 128 < (s.src32 sx' 0 sx'.a).toNat + 4 ∧ (s.src32 sx' 0 sx'.a).toNat < 2 ^ 20 ∧
      (u.src32 sx' 0 sx'.a).toNat + 1 ≤ u.curCrew.slines * 128 ∧ u.line 0 0 ((u.src32 sx' 0 sx'.a).toNat / 128) = .poisoned := by
  unfold State.fresh
  decide +kernel
theorem witness_LineStatesAndCacheControl :
    let s := atScr 0x1F80
    noPorts sx' = true ∧ s.gangClass = true ∧ s.act sx' = [0] ∧ s.hasCrew s.cur.core s.cur.slot = true ∧
      (s.src32 sx' 0 sx'.a).toNat < s.curCrew.slines * 128 ∧ (s.src32 sx' 0 sx'.a).toNat < 2 ^ 20 ∧
      ((atScr 0x80).src32 sx' 0 sx'.a).toNat / 128 + ((atScr 0x80).src32 sx' 0 sx'.b).toNat ≤ s.curCrew.slines ∧
      (s.core s.cur.core).pend = [] ∧ LineSt.empty ≠ .full ∧ sx'.d = .v 8 := by decide +kernel

/-! ### Atomics and synchronisation -/

/-- Every lane of four names one word of the own allocation. -/
def sharedWord : State := four fun l => [(1, 0x40), (6, BitVec.ofNat 32 (l + 1))]
theorem witness_ScratchpadAtomics :
    let s := sharedWord
    noPorts sx' = true ∧ s.gangClass = true ∧ s.curCrew.det = false ∧ s.act sx' = [0, 1, 2, 3] ∧ sx'.d = .v 8 ∧
      s.hasCrew s.cur.core s.cur.slot = true ∧ (s.core s.cur.core).pend = [] ∧ ∀ l ∈ s.act sx',
        (s.src32 sx' l sx'.a).toNat = 0x40 ∧ 0x40 % 8 = 0 ∧ 0x40 + 8 ≤ s.curCrew.slines * 128 ∧ s.curCrew.line (0x40 / 128) = .full := by
  decide +kernel
theorem witness_GlobalAtomics :
    let s := atPage
    noPorts ldx = true ∧ s.gangClass = true ∧ s.curCrew.det = false ∧ s.act ldx = [0] ∧ ldx.d = .v 8 ∧ s.refetch = [] ∧
      (s.core s.cur.core).pend = [] ∧
      (∀ c ∈ (List.range 8).map fun i => 0x10020 + i, c < 2 ^ 53 ∧ s.cellPoison c = false) ∧
      (s.src64 ldx true 0 ldx.a).toNat % 8 = 0 ∧ (s.src64 ldx true 0 ldx.a).toNat = 0x10020 ∧
      s.pageAt 0x10020 = none := by decide +kernel
theorem witness_GlobalAtomics_xlate : atPage.xlateAll ⟨0, 0, 0⟩ .atomic [(0, 0x10020, 8)] =
    .ok [(0, ⟨[0x10020, 0x10021, 0x10022, 0x10023, 0x10024, 0x10025, 0x10026, 0x10027], [page], 0x10020⟩)] := rfl
theorem witness_GlobalAtomics_redg :
    let a := part 4 (leBytes 5 4)
    let p := pending (.redg .add .b32) a
    lastPart (withPend p) 0 p a [] ∧ a.scr = none ∧ a.cells = [0x10020, 0x10021, 0x10022, 0x10023] ∧
      a.data = leBytes (5#32).toNat 4 ∧ (∀ c ∈ a.cells, c < 2 ^ 53) :=
  ⟨⟨rfl, rfl, rfl, rfl, by decide +kernel, by decide +kernel, by simp⟩, by decide +kernel⟩
theorem witness_DeterministicLaunchTraps :
    let s := onCore { crewOf (bundleOf 4 fun _ => []) with det := true } 0xF
    s.curCrew.det = true ∧ s.act lx ≠ [] ∧ s.fresh := by
  unfold State.fresh
  decide +kernel
/-- A command of the matrix queue. -/
def zeroing : Cmd := ⟨9, ⟨0, 0, 0⟩, 15, [], false, false, none, 0, false, [], [], .mat (.tzero 1)⟩
theorem witness_Fences :
    let s := (one []).setCore 0 { (one []).core 0 with queues := [(4, [.cmd zeroing])] }
    let y := x .none .imm .none .none 16
    (x .none .imm .none .none 0).lit = 0 ∧ s.act y ≠ [] ∧ y.lit = 1#32 <<< (4 : Fin 7).val ∧
      (s.core s.cur.core).queues = [((4 : Fin 7).val, [.cmd zeroing])] ∧ (4 : Fin 7) ≠ 6 ∧
      (∀ b ∈ s.bundlesOf s.cur.core, (s.bundle b).ports = []) := by decide +kernel
theorem witness_CrewBarriers :
    let y := x (.v 8) (.v 1) .zero .none 0
    let s := ls
    let u := one []
    noPorts y = true ∧ s.gangClass = true ∧ s.cur.again = false ∧ y.b = .zero ∧ (s.core s.cur.core).pend = [] ∧
      s.curCrew.barriers = [] ∧ (s.bundle s.ref).parked = [] ∧ s.curCrew.bundles = [(s.cur.bundle, s.bundle s.ref)] ∧
      s.hasBundle s.ref = true ∧ s.act y ≠ [] ∧ s.act y = lanesOf (s.bundle s.ref).live ∧ y.d = .v 8 ∧
      u.curCrew.bundles = [(u.cur.bundle, u.bundle u.ref)] ∧ u.act y ≠ [] ∧ 3 ∈ lanesOf (u.bundle u.ref).live ∧ 3 ∉ u.act y := by
  decide +kernel
/-- R101: two fences of a lane keep each other's place. -/
theorem witness_Fences_order :
    let f : Part := { part 0 [] with acq := some .dev, rel := some .dev }
    f.acq.isSome = true ∧ f.rel.isSome = true ∧ f.ord = .rc ∧ (part 1 []).ord ≠ .un ∧ (part 1 []).lane = f.lane := by
  decide +kernel
/-- A receipt word at 0x40 with arrivals a, expectation e and generation g. -/
def receipt (a e g : Nat) (n : Word) : State :=
  let s := one [(1, 0x40), (2, n)]
  s.setCrew 0 0 { s.curCrew with scratch := s.curCrew.scratch.writeNat 0x40 8 (a * 2 ^ 40 + e * 2 ^ 16 + g) }
def rx : Args := x .none (.v 1) (.v 2) .none 0
theorem witness_ReceiptWords : ∀ e ∈ [3, 2 ^ 24 - 1],
    let s := receipt 2 e 7 1
    noPorts rx = true ∧ s.act rx = [0] ∧ s.hasCrew s.cur.core s.cur.slot = true ∧ (s.core s.cur.core).pend = [] ∧
      (s.src32 rx 0 rx.a).toNat = 0x40 ∧ 0x40 + 8 ≤ s.curCrew.slines * 128 ∧ s.curCrew.line (0x40 / 128) = .full ∧
      s.curCrew.scratch.readNat 0x40 8 = 2 * 2 ^ 40 + e * 2 ^ 16 + 7 ∧ 0 < (s.src32 rx 0 rx.b).toNat ∧ s.fresh ∧
      (s.bundle s.ref).parked = [] := by
  unfold State.fresh
  decide +kernel
theorem witness_ReceiptWords_waits :
    (receipt 0 0 7 7).curCrew.scratch.readNat 0x40 8 % 2 ^ 16 = (((receipt 0 0 7 7).src32 rx 0 rx.b).setWidth 16).toNat ∧
      (receipt 0 0 7 6).curCrew.scratch.readNat 0x40 8 % 2 ^ 16 ≠ (((receipt 0 0 7 6).src32 rx 0 rx.b).setWidth 16).toNat := by
  decide +kernel

/-! ### Ports and matrix -/

/-- A descriptor of 4-byte elements: 40 in a row from a base, by target and direction (Table 07-2). -/
def descr (target dir base : Nat) : BitVec 512 :=
  BitVec.ofNat 512 (4 * 2 ^ 256 + base * 2 ^ 192 + 2 ^ 160 + 2 ^ 128 + 2 ^ 96 + 2 ^ 64 + 40 * 2 ^ 32 + 2 * 2 ^ 7 + target * 2 ^ 4 + dir * 2 ^ 3)
def bound (d : BitVec 512) : Port := { (default : Port) with bound := true, desc := d }
/-- A read port with its first elements in the buffer, and a write port to the scratchpad. -/
def readPort : Port := { bound (descr 0 0 0x10020) with buf := [(0, .data [1, 0, 0, 0]), (1, .data [2, 0, 0, 0])] }
def writePort : Port := bound (descr 1 1 0x40)
def endPort : Port := { readPort with pos := 40 }
def withPort (q : Port) (r : SMap Word) : State := let s := one r; s.setPort s.ref 2 q
def px : Args := x (.v 8) (.q 2) (.v 6) .none 0

theorem witness_PortControls :
    let s := withPort readPort [(6, 1)]
    let u := withPort default [(6, 1)]
    px.a = .q 2 ∧ noPorts { px with a := .none } = true ∧ s.act px ≠ [] ∧ u.fresh ∧
      s.gangClass = true ∧ (s.port s.ref 2).pending = 0 ∧ (s.port s.ref 2).bound = true ∧ (u.port u.ref 2).bound = false ∧
      (u.port u.ref 2).pending = 0 ∧ (∀ l ∈ s.act px, (s.src64 px false l px.b).toNat % 2 ^ 48 = 1) ∧ px.d = .v 8 ∧
      (∀ l ∈ s.act px, s.src32 px l px.b = 1) := by
  unfold State.fresh
  decide +kernel
theorem witness_PortControls_selectors : ∀ sel ∈ [0, 2],
    (withPort readPort [(6, BitVec.ofNat 32 sel)]).src32 px 0 px.b = BitVec.ofNat 32 sel := by decide +kernel
def pbx : Args := x (.p 1) (.q 2) (.v 6) .none 0
theorem witness_PortControls_bind :
    let s := withPort default [(6, 0x40)]
    let u := onCore (crewOf (bundleOf 2 fun l => [(6, BitVec.ofNat 32 (64 * l))])) 3
    pbx.d = .p 1 ∧ (s.port s.ref 2).pending = 0 ∧ (∀ l ∈ s.act pbx, s.src32 pbx l pbx.b = 0x40) ∧
      0x40 + 64 ≤ s.curCrew.slines * 128 ∧ s.curCrew.line (0x40 / 128) = .full ∧ (s.core s.cur.core).pend = [] ∧
      s.vers = [] ∧ 0 ∈ u.act pbx ∧ 1 ∈ u.act pbx ∧
      u.src32 pbx 0 pbx.b ≠ u.src32 pbx 1 pbx.b ∧ u.act pbx ≠ [] := by decide +kernel
theorem witness_PortControls_bind_global :
    ∃ xs, (withPort default [(6, 0x10040)]).xlateAll ⟨0, 0, 0⟩ .read [(0, 0x10040, 64)] = .ok [(0, xs)] := ⟨_, rfl⟩

theorem witness_PortTransfers_pop :
    let s := withPort readPort []
    let q := s.port s.ref 2
    noPorts { px with a := .none } = true ∧ s.gangClass = true ∧ px.d = .v 8 ∧ s.act px ≠ [] ∧ q.bound = true ∧
      descWrite q.d = false ∧ descTarget q.d ≠ 2 ∧ q.pos ≠ q.len ∧ s.elemOutside s.ref q.d 0 = false ∧ s.act px = [0] ∧
      find q.buf 0 = some (.data [1, 0, 0, 0]) ∧ px.a = .q 2 ∧ (x (.v 8) (.peek 2) (.v 6) .none 0).a = .peek 2 := by
  decide +kernel
theorem witness_PortTransfers_ends :
    let s := withPort endPort []
    let u := withPort writePort []
    ((withPort default []).port s.ref 2).bound = false ∧ (u.port u.ref 2).bound = true ∧
      descWrite (u.port u.ref 2).d = true ∧ (s.port s.ref 2).bound = true ∧ descWrite (s.port s.ref 2).d = false ∧
      (s.port s.ref 2).pos = (s.port s.ref 2).len ∧ s.fresh := by
  unfold State.fresh
  decide +kernel
theorem witness_PortTransfers_push :
    let y := x (.q 2) (.v 6) .none .none 0
    let s := withPort writePort [(6, 5)]
    let q := s.port s.ref 2
    noPorts { y with d := .none } = true ∧ y.d = .q 2 ∧ s.act y = [0] ∧ q.bound = true ∧ descWrite q.d = true ∧
      descTarget q.d = 1 ∧ q.pos ≠ q.len ∧ q.pending < 64 ∧ elemAddr q.d (q.pos + 0) < 2 ^ 20 ∧
      elemAddr q.d (q.pos + 0) + descEsize q.d ≤ s.curCrew.slines * 128 := by decide +kernel
theorem witness_PortEngine_fetch :
    let s := withPort readPort []
    let q := s.port ⟨0, 0, 0⟩ 2
    s.hasBundle ⟨0, 0, 0⟩ = true ∧ q.bound = true ∧ descWrite q.d = false ∧ descTarget q.d = 0 ∧ q.pos ≤ 2 ∧
      2 < q.pos + 128 ∧ 2 < q.len ∧ find q.buf 2 = none ∧ s.elemOutside ⟨0, 0, 0⟩ q.d 2 = false ∧
      (s.die (dieOf 0)).slot = .run ∧ page.far = false ∧ s.refetch = [] ∧ elemAddr q.d 2 = 0x10028 ∧ descEsize q.d = 4 ∧
      (s.core 0).pend = [] ∧ s.vers = [] ∧ (∀ j < 4, s.cellPoison (0x10028 + j) = false) := by decide +kernel
theorem witness_PortEngine_fetch_xlate : (withPort readPort []).xlate ⟨0, 0, 0⟩ 0 0x10028 4 .read =
    .ok ⟨[0x10028, 0x10029, 0x1002A, 0x1002B], [page], 0x10028⟩ := by rfl
def queuedPush : PushEnt := ⟨[(0, .phys ((List.range 2).map fun i => 0x10020 + i) 0x10020 [] false, [7, 8])], 15, [], 3, [], []⟩
def queuedPort : Port := { bound (descr 0 1 0x10020) with wq := [.push queuedPush] }
theorem witness_PortEngine_writes :
    let s := withPort queuedPort [(1, 4)]
    let y := x .none (.v 1) .none .none 0
    s.hasBundle ⟨0, 0, 0⟩ = true ∧ (s.die (dieOf 0)).slot = .run ∧
      (s.core 0).pend = [] ∧ (s.port ⟨0, 0, 0⟩ 2).wq = [.push queuedPush] ∧ queuedPush.owed = [] ∧
      s.pageAt 0x10020 = none ∧ s.pageAt 0x10021 = none ∧
      noPorts y = true ∧ s.act y ≠ [] ∧ (∀ l ∈ s.act y, s.src32 y l y.a = 4) ∧
      ((4#32).getLsbD 2 = true ∧ (s.port s.ref 2).bound = true ∧ descWrite (s.port s.ref 2).d = true ∧
        (s.port s.ref 2).pending ≠ 0) ∧
      ((withPort default [(1, 4)]).port s.ref 2).bound = false := by decide +kernel

/-- A crew that holds accumulator block 0 under handle 1. -/
def holding (r : SMap Word) : State :=
  let s := one r
  s.setCore 0 { s.core 0 with accHeld := [(0, (0, 1))] }
theorem witness_TileAndMultiplyCommands_tiles :
    let s := one [(1, 0x40)]
    let u := one [(1, 0x48)]
    let w := one [(1, 8176)]
    let y := x (.t 1) (.v 1) .none .none 0
    let z := x .none (.v 1) (.t 1) .none 0
    noPorts y = true ∧ noPorts z = true ∧ (s.act y).head? = some 0 ∧ y.d = .t 1 ∧ z.b = .t 1 ∧
      (s.src32 y 0 y.a).toNat % 16 = 0 ∧
      (s.src32 y 0 y.a).toNat + tshBytes (s.curCrew.tshAll.getD 1 0) ≤ s.curCrew.slines * 128 ∧
      (u.src32 y 0 y.a).toNat % 16 ≠ 0 ∧ (w.src32 y 0 y.a).toNat % 16 = 0 ∧ u.fresh ∧ w.fresh ∧
      s.curCrew.slines * 128 < (w.src32 y 0 y.a).toNat + tshBytes (s.curCrew.tshAll.getD 1 0) := by
  unfold State.fresh
  decide +kernel
/-- Operands of a multiplication of two SB8 tiles, 16 by 16, one K-step. -/
def mx : Args := x .none (.v 30) (.v 12) (.v 24) 0
def mregs : SMap Word := [(12, 18), (24, 0), (25, 1), (26, 0x00100010), (27, 1), (30, 1)]
def mcmd : MatCmd := ⟨18, 1, 0, 1, 16, 16, 1, (default : Crew).tshAll⟩
theorem witness_TileAndMultiplyCommands_mloop :
    let s := holding mregs
    let u := one mregs
    noPorts mx = true ∧ s.act mx = [0] ∧ s.src32 mx 0 mx.a = 1 ∧ s.src32 mx 0 mx.b = 18 ∧ fmtOk s.curCrew.ver 18 = true ∧
      (s.core s.cur.core).holdsHandle s.cur.slot 1 = true ∧ obCmd 18 1 (s.obVal noneTaken mx 0) 256 s.curCrew.tshAll = some mcmd ∧
      matCheck (s.core s.cur.core) s.cur.slot s.curCrew mcmd true true = none ∧ s.fresh ∧ u.fresh ∧
      (u.core u.cur.core).holdsHandle u.cur.slot 1 = false ∧ fmtOk s.curCrew.ver 255 = false ∧ s.curCrew.gang = none := by
  unfold State.fresh
  decide +kernel
/-- The same crew as the leader of a gang of two by two. -/
def leading : State :=
  let s := holding mregs
  { s.setCrew 0 0 { s.curCrew with gang := some 1 } with
    gangs := [(1, { (default : Gang) with members := [(0, (0, 0)), (1, (1, 0)), (2, (32, 0)), (3, (33, 0))], w := 2, h := 2 })] }
def query (r core : Nat) : Query := ⟨5, ⟨0, 0, 0⟩, 1, r, core, 0, mcmd, r / 2, r % 2, some none⟩
theorem witness_TileAndMultiplyCommands_gmloop :
    let s := leading
    let u := s.setCore 0 { s.core 0 with queries := [query 1 1, query 2 32, query 3 33] }
    let g := findD s.gangs 1 default
    s.curCrew.gang = some 1 ∧ 2 ≤ g.w ∧ 2 ≤ g.h ∧ s.curCrew.grank = 0 ∧ (s.core s.cur.core).holdsHandle s.cur.slot 1 = true ∧
      obCmd 18 1 (s.obVal noneTaken mx 0) 512 s.curCrew.tshAll = some mcmd ∧
      matCheck (s.core s.cur.core) s.cur.slot s.curCrew { mcmd with m := min 256 mcmd.m, n := min 256 mcmd.n } true true = none ∧
      s.myQueries = [] ∧ s.cur.again = false ∧ u.myQueries = [query 1 1, query 2 32, query 3 33] ∧
      (∀ e ∈ quads g.w, ∀ d ∈ quads g.w, e ≠ d → (g.at_ e.2.2).1 ≠ (g.at_ d.2.2).1) := by decide +kernel
theorem witness_AccumulatorForms_alloc :
    let y := x (.p 1) (.v 1) (.v 2) .none 0
    let s := one [(2, 0)]
    let u := (one [(2, 0xF0000)]).setCore 0 { (one [(2, 0xF0000)]).core 0 with accRes := [(0, 5)] }
    noPorts y = true ∧ s.gangClass = true ∧ s.act y = [0] ∧ y.a = .v 1 ∧ y.d = .p 1 ∧ (1 : Fin 8) ≠ 7 ∧
      (hRB (s.src32 y 0 y.b) + 1) * (hCB (s.src32 y 0 y.b) + 1) ≤ ((s.core 0).freeFor 0).length ∧
      ((u.core 0).freeFor 0).length < (hRB (u.src32 y 0 y.b) + 1) * (hCB (u.src32 y 0 y.b) + 1) ∧
      ((List.range 16).filter fun b => find (u.core 0).accRes b == some 0).length + (u.core 0).pool.length <
        (hRB (u.src32 y 0 y.b) + 1) * (hCB (u.src32 y 0 y.b) + 1) := by decide +kernel
theorem witness_AccumulatorForms_handles :
    let y := x .none (.v 1) (.v 2) (.v 5) 0
    let s := holding [(1, 1), (2, 0x0203)]
    let u := one [(1, 1), (2, 0x0203)]
    noPorts y = true ∧ s.gangClass = true ∧ s.act y = [0] ∧ (s.core 0).holdsHandle 0 (s.src32 y 0 y.a) = true ∧
      bits (s.src32 y 0 y.b).toNat 15 8 < 64 * (hRB (s.src32 y 0 y.a) + 1) ∧
      bits (s.src32 y 0 y.b).toNat 7 0 < 64 * (hCB (s.src32 y 0 y.a) + 1) ∧ s.writersOf 0 (s.src32 y 0 y.a) = [] ∧
      (∀ b ∈ hBlocks (s.src32 y 0 y.a), (s.core 0).accPoison.getLsbD b = false) ∧
      (u.core 0).holdsHandle 0 (u.src32 y 0 y.a) = false ∧ u.fresh ∧ s.pages = [] := by
  unfold State.fresh
  decide +kernel
/-- Lane 0 stores the tile of handle 1 from 0x10000, 256 bytes a row. -/
theorem witness_AccumulatorForms_store : ∃ xs, (holding []).xlateAll ⟨0, 0, 0⟩ .write
    ((List.range 64).map fun r => (0, 0x10000 + r * 256, accRowSize .f32 64)) = .ok xs := ⟨_, rfl⟩
theorem witness_AccumulatorForms_wait :
    let s := (one []).setCore 0 { (one []).core 0 with queues := [(4, [.cmd zeroing])] }
    s.act cx ≠ [] ∧ (one []).matOps s.ref = [] ∧ s.matOps s.ref ≠ [] := by decide +kernel
theorem witness_MatrixEngine_start :
    let s := (one []).setCore 0 { (one []).core 0 with queues := [(4, [.cmd zeroing])] }
    (s.queue 0 qMat)[0]? = some (.cmd zeroing) ∧ zeroing.started = false ∧ s.matFree 0 0 zeroing = true ∧ s.cmdOwed zeroing = false ∧
      (s.die (dieOf 0)).slot = .run := by decide +kernel
def multiplying : Cmd := ⟨9, ⟨0, 0, 0⟩, 15, [], true, false, none, 0, false, [], [], .mat (.mloop mcmd)⟩
theorem witness_MatrixEngine_step :
    let s := (holding []).setCore 0 { (holding []).core 0 with queues := [(4, [.cmd multiplying])] }
    let k := s.crew 0 0
    s.queue 0 qMat = [.cmd multiplying] ∧ multiplying.started = true ∧ multiplying.suspended = false ∧ multiplying.done = false ∧ multiplying.step < mcmd.s ∧
      srcHeld k mcmd.asrc (fmtA mcmd.fmt) 0 mcmd.m = false ∧ srcHeld k mcmd.bsrc (fmtB mcmd.fmt) 0 mcmd.n = false ∧
      (hBlocks mcmd.handle).length = (hRB mcmd.handle + 1) * (hCB mcmd.handle + 1) ∧ mcmd.m ≤ 64 * (hRB mcmd.handle + 1) ∧
      mcmd.n ≤ 64 * (hCB mcmd.handle + 1) := by decide +kernel
theorem witness_MatrixEngine_zero :
    let c := { zeroing with started := true }
    let s := (one []).setCore 0 { (one []).core 0 with queues := [(4, [.cmd c])] }
    s.queue 0 qMat = [.cmd c] ∧ c.suspended = false ∧ c.done = false ∧ c.body = .mat (.tzero 1) ∧ c.ref.core = 0 := by
  decide +kernel
theorem witness_MatrixEngine_query :
    let q := { query 1 1 with cmd := { mcmd with m := 0, n := 0 }, answer := none }
    let r := { q with core := 0 }
    let s := leading.setCore 0 { leading.core 0 with queries := [q] }
    let u := leading.setCore 0 { leading.core 0 with queries := [r] }
    (s.core 0).queries = [q] ∧ q.answer = none ∧ q.cmd.m = 0 ∧ (s.core q.core).holdsHandle q.slot q.cmd.handle = false ∧
      (u.core 0).queries = [r] ∧ (u.core r.core).holdsHandle r.slot r.cmd.handle = true := by decide +kernel

/-! ### Segments, contexts, cache pages and attention -/

def mgx : Args := x (.v 8) (.v 1) (.v 2) (.v 5) 0
/-- A context of one layer and head, 16 FP16 elements a vector. -/
def ctx1 : Ctx := { (default : Ctx) with layers := 1, kvh := 1, hdim := 16, fmt := 3, depth := 1 }
/-- The image of a segment of that shape, with 8 tokens and its page list at 0x10000; sealed, with bits [183:182] = 1. -/
def segImage (st : Nat) : Nat := 8 * 2 ^ 128 + 2 ^ 152 + 2 ^ 160 + 16 * 2 ^ 168 + 3 * 2 ^ 177 + st * 2 ^ 182 + 0x1000000000000000000000000000000000000000000000000000000000000000000000000000000000000
def seg1 (st : Nat) : Seg := ⟨BitVec.ofNat 512 (segImage st), 0, false⟩
/-- The image of such a context (R298), with its rotation table at 0x10000. -/
def ctxImage : Nat := 1 + 2 ^ 8 + 16 * 2 ^ 16 + 3 * 2 ^ 25 + 0x10000000000000000000000000000000000000000000000000000
/-- A lane with registers; quotas of 100 pages in both tiers; the cache-page window at 0x10000; a value in scratchpad. -/
def mgr (r : SMap Word) (n v : Nat) : State :=
  let s := one r
  let s := s.setCrew 0 0 { s.curCrew with scratch := s.curCrew.scratch.writeNat 0x40 n v }
  { s with mem := (s.mem.writeNat 48 4 100).writeNat 52 4 100, sup := [(0x10D, 0x10000)] }

theorem witness_SegmentForms_new :
    let s := mgr [(1, 0x40)] 64 (segImage 0)
    let u := mgr [(1, 0x40)] 64 (segImage 1)
    noPorts mgx = true ∧ s.gangClass = true ∧ (s.core s.cur.core).pend = [] ∧ s.act mgx = [0] ∧ mgx.d = .v 8 ∧
      (s.src32 mgx 0 mgx.a).toNat = 0x40 ∧ 0x40 + 64 ≤ s.curCrew.slines * 128 ∧
      (∀ j ∈ linesTouched 0x40 64, s.curCrew.line j = .full) ∧ s.vers = [] ∧ segImageOk (s.curCrew.scratch.readNat 0x40 64) = true ∧
      bits (s.curCrew.scratch.readNat 0x40 64) 468 448 = 0 ∧ bits (s.curCrew.scratch.readNat 0x40 64) 439 416 = 0 ∧
      freeHandle s.segs = some 0 ∧ segImageOk (u.curCrew.scratch.readNat 0x40 64) = false := by decide +kernel
/-- Segment 3, whose one page is cache page 0. -/
def withSeg (st : Nat) : State :=
  { mgr [(1, 3)] 1 0 with
    segs := [(3, seg1 st)],
    pages := [(0, { (default : Page) with tier := .near, ofSeg := true, owner := 3, rc := 1 })] }
theorem witness_SegmentForms_named :
    let s := withSeg 0
    let g := seg1 0
    find s.segs ((s.src32 mgx 0 mgx.a).toNat % 2 ^ 20) = some g ∧ g.acct = s.myAcct ∧ g.state = 0 ∧ g.ev = false ∧
      (s.page 0).any (fun p => p.ofSeg && p.owner == 3) = true ∧ find (mgr [(1, 3)] 1 0).segs 3 = none ∧
      ({ g with record := g.record ||| 1#512 <<< 384 } : Seg).acct ≠ s.myAcct := by decide +kernel
theorem witness_SegmentForms_pages : ((withSeg 0).pageList 0 (seg1 0)).toOption = some [0] := by decide +kernel
theorem witness_SegmentForms_sweep :
    let s := withSeg 2
    find s.segs 3 = some (seg1 2) ∧ (seg1 2).state = 2 ∧ (∀ c ∈ s.ctxs, ∀ k ∈ c.2.links, k.seg ≠ 3) ∧
      (s.page 0).any (fun p => p.ofSeg && p.owner == 3) = true := by decide +kernel

theorem witness_ContextForms_new :
    let s := mgr [(1, 0x40)] 64 ctxImage
    let u := mgr [(1, 0x40)] 64 0
    ctxBlockOk (s.curCrew.scratch.readNat 0x40 64) = true ∧ freeHandle s.ctxs = some 0 ∧
      ctxBlockOk (u.curCrew.scratch.readNat 0x40 64) = false ∧ (s.src32 mgx 0 mgx.a).toNat = 0x40 ∧ s.poison = [] := by
  decide +kernel
theorem witness_ContextForms_rotation :
    let s := mgr [(1, 0x40)] 64 ctxImage
    answered (s.xlateAll ⟨0, 0, 0⟩ .read ((List.range 8).map fun i => (0, 0x10000 + 4 * i, 4))) (fun xs =>
      xs.all fun e => (e.2.es.all fun t => !t.far) && e.2.cells.all fun c => s.refetching c == none) = true := by decide +kernel
/-- Context 5, as given, with its parent 4, and a sealed segment 3 without pages, which no mask flags. -/
def withCtx (c : Ctx) (r : SMap Word) : State :=
  { mgr r 1 0 with ctxs := [(4, { ctx1 with children := 1 }), (5, c)], segs := [(3, seg1 1)] }
def child : Ctx := { ctx1 with parent := some 4, depth := 2 }
def linked : Ctx := { ctx1 with links := [⟨0, 3, 1, 4, 0⟩], len := 4 }
theorem witness_ContextForms :
    let s := withCtx child [(1, 5), (2, 3)]
    let u := withCtx linked [(1, 5), (2, 0)]
    s.ownCtx 5 = true ∧ s.ownCtx 6 = false ∧ (s.ctx 5).inflight = 0 ∧ (s.ctx 5).children = 0 ∧
      (s.ctx 5).parent = some 4 ∧ (s.ctx 5).depth < 4 ∧ freeHandle s.ctxs = some 0 ∧
      ((withCtx { child with inflight := 1 } [(1, 5)]).ctx 5).inflight ≠ 0 ∧ (u.ctx 5).parent = none ∧
      ((withCtx { child with children := 1 } [(1, 5)]).ctx 5).children ≠ 0 ∧
      4 ≤ ((withCtx { child with depth := 4 } [(1, 5)]).ctx 5).depth ∧ s.fresh ∧
      (find s.segs 3).isSome = true ∧ (s.ctx 5).linkable (s.seg 3) 0 = true ∧
      repairSet (s.ident 5 0).toNat (s.seg 3).postmark (s.ctx 5).policy (s.seg 3).ntok [] = [] ∧
      (s.src32 mgx 0 mgx.a).toNat % 2 ^ 20 = 5 ∧ (s.src32 mgx 0 mgx.b).toNat % 2 ^ 20 = 3 ∧
      0 < (u.ctx 5).len ∧ (u.ctx 5).links.find? (fun k => k.base == 0) = some ⟨0, 3, 1, 4, 0⟩ ∧
      (u.ctx 5).links.find? (fun k => k.base == 1) = none ∧ (u.ctx 5).depth ≤ 1 ∧
      (u.ctx 5).children = 0 ∧ (u.ctx 5).inflight = 0 := by
  unfold State.fresh
  decide +kernel
/-- Pages are listed, also by a link, and slots of an ancestor are copied. -/
theorem witness_ContextForms_lists :
    let s := withCtx child []
    let u : State := { s with ctxs := [(4, { ctx1 with children := 1, len := 1, ovSlots := [(0, 0, 0)], ovPages := [((0, 0, 0), 1)] }), (5, { child with spare := [2] })],
                              sup := [(0x10D, 0xC000)] }
    answered (s.flaggedFor 0 (seg1 1) 0 0) (· == []) = true ∧ answered (s.pageList 0 (seg1 1)) (· == [0]) = true ∧
      answered ((withCtx linked []).linkPages 0 [3]) (· == [0]) = true ∧ u.missingSlots 5 = [(4, 0, 0, 0)] ∧
      answered (u.copySlots 0 5 (u.missingSlots 5)) (fun _ => true) = true := by decide +kernel
/-- A link under the policy that repairs every token, with its pigeonhole and an open repair domain. -/
def repairing : State :=
  let s := withCtx { child with policy := 0x200, repent := 0x5000 } [(1, 5), (2, 3)]
  { s with segs := [(3, { seg1 1 with record := (seg1 1).record ||| 1 })], doms := [(0, { (default : Dom) with st := .opened })],
           dies := put s.dies 0 { s.die 0 with phs := [(2, { (default : Pigeon) with entry := 0x5000 })] } }
theorem witness_ContextForms_repair :
    let s := repairing
    let js := repairSet (s.ident 5 0).toNat (s.seg 3).postmark (s.ctx 5).policy (s.seg 3).ntok []
    answered (s.flaggedFor 0 (s.seg 3) 0 0x200) (· == []) = true ∧ js ≠ [] ∧ s.curCrew.det = false ∧ (s.die (dieOf 0)).phOf 0x5000 = some 2 ∧
      ((s.linkMint 0 (2 ^ 24)).bind fun u => u.placeRecs 0 2 [repairRec 5 3 0 (s.ctx 5) (s.released s.ref [0] (s.opSeq + 1)) js]).isSome =
        true := by decide +kernel

theorem witness_AppendAndSpeculation_append :
    let s := withCtx ctx1 [(1, 5), (2, 0x40), (5, 0x10000)]
    let blk := s.curCrew.scratch.readNat 0x40 (16 + 2 * (s.ctx 5).kb)
    s.ownCtx 5 = true ∧ (s.src32 mgx 0 mgx.b).toNat = 0x40 ∧ 0x40 + (16 + 2 * (s.ctx 5).kb) ≤ s.curCrew.slines * 128 ∧
      (∀ j ∈ linesTouched 0x40 (16 + 2 * (s.ctx 5).kb), s.curCrew.line j = .full) ∧
      s.vers = [] ∧ 256 ≤ (({ ctx1 with journal := some (List.replicate 256 0) } : Ctx).journal.getD []).length ∧
      (s.ctx 5).appendOk 0x10000 (bits blk 127 32) = true ∧ (s.src32 mgx 0 mgx.c).toNat = 0x10000 ∧
      (0x10000 : Nat).testBit 16 = true ∧ (s.ctx 5).children = 0 ∧ ((s.ctx 5).journal.getD []).length < 256 ∧
      (s.ctx 5).ovPage ((s.ctx 5).window (s.ctx 5).len) 0 0 = none := by decide +kernel
theorem witness_AppendAndSpeculation_room :
    answered ((withCtx ctx1 []).doAppend 0 5 0x10000 0 (List.replicate 64 0)) (fun _ => true) = true := by decide +kernel
theorem witness_AppendAndSpeculation_query :
    let s := withCtx ctx1 [(1, 5), (2, 1)]
    mgx.d = .v 8 ∧ (s.src32 mgx 0 mgx.a).toNat = 5 ∧ (s.src32 mgx 0 mgx.b).toNat = 1 := by decide +kernel
theorem witness_AppendAndSpeculation_journal :
    let j (es : List (BitVec 128)) (n : Nat) := withCtx { ctx1 with journal := some es, children := n } [(1, 5), (2, 1)]
    ((j [] 1).ctx 5).children ≠ 0 ∧ ((j [] 1).ctx 5).journal.isSome = true ∧ ((withCtx ctx1 []).ctx 5).journal = none ∧
      ((withCtx ctx1 []).ctx 5).children = 0 ∧ ((j [0] 0).ctx 5).journal = some [0] ∧ ((j [0] 0).ctx 5).ovPages = [] ∧
      ([] : List (BitVec 128)).length < ((j [] 0).src32 mgx 0 mgx.b).toNat ∧
      ([0] : List (BitVec 128))[[(0 : BitVec 128)].length - ((j [0] 0).src32 mgx 0 mgx.b).toNat]? = some 0 ∧
      (j [0] 0).takenLens 5 = [] := by decide +kernel

/-- Cache page 7 of the launch's account. -/
def withPage (t : TierSt) : State :=
  { mgr [(1, 7)] 1 0 with pages := [(7, { (default : Page) with tier := t, rc := 0, nearF := some 7, farF := some 1 })] }
theorem witness_CachePageForms :
    let s := withPage .near
    (mgr [(1, 7)] 1 0).page 7 = none ∧ (s.src32 mgx 0 mgx.a).toNat = 7 ∧
      [TierSt.near, .promoting, .demoting, .far, .both].all (fun t =>
        ((withPage t).page 7).any fun p => p.acct == s.myAcct && p.tier == t && p.rc == 0) = true ∧
      ({ s with mem := [] } : State).charge 0 false 1 = none ∧ s.overQuota 0 = 0 := by decide +kernel
theorem witness_CachePageForms_promote : ∃ u,
    (withPage .far).promoteTo 7 { (default : Page) with tier := .far, rc := 0, nearF := some 7, farF := some 1 } = .ok u := ⟨_, rfl⟩
def pax : Args := x (.v 8) (.v 10) (.v 2) (.p 1) 0
theorem witness_CachePageForms_alloc :
    let s := withCtx ctx1 [(2, 0x40), (10, 5), (11, 1)]
    pax.c = .p 1 ∧ (1 : Fin 8) ≠ 7 ∧ s.hasCrew s.cur.core s.cur.slot = true ∧ (s.src32 pax 0 pax.b).toNat = 0x40 ∧
      0x40 + 4 * 2 ≤ s.curCrew.slines * 128 ∧ (∀ j ∈ linesTouched 0x40 8, s.curCrew.line j ≠ .poisoned) ∧
      (s.src64 pax false 0 pax.a).toNat = 2 ^ 32 + 5 ∧ s.allocable 5 1 = true := by decide +kernel
theorem witness_CachePageForms_room : ∃ r, (withCtx ctx1 []).allocPages true false 0 5 0 2 = .ok r := ⟨_, rfl⟩
theorem witness_CachePageForms_no_room : ∃ st,
    ({ withCtx ctx1 [] with mem := [] } : State).allocPages true false 0 5 0 2 = .error st := ⟨_, rfl⟩
theorem witness_CachePageForms_moves : ∀ t ∈ [TierSt.promoting, .demoting],
    (withPage t).page 7 = some { (default : Page) with tier := t, rc := 0, nearF := some 7, farF := some 1 } ∧
      ∀ e ∈ (withPage t).pages, e.2.acct = 0 → e.1 = 7 := by decide +kernel
theorem witness_CachePageForms_visit :
    let s := withPage .both
    let s := { s with mem := (s.mem.writeNat 44 4 101) }
    s.overQuota 0 = 1 ∧ (s.page 7).any (fun p => p.tier == .both && p.acct == 0) = true ∧
      ((s.pages.filter fun e => e.2.acct == 0 && e.2.tier == .both).map (·.1)).head? = some 7 := by decide +kernel

/-- An `ATTN` of context 5 over positions 0 to 4, with its output at 0x800. -/
def atx : Args := x .zero (.v 1) (.v 12) .none 0
def attnRegs : SMap Word := [(1, 0x40), (12, 5), (13, 0), (14, 0), (15, 4)]
def attnState : State :=
  let s := withCtx ctx1 attnRegs
  s.setCrew 0 0 { s.curCrew with scratch := s.curCrew.scratch.writeNat 0x48 4 0x800 }
theorem witness_AttentionForms_issue :
    let s := attnState
    let ob := leNat ((s.rdGroup s.ref noneTaken 4 0 atx.b).flatMap fun w => leBytes w.toNat 4)
    let qb := s.curCrew.scratch.readNat 0x40 (16 + 4 * (s.ctx 5).hdim)
    noPorts atx = true ∧ s.gangClass = true ∧ s.act atx = [0] ∧ atx.d = .zero ∧ bits ob 19 0 = 5 ∧ s.ownCtx 5 = true ∧
      (mgr attnRegs 1 0).ownCtx 5 = false ∧ s.fresh ∧ s.vers = [] ∧ (s.core s.cur.core).pend = [] ∧
      (∀ j ∈ linesTouched 0x40 (16 + 4 * (s.ctx 5).hdim), s.curCrew.line j = .full) ∧
      attnOk (s.ctx 5) false atx.d s.curCrew.nreg ob qb = true ∧ bits qb 95 64 = 0x800 := by
  unfold State.fresh
  decide +kernel
theorem witness_AttentionForms_out : ∃ o, attnState.attnOut .zero [0] 0 0x800 (attnWords false 16 0 4) = .ok o := ⟨_, rfl⟩
def attn1 (st : Option (Nat × List Nat)) : AttnCmd :=
  { ctx := 5, layer := 0, head := 0, lo := 0, hi := 4, pq := 0, sigma := 0, q := [], o := false, gated := false, dst := .zero,
    out := (0, 0, 0x800), started := st, next := 0, mx := 0, sm := 0, vec := [], words := 0, poison := false, gate := [] }
def attnCmd (st : Option (Nat × List Nat)) : Cmd := ⟨9, ⟨0, 0, 0⟩, 15, [], st.isSome, false, none, 0, false, [], [], .attn (attn1 st)⟩
def queued (q : Nat) (c : Cmd) (s : State) : State := s.setCore 0 { s.core 0 with queues := [(q, [.cmd c])] }
theorem witness_AttentionForms_engine :
    let s := queued qAttn (attnCmd none) attnState
    let u := queued qAttn (attnCmd (some (0, [5]))) attnState
    s.queue 0 qAttn = .cmd (attnCmd none) :: [] ∧ (attnCmd none).suspended = false ∧ s.cmdOwed (attnCmd none) = false ∧ (s.die (dieOf 0)).slot = .run ∧
      u.queue 0 qAttn = .cmd (attnCmd (some (0, [5]))) :: [] ∧ (0 : Nat) ≤ (attn1 none).next ∧
      (attn1 none).next < (attn1 none).hi ∧ u.hasCrew 0 0 = true := by decide +kernel
def ptx : Args := x (.v 8) (.v 1) (.v 2) (.v 10) 0
theorem witness_AttentionForms_patch :
    let s := withCtx ctx1 [(1, 5), (2, 0x40), (10, 0), (11, 0)]
    noPorts ptx = true ∧ s.act ptx = [0] ∧ ptx.d = .v 8 ∧ s.ownCtx ((s.src32 ptx 0 ptx.a).toNat % 2 ^ 20) = true ∧
      (s.src32 ptx 0 ptx.b).toNat = 0x40 ∧ 0x40 + 2 * (s.ctx 5).kb ≤ s.curCrew.slines * 128 := by decide +kernel
/-- Context 5 has a link over position 0 of its second layer, whose overlay page is page 1. -/
def patched : Ctx := { linked with layers := 2, ovPages := [((0, 1, 0), 1)] }
def patchCmd : Cmd := ⟨9, ⟨0, 0, 0⟩, 15, [], false, false, none, 0, false, [], [], .patch 5 (some 32) 0 0 0x40 0 1 0 0 (.v 8)⟩
/-- Page 1 in reach: the cache-page window begins one page before 0x10000. -/
def patching : State :=
  queued qAttn patchCmd { withCtx patched [] with
    sup := [(0x10D, 0xC000)], pages := [(1, { (default : Page) with tier := .near, nearF := some 7 })] }
theorem witness_AttentionForms_perform :
    let s := patching
    s.queue 0 qAttn = [.cmd patchCmd] ∧ patchCmd.suspended = false ∧ s.cmdOwed patchCmd = false ∧ s.hasBundle patchCmd.ref = true ∧ (s.die (dieOf 0)).slot = .run ∧
      (find s.ctxs 5).isSome = true ∧ (s.ctx 5).acct = (s.crew 0 0).acct ∧ (s.ctx 5).kb = 32 ∧
      (∀ j ∈ linesTouched 0x40 64, s.line 0 0 j = .full) ∧ (s.ctx 5).patchable 0 1 0 = true ∧
      (s.ctx 5).ovPage ((s.ctx 5).window 0) 1 0 = some 1 ∧ (s.page 1).any (fun q => q.tier == .near) = true ∧
      find ({ s with ctxs := [] } : State).ctxs 5 = none := by decide +kernel
theorem witness_AttentionForms_slot : ∃ cells, patching.slotCells 0 5 1 0 .write = .ok cells := ⟨_, rfl⟩

/-! ### Copies, tasks, quiet domains and gangs -/

def cpx : Args := x .none (.v 1) (.v 4) .zero 0
def cmod (d : CopyDir) : CopyMod := ⟨d, 0, false, true, .b32⟩
/-- A layout record of two elements of 4 bytes in a row (R290). -/
def layout : Nat := 2 + 2 ^ 15 + 2 * 2 ^ 18 + 3 * 2 ^ 21 + 4 * 2 ^ 24 + 2 * 2 ^ 144 + 2 ^ 168 + 2 ^ 192 + 2 ^ 216 + 2 ^ 240 +
  4 * (2 ^ 264 + 2 ^ 312 + 2 ^ 360 + 2 ^ 408 + 2 ^ 456)
/-- A lane whose v3 names a record at 0x200, with a destination at 0x40 and a source at 0x80. -/
def laying (r : Nat) : State :=
  let s := one [(1, 0x40), (2, 0x80), (3, 0x200)]
  s.setCrew 0 0 { s.curCrew with scratch := s.curCrew.scratch.writeNat 0x200 64 r }
def tcx : Args := x .none (.v 1) (.v 2) (.v 3) 0
/-- Four lanes, each with its own destination, one source, one receipt word, a weight of 9 and a share. -/
def copiers : State :=
  let s := four fun l => [(1, BitVec.ofNat 32 (0x40 + 16 * l)), (4, 0x10020), (6, 0x80), (7, 2)]
  s.mapLanes s.ref [0, 1, 2, 3] fun _ z => { z with wt := 9 }
def cwx : Args := x (.v 7) (.v 1) (.v 4) (.v 6) 0
theorem witness_CopyForms_copy :
    let s := copiers
    let m := { cmod .gs with weight := true }
    noPorts cwx = true ∧ s.act cwx = [0, 1, 2, 3] ∧ cwx.c ≠ .zero ∧ cpx.c = .zero ∧ (cmod .ss).weight = false ∧
      (∀ l ∈ s.act cwx, (s.src32 cwx l cwx.c).toNat % 8 = 0 ∧ shareOf (s.src32 cwx l cwx.d).toNat < (s.lane s.ref l).wt.toNat ∧
        baseOff false (s.src32 cwx l cwx.a).toNat 0 % copyBytesW m.width = 0 ∧
        baseOff true (s.src64 cwx false l cwx.b).toNat 0 % copyBytesW m.width = 0 ∧
        (s.range false .write l (baseOff false (s.src32 cwx l cwx.a).toNat 0) 4).toOption.isSome = true ∧
        (s.range true .read l (baseOff true (s.src64 cwx false l cwx.b).toNat 0) 4).toOption.isSome = true ∧
        (s.range false .write l (baseOff false (s.src32 cwx l cwx.a).toNat 0) ((2 : BitVec 16).toNat * 4)).toOption.isSome = true) ∧
      (s.receiptPlaces ((s.act cwx).map fun l => (l, (s.src32 cwx l cwx.c).toNat))).toOption.isSome = true := by
  decide +kernel
theorem witness_CopyForms_layout :
    let s := laying layout
    let u := laying 0
    noPorts tcx = true ∧ s.act tcx = [0] ∧ (s.core s.cur.core).pend = [] ∧ (cmod .ss).dir.dstGlobal = false ∧
      (s.src32 tcx 0 tcx.c).toNat = 0x200 ∧ 0x200 + 64 ≤ s.curCrew.slines * 128 ∧ s.vers = [] ∧
      s.lrPages layout false 0x80 = true ∧
      (∀ j ∈ linesTouched 0x200 64, s.curCrew.line j = .full) ∧ s.curCrew.scratch.readNat 0x200 64 = layout ∧
      lrValid layout = true ∧ layout.testBit 79 = false ∧ lrElem layout = 4 ∧ lrCount layout = 2 ∧
      (s.range false .write 0 0x40 (lrCount layout * lrElem layout)).toOption = some (.scr 0 0 0x40, []) ∧
      (s.lrSources layout false 0 0x80).toOption.isSome = true ∧
      lrValid (u.curCrew.scratch.readNat 0x200 64) = false ∧ u.fresh := by
  unfold State.fresh
  decide +kernel
def landing : Copy :=
  ⟨true, false, [⟨0, some (.phys [0x10020, 0x10021] 0x10020 [] false), [], .scr 0 0 0x40, 2, 0x10020⟩], [⟨0, none, 0, 5⟩], [], [], 0, 2, 0,
    none, []⟩
def copying : Cmd := ⟨9, ⟨0, 0, 0⟩, 15, [], false, false, none, 0, false, [], [], .copy landing⟩
theorem witness_CopyForms_land :
    let s := queued 2 copying (one [])
    s.queue 0 2 = [.cmd copying] ∧ copying.suspended = false ∧ (s.die (dieOf 0)).slot = .run ∧ landing.owed = [] ∧
      s.cmdOwed copying = false ∧ landing.lanes = [⟨0, none, 0, 5⟩] ∧ s.hasCrew 0 0 = true ∧ s.vers = [] ∧
      (∀ p ∈ [0x10020, 0x10021], s.cellPoison p = false ∧ s.refetching p = none) := by decide +kernel

/-- Die 0 with pigeonhole 3 for entry 0x2000, which holds some records. -/
def hole (rs : List TRec) (due : Bool) : Pigeon := { (default : Pigeon) with entry := 0x2000, kid := 1, c := 4, t := 10, due := due, recs := rs }
def withHole (p : Pigeon) (s : State) : State := s.setDie 0 { s.die 0 with phs := [(3, p)] }
def rec0 : TRec := ⟨[1, 2, 3, 4, 5, 6, 7, 8], 7, 5, []⟩
def swx : Args := x (.v 8) (.v 16) (.v 4) (.v 6) 0
theorem witness_WeightForms_spawn :
    let s := withHole (hole [] false) (one [(4, 0x2000), (6, 7)])
    let u := withHole (hole [] false) (one [(4, 0x2000), (6, 100)])
    noPorts swx = true ∧ s.gangClass = true ∧ s.curCrew.det = false ∧ (s.core s.cur.core).pend = [] ∧ s.act swx = [0] ∧
      swx.d = .v 8 ∧ (s.die (dieOf s.cur.core)).phOf (s.src64 swx false 0 swx.b) = some 3 ∧
      shareOf (s.src32 swx 0 swx.c).toNat < (s.lane s.ref 0).wt.toNat ∧ s.spillHosted = false ∧
      s.phRoom (dieOf s.cur.core) 3 = true ∧ (s.die (dieOf s.cur.core)).spillWait = [] ∧
      (u.lane u.ref 0).wt.toNat ≤ shareOf (u.src32 swx 0 swx.c).toNat ∧ s.fresh ∧
      ((one []).die 0).phOf ((one []).src64 swx false 0 swx.b) = none := by
  unfold State.fresh
  decide +kernel
theorem witness_WeightForms_lanes :
    let s := withHole (hole [] false) copiers
    let s := s.mapLanes s.ref [0, 1, 2, 3] fun _ z => { z with v := put z.v 4 0x2000 }
    noPorts swx = true ∧ s.gangClass = true ∧ s.curCrew.det = false ∧ (s.core s.cur.core).pend = [] ∧ swx.d = .v 8 ∧
      s.act swx = [0, 1, 2, 3] ∧ s.spillHosted = false ∧ (s.die 0).spillWait = [] ∧ (findD (s.die 0).phs 3 default).spilled = [] ∧
      (findD (s.die 0).phs 3 default).recs.length + (s.die 0).coming 3 + 4 ≤ 32 ∧
      ∀ l ∈ s.act swx, (s.die (dieOf s.cur.core)).phOf (s.src64 swx false l swx.b) = some 3 ∧
        shareOf (s.src32 { swx with c := .v 7 } l (.v 7)).toNat < (s.lane s.ref l).wt.toNat := by decide +kernel
theorem witness_WeightForms_splitw :
    let s := one [(1, 7), (2, 3)]
    let y := x (.v 8) (.v 1) (.v 2) .none 0
    (s.src32 y 0 y.b).toNat % 32 = 3 ∧ (s.bundle s.ref).live.getLsbD 3 = true ∧ (s.lane s.ref 3).wd = (s.lane s.ref 0).wd ∧
      shareOf (s.src32 y 0 y.a).toNat < (s.lane s.ref 0).wt.toNat ∧
      (s.lane s.ref 3).wt.toNat + shareOf (s.src32 y 0 y.a).toNat < 2 ^ 32 ∧ y.d = .v 8 ∧
      (((one [(1, 7), (2, 9)]).src32 y 0 y.b).toNat % 32 = 9) ∧ (s.bundle s.ref).live.getLsbD 9 = false := by decide +kernel
def msx : Args := x .none (.v 4) (.v 16) (.v 6) 0
theorem witness_WeightForms_msend :
    let s := one [(4, 0x10020), (6, 7)]
    noPorts msx = true ∧ s.curCrew.det = false ∧ (s.core s.cur.core).pend = [] ∧ s.act msx = [0] ∧
      (s.src64 msx false 0 msx.a).toNat = 0x10020 ∧ shareOf (s.src32 msx 0 msx.c).toNat < (s.lane s.ref 0).wt.toNat ∧
      page.far = false := by decide +kernel
theorem witness_WeightForms_msend_xlate : ((one [(4, 0x10020), (6, 7)]).xlateAll ⟨0, 0, 0⟩ .write
    [(0, 0x10020, 32)]).toOption = some [(0, ⟨(List.range 32).map fun i => 0x10020 + i, [page], 0x10020⟩)] := by decide +kernel
theorem witness_WeightForms_deliver :
    let a := part 2 [1, 2]
    let p := pending (.msend [(7, 5)]) a
    lastPart (withPend p) 0 p a [] ∧ p.kind = .msend [(7, 5)] ∧ a.scr = none ∧
      a.cells = ((List.range a.data.length).map fun i => 0x10020 + i) :=
  ⟨⟨rfl, rfl, rfl, rfl, by decide +kernel, by decide +kernel, by simp⟩, rfl, rfl, rfl⟩

/-- A state whose register 0x12A is 0, where account 0 is assigned domain 5; and that domain's root. -/
def withDom (d : Dom) (r : SMap Word) : State :=
  { one r with doms := [(5, d)], mem := (one r).mem.writeNat 20 4 0x10000 }
def dom (st : DomSt) (t h : Nat) : Dom := { (default : Dom) with st := st, t := t, h := h }
def dx : Args := x (.v 8) (.v 1) (.v 4) .none 0
theorem witness_DomainForms :
    let s := withDom (dom .closed 0 0) [(1, 5)]
    let u := withDom (dom .opened 3 3) [(1, 5)]
    let w := withDom (dom .opened 3 1) [(1, 5)]
    noPorts dx = true ∧ s.gangClass = true ∧ (s.core s.cur.core).pend = [] ∧ s.act dx = [0] ∧
      (s.src32 dx 0 dx.a).toNat = 5 ∧ (s.bundle s.ref).parked = [] ∧ s.fresh ∧ dx.d = .v 8 ∧
      ({ s with sup := [(0x10B, 4)] } : State).rootsHosted = true ∧ s.rootsHosted = false ∧ s.assigned 5 s.curCrew.acct = true ∧ (s.dom 5).st = .closed ∧ (u.dom 5).st = .opened ∧
      (u.dom 5).h = (u.dom 5).t ∧ (w.dom 5).h ≠ (w.dom 5).t ∧ (one [(1, 5)]).assigned 5 0 = false ∧
      4096 ≤ ((one [(1, 4096)]).src32 dx 0 dx.a).toNat ∧ find s.launches s.curCrew.lseq = none ∧ s.curCrew.det = false ∧
      (find ({ s with launches := [(0, default)] } : State).launches s.curCrew.lseq).isSome = true ∧
      (default : Launch).detKey = none ∧ s.act { dx with guard := ⟨7, true⟩ } = [] ∧ (s.act dx).getLast? = some 0 := by
  unfold State.fresh
  decide +kernel

def msg (k : QKind) (n : Nat) : QMsg := ⟨k, 5, n, ⟨0, 0, 0⟩, 0, false, []⟩
/-- A message at the head of the queue to the roots, in hardware or host-assisted mode, with a course that waits. -/
def rooted (m : QMsg) (d : Dom) (hosted : Bool) (k : List Park) : State :=
  let s := { withDom d [] with
    qmsgs := [m], sup := if hosted then [(0x10B, 4)] else [],
    ctxs := [(1, { (default : Ctx) with pending := true, rdom := 5 })] }
  s.setBundle ⟨0, 0, 0⟩ { s.bundle ⟨0, 0, 0⟩ with parked := k }
def quietPark : Park := ⟨0x1000, [(0, .quiet 5 (.p 1))], 15, 3, false, false, false⟩
def grantPark : Park := ⟨0x1000, [(0, .grant 101)], 15, 3, true, false, false⟩
def rootPark (o : Bool) : Park := ⟨0x1000, [(0, .engine (.root o (.v 8) 9))], 15, 3, false, false, false⟩
theorem witness_DomainRoots :
    let s := rooted (msg .ret 2) (dom .opened 5 1) false []
    let u := rooted (msg .ret 4) (dom .opened 5 1) false []
    let w := rooted (msg .ret 5) (dom .opened 5 1) false []
    let a := rooted (msg .arm 0) (dom .opened 5 5) false [quietPark]
    s.qmsgs = [msg .ret 2] ∧ s.rootsHosted = false ∧ (s.dom 5).st = .opened ∧ (s.dom 5).h + 2 < (s.dom 5).t ∧
      (u.dom 5).h + 4 = (u.dom 5).t ∧ (w.dom 5).t < (w.dom 5).h + 5 ∧ (s.dom 5).h ≠ (s.dom 5).t ∧
      (find u.ctxs 1).any (fun x => x.pending && x.rdom == 5) = true ∧ (a.dom 5).h = (a.dom 5).t ∧
      a.hasBundle ⟨0, 0, 0⟩ = true ∧ (a.bundle ⟨0, 0, 0⟩).parked = [quietPark] ∧
      (s.dom 5).t + 2 ^ 20 < 2 ^ 64 ∧ (rooted (msg (.mint none) 9) (dom .opened 5 1) false []).qmsgs = [msg (.mint none) 9] ∧
      (rooted (msg .borrow 9) (dom .opened 5 1) false []).qmsgs = [msg .borrow 9] ∧
      ((rooted (msg .ret 0) (dom .corrupt 0 0) false []).dom 5).st = .corrupt := by decide +kernel
theorem witness_DomainRoots_hosted :
    let s := rooted { msg .borrow 100 with posted := true } (dom .opened 5 5) true [grantPark]
    let a := rooted { msg .arm 0 with posted := true } (dom .opened 5 5) true [quietPark]
    let o := rooted { msg .opening 0 with posted := true } (dom .closed 0 0) true [rootPark true]
    let n := rooted (msg .borrow 100) (dom .opened 5 5) true [grantPark]
    let g := { n with grants := [(⟨0, 0, 0⟩, 0, 50)] }
    s.rootsHosted = true ∧ s.hasBundle ⟨0, 0, 0⟩ = true ∧ (s.bundle ⟨0, 0, 0⟩).parked = [grantPark] ∧
      101 < (s.lane ⟨0, 0, 0⟩ 0).wt.toNat + 50 ∧ (s.lane ⟨0, 0, 0⟩ 0).wt.toNat + 50 < 2 ^ 32 ∧ (a.bundle ⟨0, 0, 0⟩).parked = [quietPark] ∧
      (o.bundle ⟨0, 0, 0⟩).parked = [rootPark true] ∧ n.ringRoom n.rqSeq 0x124 = true ∧
      (n.supReg 0x125).getLsbD 31 = false ∧ g.grants = [(⟨0, 0, 0⟩, 0, 50)] ∧
      101 < (g.lane ⟨0, 0, 0⟩ 0).wt.toNat + 50 ∧ 101 < 2 ^ 32 - 1 := by decide +kernel

def arriving0 : Arriving := ⟨⟨0, 0, 0⟩, 0, 3, rec0, false⟩
theorem witness_SortingOffice :
    let s := withHole (hole [] false) (one [])
    let a := s.setDie 0 { s.die 0 with arriving := [arriving0] }
    let t := (withHole (hole [rec0] false) (one []))
    let t := t.setDie 0 { t.die 0 with dcyc := 10 }
    let b := withHole (hole [rec0] true) (one [])
    let p := s.setDie 0 { s.die 0 with ready := [.formed (crewOf (bundleOf 1 fun _ => []))] }
    (a.die 0).arriving = [arriving0] ∧ (a.die 0).lastArr = none ∧ (hole [] false).spilled = [] ∧ a.spillHosted = false ∧ find (a.die 0).phs 3 = some (hole [] false) ∧
      find (t.die 0).phs 3 = some (hole [rec0] false) ∧ (hole [rec0] false).restart + max 10 1 ≤ (t.die 0).dcyc ∧
      find (b.die 0).phs 3 = some (hole [rec0] true) ∧ (b.die 0).ready.length < 4096 ∧ (b.die 0).spillWait = [] ∧
      (p.die 0).ready = [.formed (crewOf (bundleOf 1 fun _ => []))] ∧ p.mayPop 0 0 = true ∧ (p.core 0).freeSlot = some 1 ∧
      (p.core 0).takes (crewOf (bundleOf 1 fun _ => [])) = true := by decide +kernel

/-- The record of tree 2 of a gang of one: the root takes its own lanes' values, destination 0x100, a timeout of 10. -/
def tree2 : BitVec 1024 := BitVec.ofNat 1024 (2 ^ 20 + 0x100 * 2 ^ 512 + 10 * 2 ^ 608)
def ganged (g : Gang) (r : SMap Word) : State :=
  let s := one r
  { s.setCrew 0 0 { s.curCrew with gang := some 0 } with gangs := [(0, g)] }
def gang1 : Gang := { (default : Gang) with members := [(0, (0, 0))], w := 1, h := 1, trees := [(2, tree2)] }
def gx : Args := x (.v 8) (.v 1) (.v 2) (.v 4) 0
theorem witness_GangForms :
    let s := ganged gang1 [(1, 2), (2, 0)]
    let u := ganged gang1 [(1, 2), (2, 1)]
    let b := onCore (crewOf (bundleOf 1 fun _ => [])) 1
    noPorts gx = true ∧ s.gangClass = true ∧ s.act gx = [0] ∧ (s.core s.cur.core).pend = [] ∧ b.curCrew.gang = none ∧ b.fresh ∧
      b.cur.again = false ∧ (b.bundle b.ref).parked = [] ∧ b.hasBundle b.ref = true ∧
      b.curCrew.bundles = [(b.cur.bundle, b.bundle b.ref)] ∧ lanesOf (b.bundle b.ref).live = [0] ∧ b.act gx = [0] ∧
      s.curCrew.gang = some 0 ∧ (s.src32 gx 0 gx.a).toNat = 2 ∧ find (s.gangOf 0).trees 2 = some tree2 ∧
      (entSlots (treeEntry tree2.toNat s.curCrew.grank)).contains 0 = true ∧ (s.core s.cur.core).queues = [] ∧
      (∀ b ∈ s.bundlesOf s.cur.core, (s.bundle b).ports = []) ∧ (s.die (dieOf s.cur.core)).slot = .run ∧ gx.d = .v 8 ∧
      bits (s.treeStatus (s.gangOf 0) 2) 31 16 = (s.src32 gx 0 gx.b).toNat % 2 ^ 16 ∧
      bits (u.treeStatus (u.gangOf 0) 2) 31 16 ≠ (u.src32 gx 0 gx.b).toNat % 2 ^ 16 := by
  unfold State.fresh
  decide +kernel
theorem witness_GangForms_mcast :
    let s := one [(1, 0x40), (2, 0x80), (4, 32), (5, 1)]
    s.curCrew.gang = none ∧ (s.src64 gx false 0 gx.c).toNat = 2 ^ 32 + 32 ∧ (s.src32 gx 0 gx.a).toNat = 0x40 ∧
      (s.src32 gx 0 gx.b).toNat = 0x80 ∧ 0x80 + 32 ≤ s.curCrew.slines * 128 := by decide +kernel
def casted : Cmd := ⟨9, ⟨0, 0, 0⟩, 15, [], true, false, none, 0, false, [], [], .mcast [(0, { landing with units := [] })]⟩
theorem witness_GangForms_mcast_done : (queued qMesh casted (one [])).queue 0 qMesh = [.cmd casted] := by decide +kernel
def packet (round : Nat) (flush : Bool) : Packet := ⟨2, 0, 0, round, List.replicate 32 1, 1, false, false, flush⟩
theorem witness_GangForms_packets :
    let g (p : Packet) (r : Nat) := { gang1 with flight := [p], routers := [(32, { (default : Router) with round := r })] }
    (g (packet 1 false) 0).flight = [packet 1 false] ∧ 0 < roundsAhead 1 0 ∧ roundsAhead 1 0 < 32768 ∧
      32768 ≤ roundsAhead 0 1 ∧ ((g (packet 0 false) 1).router 2 0).round = 1 ∧
      (packet 0 true).round ≠ ((g (packet 0 true) 1).router 2 0).round ∧
      ([packet 1 false, packet 0 false, packet 0 true].all fun p => !(ganged (g p 1) []).roundLate 0 p.tree) = true := by decide +kernel
theorem witness_GangForms_timeout :
    let s := ganged { gang1 with trees := [(2, BitVec.ofNat 1024 (2 * 2 ^ 20 + 2 ^ 6 + 10 * 2 ^ 608))], routers := [(32, { (default : Router) with since := some 0 })] } []
    let s := s.setCore 0 { s.core 0 with cyc := 10 }
    let g := s.gangOf 0
    let t := g.treeRec 2
    (find g.trees 2).isSome = true ∧ treeTimeout t = 10 ∧ (g.router 2 (treeRoot t)).flushed = false ∧
      (g.router 2 (treeRoot t)).since = some 0 ∧ 0 + treeTimeout t ≤ (s.core (g.at_ (treeRoot t)).1).cyc ∧ g.flight = [] ∧
      1 ∈ entSlots (treeEntry t (treeRoot t)) ∧ (g.router 2 (treeRoot t)).inputs = [] := by decide +kernel

/-! ### System, the end of work, and launches -/

def sx0 : Args := x (.v 8) (.v 1) (.v 2) .none 0
theorem witness_ControlRegisters :
    let a (w : Word) := (one [(1, w)]).src32 sx0 0 sx0.a
    let s := one [(1, 1)]
    noPorts sx0 = true ∧ s.gangClass = true ∧ sx0.d = .v 8 ∧ (s.act sx0).getLast? = some 0 ∧ s.fresh ∧
      tshOk s.curCrew.ver (a 0x00020402) = true ∧ tshOk s.curCrew.ver (a 0xFFFFFFFF) = false ∧ tshOk 1 (a 0x00020400) = false ∧ (a 31).toNat < 32 ∧ (a 3).toNat < 4 ∧
      4 ≤ (a 4).toNat ∧ (a 1).toNat < 2 ∧ (a 127).toNat < 128 ∧ (a 4095).toNat < 4096 ∧ bits (a 0x20000).toNat 31 18 = 0 ∧
      bits (a 0x20000).toNat 17 16 = 2 ∧ bits (a 0x10005).toNat 17 16 = 1 ∧ bits (a 0x1A).toNat 1 0 = 2 ∧
      (s.src64 sx0 false 0 sx0.a).toNat % 16 = 1 ∧ (s.bundle s.ref).parked = [] ∧
      s.act { sx0 with guard := ⟨1, false⟩ } = [] ∧ ({ s with windowOpened := true } : State).windowOpened = true ∧
      s.windowOpened = false := by
  unfold State.fresh
  decide +kernel

/-- One lane of house core 0 at 0x1000, under physical addressing, beside the crew of `one`. -/
def housed (r : SMap Word) (inh : Bool) : State :=
  let s := one []
  let k : Crew := { houseCrew with bundles := [(0, { houseBundle with lanes := [(0, laneOf r)] })] }
  { s.setCore 768 { houseCore 0 with crews := [(0, k)], tlb := [page] } with
    cur := ⟨768, 0, 0, 1, 0x1000, 0, false⟩, house := [(0, { (default : House) with inh := inh })] }
theorem witness_ProgramTraps :
    let s := one []
    let h := housed [] false
    s.act sx0 ≠ [] ∧ s.fresh ∧ s.trapWait = [] ∧ s.ringRoom s.tqSeq 0x116 = true ∧
      ({ s with tqSeq := 4096 } : State).ringRoom 4096 0x116 = false ∧ h.act sx0 ≠ [] ∧ h.cur.again = false ∧
      (h.bundle h.ref).stopped = none ∧ 768 ≤ h.cur.core ∧ (h.houseOf h.cur.core).inh = false ∧
      (h.houseOf h.cur.core).tpc.toNat % 16 = 0 ∧ ({ (h.houseOf h.cur.core) with tpc := 8 } : House).tpc.toNat % 16 ≠ 0 ∧
      ((housed [] true).houseOf 768).inh = true := by
  unfold State.fresh
  decide +kernel

/-- A small crew in slot 0 of core 0, that stands at its PC; and the area of its save at 0x20000, as large as it needs. -/
def small : Crew := { (default : Crew) with ver := 3, nreg := 8, slines := 1, nbundles := 1, bundles := [(0, bundleOf 1 fun _ => [])] }
def saving (va : Word) (size : Nat) : State :=
  let s := housed [(1, 0), (2, va)] false
  let s := s.setCore 0 { s.core 0 with crews := [(0, small)] }
  { s with mem := s.mem.writeNat 0x20038 8 size, kernels := [(0, default)] }
def areaOf (s : State) : List Byte :=
  let u := (s.stopGang 0 0).recall 0 0
  saveArea (u.core 0) 0 (u.crew 0 0) (u.cmdsBy 0 0)
theorem witness_CalendarAndContextSwitch_slotq :
    let s := one []
    noPorts sx0 = true ∧ s.gangClass = true ∧ sx0.d = .v 8 ∧ calUsed s.calendar = [] ∧ s.calPending = none ∧
      s.funcBit 4 = false ∧ (s.die 0).slot = .run ∧ (s.die 0).kept = [] ∧
      ({ s.die 0 with slot := .count 9 } : Die).slot = .count 9 ∧ (s.die 0).dcyc < 9 ∧ 9 - (s.die 0).dcyc < 2 ^ 32 ∧
      calUsed [(3, (0x10000000000000 : DWord))] ≠ [] := by decide +kernel
theorem witness_CalendarAndContextSwitch_save :
    let s := saving 0x20000 8192
    let w := (s.src32 sx0 0 sx0.a).toNat
    (s.act sx0).head? = some 0 ∧ 768 ≤ s.cur.core ∧ (s.houseOf s.cur.core).ptbase = 0 ∧ s.cur.again = false ∧
      (s.core s.cur.core).pend = [] ∧ (s.bundle s.ref).stopped = none ∧ (s.src64 sx0 false 0 sx0.b).toNat = 0x20000 ∧ w = 0 ∧ s.saveBad w = false ∧ s.issue = [] ∧ (s.crew 0 0).gang = none ∧
      (s.stopGang 0 0).drained 0 0 = true ∧ leNat (s.cells ((List.range 8).map fun i => 0x20000 + 56 + i)) = 8192 ∧
      0x20000 + 8192 ≤ 2 ^ 52 ∧ (housed [] false).saveBad 5 = true ∧
      ((saving 0x20010 0).src64 sx0 false 0 sx0.b).toNat % 4096 ≠ 0 ∧ (s.houseOf s.cur.core).inh = false := by decide +kernel
theorem witness_CalendarAndContextSwitch_area :
    64 ≤ (areaOf (saving 0x20000 8192)).length ∧ (areaOf (saving 0x20000 8192)).length ≤ 8192 := by
  have h : (areaOf (saving 0x20000 8192)).drop 63 ≠ [] := by decide +kernel
  exact ⟨Nat.lt_of_not_le fun g => h (List.drop_eq_nil_iff.2 g), List.drop_eq_nil_iff.1 (by decide +kernel)⟩
/-- An area whose bundle part is empty, at 0x20000. -/
def restoring : State :=
  let s := saving 0x20000 0
  { (s.setCore 0 { s.core 0 with crews := [] }) with
    mem := s.mem.writeNat 0x20000 64 (0xC5 + 2 ^ 8 + 288 * 2 ^ 256 + 288 * 2 ^ 288 + 1024 * 2 ^ 448),
    kernels := [(0, { (default : Kernel) with header := BitVec.ofNat 128 (3 + 8 + 2 ^ 8) })] }
theorem witness_CalendarAndContextSwitch_restore :
    let u := restoring
    let h := leNat (u.cells ((List.range 64).map fun i => 0x20000 + i))
    let kept := u.keptOf 0x20000 h
    0x20000 + 2 ^ 22 ≤ 2 ^ 52 ∧ headerOk h = true ∧ (find u.kernels (bits h 351 320)).isSome = true ∧
      u.restoreBad 0 (u.areaRd ((List.range (bits h 511 448)).map fun i => 0x20000 + i)) kept.1 = none ∧ kept.1.gang = none ∧
      kept.2.1 = [] ∧ kept.1.spills = [] ∧ headerOk 0 = false ∧ (saving 0x20000 0).hasCrew 0 0 = true := by decide +kernel

theorem witness_PickersAndRetirement :
    let s := four fun _ => []
    let z := s.setBundle ⟨0, 0, 0⟩ { s.bundle ⟨0, 0, 0⟩ with live := 0 }
    s.coreRuns 0 = true ∧ (s.core 0).turn = 0 ∧ (∀ k ∈ (s.core 0).crews, k.2.run ≠ .displacing) ∧
      (∀ b ∈ s.bundlesOf 0, (s.bundle b).parked = []) ∧ ⟨0, 0, 0⟩ ∈ s.bundlesOf 0 ∧ (s.beginCycle 0).readyLanes ⟨0, 0, 0⟩ ≠ [] ∧ s.issue = [] ∧
      s.hasBundle ⟨0, 0, 0⟩ = true ∧ 0 ∈ lanesOf 1 ∧ (find (s.bundle ⟨0, 0, 0⟩).lanes 0).isSome = true ∧
      (s.crew 0 0).run = .running ∧ (s.bundle ⟨0, 0, 0⟩).stopped = none ∧ z.hasBundle ⟨0, 0, 0⟩ = true ∧
      (z.bundle ⟨0, 0, 0⟩).live = 0 ∧ z.busyBundle ⟨0, 0, 0⟩ = false ∧ (z.crew 0 0).gang = none ∧
      (z.crew 0 0).barriers = [] ∧ (z.crew 0 0).run = .running ∧ (z.crew 0 0).bundles = [(0, z.bundle ⟨0, 0, 0⟩)] := by
  decide +kernel
def linePark : Park := ⟨0x1000, [(0, .line [(0, 0, 3)])], 15, 15, true, false, false⟩
def trapped : Stopped := ⟨0x1000, 1, 3, ⟨0x10, 5, 0, 0, 0⟩⟩
theorem witness_PickersAndRetirement_waits :
    let s := one []
    let held (u : Nat) := s.mapLanes s.ref [0] fun _ z => { z with hold := .stall u }
    let held' (u : Nat) := s.mapLanes s.ref [0] fun _ z => { z with hold := .replay u }
    let a := s.setCrew 0 0 { s.curCrew with async := [⟨0x43, 0, 0, 0, 0⟩] }
    let p := s.setBundle s.ref { s.bundle s.ref with parked := [linePark] }
    let t := s.setBundle s.ref { s.bundle s.ref with stopped := some trapped }
    ((held 0).lane s.ref 0).hold = .stall 0 ∧ ((held' 9).lane s.ref 0).hold = .replay 9 ∧ (s.core 0).cyc = 0 ∧
      (a.crew 0 0).async = ⟨0x43, 0, 0, 0, 0⟩ :: [] ∧ a.readyLanes ⟨0, 0, 0⟩ ≠ [] ∧ a.issue = [] ∧
      (p.bundle p.ref).parked = [linePark] ∧ p.line 0 0 3 = .full ∧ (p.bundle p.ref).stopped = none ∧
      (t.bundle t.ref).stopped = some trapped ∧ t.unposted t.ref = false ∧ t.hasBundle t.ref = true := by decide +kernel

/-- A kernel of one crew of one bundle: 8 registers, 1 line of scratchpad, class version 3. -/
def kernel1 : Kernel := { (default : Kernel) with acct := 0, code := 0x3000, header := BitVec.ofNat 128 (3 + 8 + 2 ^ 8 + 2 ^ 14) }
/-- The launch record of kernel 1 in domain 5, complete (R347, R353), with its report at 0x10040. -/
def record1 : Nat := 0x10040 * 2 ^ 64 + 2 ^ 128 + 5 * 2 ^ 192 + 2 ^ 204 + 0x53544E39 * 2 ^ 2016
def launch1 (rs : SMap RepSt) : Launch :=
  { (default : Launch) with rec_ := BitVec.ofNat 2048 record1, reps := rs, go := true }
def launching (rs : SMap RepSt) (t : Nat) : State :=
  let s := withDom (dom .opened t 0) []
  { s.setCore 0 (default : Core) with launches := [(9, launch1 rs)], kernels := [(1, kernel1)] }
theorem witness_PlacementOfLaunches :
    let s := launching [(0, .offered 0 0 0)] 0
    let h := launching [(0, .holding 0 0 0 [0] [] [])] 0
    let f := launching [(0, .holding 0 0 0 [0] [] [])] (2 ^ 64 - 1)
    let b := launching [(0, .backoff 0 1 0)] 0
    let y := launch1 [(0, .holding 0 0 0 [0] [] [])]
    let k := h.launchKernel y
    find s.launches 9 = some (launch1 [(0, .offered 0 0 0)]) ∧ s.blockedBy 9 (launch1 [(0, .offered 0 0 0)]) = false ∧
      s.funcBit 3 = false ∧ s.firstOrigin k 0 = some 0 ∧ find h.launches 9 = some y ∧ ((h.core 0).hold k 9 0).isSome = true ∧
      (h.core 0).holds = [] ∧ h.commitCheck y (recDom k y.r) (repMint k y.r) = none ∧
      f.commitCheck y (recDom k y.r) (repMint k y.r) = some 6 ∧
      ((h.setCore 0 { h.core 0 with crews := [(0, { small with slines := 8192 })] }).core 0).hold k 9 0 = none ∧
      0 ≤ (b.die 0).dcyc := by decide +kernel
theorem witness_PlacementOfLaunches_start :
    let s := launching [(0, .committed)] 0
    let s := s.setCore 0 { s.core 0 with crews := [(0, { small with run := .starting, lseq := 9 })] }
    let m := { s with qmsgs := [⟨.mint (some (9, 0)), 5, 1, ⟨0, 0, 0⟩, 0, false, []⟩] }
    s.hasCrew 0 0 = true ∧ (s.crew 0 0).run = .starting ∧ (s.crew 0 0).lseq = 9 ∧ (s.crew 0 0).replica = 0 ∧
      s.unminted 9 0 = false ∧ m.unminted 9 0 = true := by decide +kernel

def windowed (n : Nat) (r : Nat) : State :=
  { launching [] 0 with
    launches := [],
    windows := [(2, { (default : Window) with isOpen := true, queue := List.replicate n (BitVec.ofNat 2048 r, 0xFFFFFFFF) })] }
theorem witness_RecordsAndCompletion_windows :
    let s := windowed 1 record1
    let x := s.window 2
    s.pcieUp = true ∧ x.isOpen = true ∧ ([7] : List Byte) ≠ [] ∧ 0 + ([7] : List Byte).length ≤ 0xF8 ∧
      (List.replicate 256 (0 : Byte)).length = 256 ∧ x.queue.length < 16 ∧ 16 ≤ ((windowed 16 0).window 2).queue.length ∧
      (s.window 17).isOpen = false ∧ (s.window 3).queue = [] ∧
      (s.decideRec x.acct record1 0xFFFFFFFF).toOption = some [] ∧ (s.decideRec x.acct 0 0xFFFFFFFF).toOption = none ∧ s.promoting (recComp 0) = false := by
  decide +kernel
def session1 : Session := ⟨1, 2, 3, 4, 0, []⟩
def datagram1 (dseq : Nat) : List Byte :=
  leBytes (0x53444E39 + 2 ^ 32 + 2 ^ 40 + 20 * 2 ^ 48 + 3 * 2 ^ 64 + dseq * 2 ^ 96 + 256 * 2 ^ 128) 288
theorem witness_RecordsAndCompletion_session :
    let f := fun (b : List Byte) (o n : Nat) => leNat ((b.drop o).take n)
    let s := { State.reset with sessions := [(20, session1)] }
    ∀ d ∈ [4, 5], find s.sessions 20 = some session1 ∧ (datagram1 d).length = 288 ∧ f (datagram1 d) 6 2 = 20 ∧
      f (datagram1 d) 0 4 = 0x53444E39 ∧ f (datagram1 d) 4 1 = 1 ∧ f (datagram1 d) 5 1 = 1 ∧
      f (datagram1 d) 8 4 = session1.session.toNat ∧ f (datagram1 d) 16 2 = 256 ∧ f (datagram1 d) 18 14 = 0 ∧
      f (datagram1 d) 12 4 = d ∧ session1.dseq = 4 ∧ (s.window 20).queue.length < 16 := by decide +kernel
theorem witness_RecordsAndCompletion_complete :
    let y := launch1 [(0, .retired)]
    let s := launching y.reps 0
    let s := s.setCore 768 { s.core 768 with tlb := [page] }
    find s.launches 9 = some y ∧ (∀ e ∈ y.reps, e.2 = .retired) ∧ s.promoting (recComp y.r) = false ∧ y.r.testBit 242 = false ∧
      y.ended = none ∧ s.detBuf = [] ∧ recComp y.r = 0x10040 ∧ 0x10040 % 32 = 0 ∧ 0x10040 + 32 ≤ 2 ^ 52 ∧
      s.hubCells (recAcct y.r) (recComp y.r) 32 .write = some ((List.range 32).map fun i => 0x10040 + i) := by decide +kernel

/-! ### Translation, errors, maintenance, boot and the whole machine -/

/-- Four levels of tables for account 0 from 0x4000 down, with a leaf for the page at 0x30000 (R369). -/
def tables (m : Mem) : Mem :=
  ((((m.writeNat 56 8 0x4000).writeNat 0x4000 16 0x8001).writeNat 0x8000 16 0xC001).writeNat 0xC000 16 0x14001).writeNat
    0x14030 16 0x2001E
def fault1 (acc : Acc) (walking posted : Bool) : FaultEnt := ⟨⟨0, 0, 0⟩, 0, 0x30020, acc, 0, 0, false, 0, 0, 0, walking, posted⟩
def faultPark : Park := ⟨0x1000, [(0, .fault (some 2))], 15, 15, true, false, false⟩
def faulting (f : FaultEnt) : State :=
  let s := one []
  let s := s.setBundle s.ref { s.bundle s.ref with parked := [faultPark] }
  s.setCore 0 { s.core 0 with fbuf := [(2, f)] }
theorem witness_FaultsAndTranslation :
    let s := faulting (fault1 .read true false)
    let w := { s with mem := tables s.mem }
    let p := faulting (fault1 .write false false)
    let r := { s with mem := s.mem.writeNat 0 16 0x2001E }
    find (s.core 0).fbuf 2 = some (fault1 .read true false) ∧ s.walk 0 0 0x30020 = .fault 0 ∧
      w.walk 0 0 0x30020 = .leaf (leafOf 0 0x30020 0 0x2001E) ∧ (leafOf 0 0x30020 0 0x2001E).allows false .read = true ∧
      (s.bundle ⟨0, 0, 0⟩).parked = [faultPark] ∧ s.hasBundle ⟨0, 0, 0⟩ = true ∧ (s.bundle ⟨0, 0, 0⟩).stopped = none ∧
      (s.crew 0 0).run = .running ∧ (s.crew 0 0).sup = false ∧
      bits (r.mem.readNat (r.supReg 0x110).toNat 16) 1 0 = 2 ∧ entryBad 0 (r.mem.readNat (r.supReg 0x110).toNat 16) = false ∧
      find (p.core 0).fbuf 2 = some (fault1 .write false false) ∧ p.ringRoom p.fqSeq 0x113 = true := by decide +kernel
def tlbiPark : Park := ⟨0x1000, [(0, .engine (.tlbi 2 0 0 false))], 15, 3, false, false, false⟩
theorem witness_FaultsAndTranslation_tlbi :
    let s := one []
    let s := s.setBundle s.ref { s.bundle s.ref with parked := [tlbiPark] }
    s.stillHeld 2 0 0 false = false ∧ s.hasBundle s.ref = true ∧ (s.bundle s.ref).parked = [tlbiPark] := by decide +kernel

theorem witness_ErrorsAndLimits :
    let s := one []
    let o := s.setCore 0 { s.core 0 with tlb := [{ page with origin := some 0x50000 }] }
    let f := { s with origins := [(0x401, (0x10000, 65536, 0x50000))], refetch := [0x401] }
    let g := { s with gangs := [(0, { gang1 with flight := [packet 0 false] })] }
    let c := s.setCore 0 { s.core 0 with cyc := 1024 }
    s.refetch = [] ∧ s.refetched = [] ∧ s.originOf 0x401 = none ∧ o.originOf 0x401 = some (0x10000, 65536, 0x50000) ∧
      o.badShingles 0x401 = [] ∧ 3 ∉ s.cxlDown ∧ o.funcBit 6 = false ∧ 0x401 ≠ ((o.supReg 0x115).toNat + 64 * (o.tqSeq % 4096)) / 64 ∧ s.hasCrew 0 0 = true ∧
      3 < (s.crew 0 0).slines ∧ 3 < (s.crew 0 0).ntiles ∧ s.hasBundle ⟨0, 0, 0⟩ = true ∧
      (s.bundle ⟨0, 0, 0⟩).stopped = none ∧ (g.gangOf 0).flight[0]? = some (packet 0 false) ∧
      find f.origins 0x401 = some (0x10000, 65536, 0x50000) ∧ 0x401 ∈ f.refetch ∧ f.poison = [] ∧
      (c.core 0).farEpoch < (c.core 0).cyc / 1024 := by decide +kernel

def slot0 : SlotId := ⟨0, 0, 1⟩
/-- A calendar whose entry 0 is used in every frame; the sequencer in a state; host-assisted slots or not. -/
def slotted (q : Sequencer) (hosted : Bool) : State :=
  { State.reset with
    calendar := [(0, 0x1010000000020000)], seq := q, sup := if hosted then [(0x10B, 16)] else [] }
def seqAt (t : SeqSt) : Sequencer := { (default : Sequencer) with st := t, slot := slot0, drained := [0, 1, 2, 3] }
theorem witness_MaintenanceSlots :
    let s := slotted (seqAt .idle) false
    let h := slotted (seqAt .idle) true
    let c := { s with calendar := [], mem := s.mem.writeNat 0 8 0x1010000000020000 }
    s.seq.st = .idle ∧ s.funcBit 4 = false ∧ s.slotDue 0 0 = true ∧ h.funcBit 4 = true ∧
      (∀ d, d < 4 → d ∈ (seqAt .noticed).drained) ∧ 0 ∉ (default : Sequencer).drained ∧ (seqAt .open_).next = [] ∧ (seqAt .open_).asked = [] ∧
      ({ seqAt .open_ with next := [(slot0, [])] } : Sequencer).next = (slot0, []) :: [] ∧
      [(0, 0)] = [((seqAt .noticed).slot.entry, (seqAt .noticed).slot.rep)] ∧
      (calCheck c.readCalendar).1 = 1 ∧ (calCheck [(0, 0xF010000000020000)]).1 ≠ 1 ∧ s.calPending = none ∧
      ({ s with calPending := some ([], 1) } : State).calPending = some ([], 1) := by decide +kernel
theorem witness_MaintenanceSlots_dies :
    let at_ (d : Die) (q : Sequencer) := ({ slotted q false with dies := [(1, { d with slotId := slot0 })] } : State)
    let s := at_ { (default : Die) with slot := .run } { seqAt .noticed with notices := [(1, slot0, 10)], drains := [(1, slot0)] }
    let d := at_ { (default : Die) with slot := .drained } { seqAt .open_ with notices := [(1, slot0, 10)], opens := [(1, slot0)] }
    let h := at_ { (default : Die) with slot := .held, kept := [(slot0, 10, 5)] } { seqAt .idle with closes := [(1, slot0)] }
    let c := at_ { (default : Die) with slot := .count 3 } (seqAt .noticed)
    s.seq.notices = [(1, slot0, 10)] ∧ (s.die 1).slot = .run ∧ (d.die 1).slot ≠ .run ∧ (d.die 1).kept = [] ∧
      (c.die 1).slot = .count 3 ∧ (c.die 1).dcyc < 3 ∧ 3 ≤ ((c.setDie 1 { c.die 1 with dcyc := 3 }).die 1).dcyc ∧
      s.seq.drains = [(1, s.seq.slot)] ∧ s.seq.st = .noticed ∧ d.seq.opens = [(1, (d.die 1).slotId)] ∧
      (d.die 1).slot = .drained ∧ h.seq.closes = [(1, (h.die 1).slotId)] ∧ (h.die 1).slot = .held ∧
      (h.die 1).kept = (slot0, 10, 5) :: [] := by decide +kernel

def httpUrl : List Byte := [0x68, 0x74, 0x74, 0x70, 0x3A, 0x2F, 0x2F, 0x61]
def booting (n : Nat) (l : Option (BitVec 128 × List Byte)) : State :=
  { State.reset with boot := { (default : Boot) with tries := n, lease := l } }
/-- A kernel object of one kernel: its code of 16 bytes and its header (R331). -/
def object1 : List Byte :=
  leBytes (0x4D444F31 + 2 ^ 32 + 2 * 2 ^ 48 + 2 ^ 64) 32 ++ leBytes (1 + 96 * 2 ^ 64 + 16 * 2 ^ 128) 32 ++
    leBytes (2 + 112 * 2 ^ 64 + 16 * 2 ^ 128) 32 ++ leBytes 0 16 ++ leBytes (3 + 8 + 2 ^ 8 + 2 ^ 14) 16
def loading1 : State :=
  let s := housed [] false
  { s with objs := [(4, ⟨[4], [1]⟩)] }
theorem witness_BootAndManagement :
    let s := booting 0 none
    let r := { s with boot := { s.boot with phase := 1 } }
    let m := { s with boot := { s.boot with phase := 2 }, svn := 3 }
    let f := booting 0 (some (1, httpUrl))
    s.boot.phase = 0 ∧ s.boot.lease = none ∧ s.boot.tries < 5 ∧ 5 ≤ (booting 5 none).boot.tries ∧
      [0x68, 0x74, 0x74, 0x70, 0x3A, 0x2F, 0x2F] <+: httpUrl ∧ ¬[0x68, 0x74, 0x74, 0x70, 0x3A, 0x2F, 0x2F] <+: ([] : List Byte) ∧
      r.boot.phase = 1 ∧ f.boot.lease = some (1, httpUrl) ∧ m.pcieUp = true ∧ m.boot.phase = 2 ∧ m.busy = false ∧
      ({ m with mstatus := 1 } : State).busy = true ∧ (2#64).toNat % 2 ^ 32 = 2 ∧
      1 ≤ fieldAt (leBytes 2 128) 0 1 ∧ fieldAt (leBytes 2 128) 0 1 ≤ m.svn ∧ fieldAt (leBytes 2 128) 1 127 = 0 ∧
      m.svn < fieldAt (leBytes 4 128) 0 1 := by decide +kernel
theorem witness_BootAndManagement_image : imageCheck 0 [] [] = .error 5 := by rfl
theorem witness_BootAndManagement_objects :
    let s := loading1
    let u := { s with launches := [(9, { launch1 [] with rec_ := BitVec.ofNat 2048 (4 * 2 ^ 128) })] }
    (0x10000 : Nat) % 65536 = 0 ∧ s.objReady 0x10000 0x10000 [] = none ∧ s.objReady 0x10000 0x10000 object1 = some object1 ∧
      objKernels object1 = 1 ∧
      (s.placed 0 (objCode object1 0x10000 ++ objData object1 0x10000)).isSome = true ∧ objData object1 0x10000 = [] ∧
      s.hubRange 0 0x10010 3 .write = some ((List.range 3).map fun i => 0x10010 + i) ∧
      (s.hubRange 0 0x10010 3 .read).isSome = true ∧ s.pcieUp = true ∧ s.pages = [] ∧
      s.unloadable ⟨[4], [1]⟩ = true ∧ u.unloadable ⟨[4], [1]⟩ = false := by decide +kernel

/-- A course at 0x10040, with its word. -/
def fetching (w : BitVec 128) : State :=
  let s := one []
  { s with issue := [⟨0, 0, 0, 1, 0x10040, 0, false⟩], mem := s.mem.writeNat 0x10040 16 w.toNat }
def add123 : Instr := .iadd .s32 (x (.v 3) (.v 1) (.v 2) .none 0)
theorem witness_StepRunsTheDecodedInstruction :
    let s := fetching (encode add123)
    let w := bytesWord (s.cells ((List.range 16).map fun i => 0x10040 + i))
    let e := envOf s.curCrew
    let o (w : BitVec 128) := (w.extractLsb' 0 12).toNat
    s.hasBundle ⟨0, 0, 0⟩ = true ∧ (∀ p ∈ (List.range 16).map fun i => 0x10040 + i, s.cellPoison p = false ∧ s.refetching p = none) ∧
      outside 0x10040 16 = false ∧ (s.bundle s.ref).stopped = none ∧ add123.houseIllop = false ∧
      w = encode add123 ∧ decode w = some add123 ∧ classVer (o w / 256) ≤ e.ver ∧ add123.inLimits e = true ∧
      add123.privileged = false ∧ s.curCrew.async = [] ∧ s.hintHit add123 = false ∧
      classForms (o 0xFFF / 256) ≤ o 0xFFF % 256 ∧ o 0x100 % 256 < classForms (o 0x100 / 256) ∧ decode 0x0FF00000_00000000_1A000080_18047100 = none ∧
      (Instr.iadd .s32 (x (.v 200) (.v 1) (.v 2) .none 0)).inLimits e = false ∧ (Instr.eret cx).privileged = true ∧
      e.sup = false ∧ (Instr.iadd .s32 cx).shape.isSome = true ∧ (Instr.tlbiAll).shape = none ∧ s.agenda = [] := by
  decide +kernel
theorem witness_StepRunsTheDecodedInstruction_fetch :
    ((fetching 0).xlate ⟨0, 0, 0⟩ 0 0x10040 16 .fetch).toOption = some ⟨(List.range 16).map fun i => 0x10040 + i, [page], 0x10040⟩ := by
  decide +kernel
theorem witness_DecodeOfEncode : add123.wf = true ∧ decode (encode add123) = some add123 := by decide +kernel
theorem witness_MemoryStaysCanonical : State.reset.memOk ∧ (fetching 1).memOk := by
  constructor <;> (constructor <;> decide +kernel)
theorem witness_UserFormsKeepSupervisorState :
    let s := one []
    add123.shape.isSome = true ∧ add123.privileged = false ∧ s.cur.core < 768 ∧ add123.shape.isSome = true := by decide +kernel
theorem witness_UserFormsKeepSupervisorState_next : ∃ t, exec add123 (one []) = .next t := ⟨_, rfl⟩

end Sys2Proof.Tests
end

section
/-!
SUPPORT. The integer results of class 0x0 as operations on words of the form's own width (R57, R216, R217): each model
function, given operands that stand zero-extended in 64 bits, agrees in its low bits with the operation of `BitVec`.
-/

namespace Sys2Proof.Machine

/-! ### Reading and wrapping at a width -/

theorem tyWidth_eq (t : Ty) : tyWidth t = 32 * t.regs := by cases t <;> rfl

section
variable {w : Nat} (h64 : w ≤ 64)
include h64

theorem ux_setWidth (a : BitVec w) : ux w (a.setWidth 64) = a.toNat := by
  rw [ux, BitVec.toNat_setWidth_of_le h64, Nat.mod_eq_of_lt a.isLt]

theorem ux_setWidth_eq_zero (a : BitVec w) : ux w (a.setWidth 64) = 0 ↔ a = 0 := by
  rw [ux_setWidth h64, BitVec.toNat_eq]
  rfl

theorem sx_setWidth (a : BitVec w) : sx w (a.setWidth 64) = a.toInt := by
  have hhalf : a.toNat < 2 ^ (w - 1) ↔ 2 * a.toNat < 2 ^ w := by
    cases w with
    | zero => simp
    | succ k => rw [Nat.pow_succ, Nat.add_sub_cancel]; omega
  simp only [sx, ux_setWidth h64, BitVec.toInt_eq_toNat_cond, hhalf]

theorem setWidth_wrapNat (n : Nat) : (wrapNat w n).setWidth w = BitVec.ofNat w n := by
  rw [wrapNat, BitVec.setWidth_ofNat_of_le h64]
  exact BitVec.eq_of_toNat_eq (by simp)

theorem setWidth_wrapTo (z : Int) : (wrapTo w z).setWidth w = BitVec.ofInt w z := by
  rw [wrapTo, BitVec.setWidth_ofNat_of_le h64]
  refine BitVec.eq_of_toNat_eq ?_
  have hlt : (z % (2 ^ w : Nat)).toNat < 2 ^ w := by
    have hpos : 0 < 2 ^ w := Nat.two_pow_pos w
    omega
  rw [BitVec.toNat_ofNat, BitVec.toNat_ofInt, Nat.mod_eq_of_lt hlt]

end

theorem ofInt_neg_one (w : Nat) : BitVec.ofInt w (-1) = BitVec.allOnes w := by
  rw [BitVec.ofInt_neg, ← BitVec.neg_one_eq_allOnes]
  rfl

/-! ### Sums, products and signs at the width of the type -/

section
variable {w : Nat} {t : Ty} (hw : tyWidth t = w) (h64 : w ≤ 64)
include hw h64

theorem ex_setWidth_signed (hs : tySigned t = true) (a : BitVec w) : ex t (a.setWidth 64) = a.toInt := by
  rw [ex, if_pos hs, hw, sx_setWidth h64]

theorem ex_setWidth_unsigned (hs : tySigned t = false) (a : BitVec w) : ex t (a.setWidth 64) = (a.toNat : Int) := by
  rw [ex, hs, hw, ux_setWidth h64]; rfl

theorem iaddV_setWidth (a b : BitVec w) : (iaddV t (a.setWidth 64) (b.setWidth 64)).setWidth w = a + b := by
  rw [iaddV, hw, setWidth_wrapNat h64, BitVec.toNat_setWidth_of_le h64, BitVec.toNat_setWidth_of_le h64]
  simp [BitVec.ofNat_add]

theorem imulV_setWidth (a b : BitVec w) : (imulV t (a.setWidth 64) (b.setWidth 64)).setWidth w = a * b := by
  rw [imulV, hw, setWidth_wrapNat h64, BitVec.toNat_setWidth_of_le h64, BitVec.toNat_setWidth_of_le h64]
  simp [BitVec.ofNat_mul]

theorem imadV_setWidth (a b c : BitVec w) :
    (imadV t (a.setWidth 64) (b.setWidth 64) (c.setWidth 64)).setWidth w = a * b + c := by
  rw [imadV, hw, setWidth_wrapNat h64]
  simp [BitVec.toNat_setWidth_of_le h64, BitVec.ofNat_add, BitVec.ofNat_mul]

theorem isubV_setWidth (a b : BitVec w) : (isubV t (a.setWidth 64) (b.setWidth 64)).setWidth w = a - b := by
  rw [isubV, hw, setWidth_wrapTo h64, BitVec.toNat_setWidth_of_le h64, BitVec.toNat_setWidth_of_le h64]
  simp [Int.sub_eq_add_neg, BitVec.ofInt_add, BitVec.ofInt_neg, BitVec.sub_eq_add_neg]

theorem inegV_setWidth (a : BitVec w) : (inegV t (a.setWidth 64)).setWidth w = 0 - a := by
  rw [inegV, hw, setWidth_wrapTo h64, BitVec.toNat_setWidth_of_le h64]
  simp [BitVec.ofInt_neg]

theorem iabsV_setWidth (a : BitVec w) : (iabsV t (a.setWidth 64)).setWidth w = if a.msb then 0 - a else a := by
  rw [iabsV, hw, setWidth_wrapTo h64, sx_setWidth h64]
  cases hm : a.msb with
  | true =>
    have hneg : a.toInt < 0 := by rwa [BitVec.msb_eq_toInt, decide_eq_true_eq] at hm
    rw [Int.ofNat_natAbs_of_nonpos hneg.le, BitVec.ofInt_neg, BitVec.ofInt_toInt]
    simp
  | false =>
    have hpos : ¬ a.toInt < 0 := by rwa [BitVec.msb_eq_toInt, decide_eq_false_iff_not] at hm
    rw [Int.natAbs_of_nonneg (not_lt.1 hpos), BitVec.ofInt_toInt]
    simp

/-! ### Minimum and maximum -/

theorem iminV_setWidth_unsigned (hs : tySigned t = false) (a b : BitVec w) :
    (iminV t (a.setWidth 64) (b.setWidth 64)).setWidth w = if a.ule b then a else b := by
  simp only [iminV, ex_setWidth_unsigned hw h64 hs, hw, apply_ite (BitVec.setWidth w), setWidth_wrapTo h64]
  simp [BitVec.ule]

theorem imaxV_setWidth_unsigned (hs : tySigned t = false) (a b : BitVec w) :
    (imaxV t (a.setWidth 64) (b.setWidth 64)).setWidth w = if b.ule a then a else b := by
  simp only [imaxV, ex_setWidth_unsigned hw h64 hs, hw, apply_ite (BitVec.setWidth w), setWidth_wrapTo h64]
  simp [BitVec.ule]

theorem iminV_setWidth_signed (hs : tySigned t = true) (a b : BitVec w) :
    (iminV t (a.setWidth 64) (b.setWidth 64)).setWidth w = if a.sle b then a else b := by
  simp only [iminV, ex_setWidth_signed hw h64 hs, hw, apply_ite (BitVec.setWidth w), setWidth_wrapTo h64]
  simp [BitVec.sle]

theorem imaxV_setWidth_signed (hs : tySigned t = true) (a b : BitVec w) :
    (imaxV t (a.setWidth 64) (b.setWidth 64)).setWidth w = if b.sle a then a else b := by
  simp only [imaxV, ex_setWidth_signed hw h64 hs, hw, apply_ite (BitVec.setWidth w), setWidth_wrapTo h64]
  simp [BitVec.sle]

/-! ### Division and remainder (R57) -/

theorem idivV_setWidth_unsigned (hs : tySigned t = false) (a b : BitVec w) :
    (idivV t (a.setWidth 64) (b.setWidth 64)).setWidth w = if b = 0 then BitVec.allOnes w else a / b := by
  have hq : BitVec.ofInt w ((a.toNat : Int).tdiv b.toNat) = a / b := by
    rw [← Int.ofNat_tdiv, BitVec.ofInt_natCast]
    exact BitVec.eq_of_toNat_eq (by simp [Nat.mod_eq_of_lt (Nat.lt_of_le_of_lt (Nat.div_le_self _ _) a.isLt)])
  simp only [idivV, hw, ux_setWidth_eq_zero h64, ex_setWidth_unsigned hw h64 hs, apply_ite (BitVec.setWidth w),
    setWidth_wrapTo h64, hq, ofInt_neg_one]

theorem iremV_setWidth_unsigned (hs : tySigned t = false) (a b : BitVec w) :
    (iremV t (a.setWidth 64) (b.setWidth 64)).setWidth w = if b = 0 then a else a % b := by
  have hr : BitVec.ofInt w ((a.toNat : Int).tmod b.toNat) = a % b := by
    rw [← Int.ofNat_tmod, BitVec.ofInt_natCast]
    exact BitVec.eq_of_toNat_eq (by simp [Nat.mod_eq_of_lt (Nat.lt_of_le_of_lt (Nat.mod_le _ _) a.isLt)])
  simp only [iremV, hw, ux_setWidth_eq_zero h64, ex_setWidth_unsigned hw h64 hs, apply_ite (BitVec.setWidth w),
    setWidth_wrapTo h64, hr, setWidth_wrapNat h64, BitVec.toNat_setWidth_of_le h64, BitVec.ofNat_toNat, BitVec.setWidth_eq]

theorem idivV_setWidth_signed (hs : tySigned t = true) (a b : BitVec w) :
    (idivV t (a.setWidth 64) (b.setWidth 64)).setWidth w = if b = 0 then BitVec.allOnes w else a.sdiv b := by
  have hq : BitVec.ofInt w (a.toInt.tdiv b.toInt) = a.sdiv b :=
    BitVec.eq_of_toInt_eq (by rw [BitVec.toInt_ofInt, BitVec.toInt_sdiv])
  simp only [idivV, hw, ux_setWidth_eq_zero h64, ex_setWidth_signed hw h64 hs, apply_ite (BitVec.setWidth w),
    setWidth_wrapTo h64, hq, ofInt_neg_one]

theorem iremV_setWidth_signed (hs : tySigned t = true) (a b : BitVec w) :
    (iremV t (a.setWidth 64) (b.setWidth 64)).setWidth w = if b = 0 then a else a.srem b := by
  have hr : BitVec.ofInt w (a.toInt.tmod b.toInt) = a.srem b := by
    rw [← BitVec.toInt_srem, BitVec.ofInt_toInt]
  simp only [iremV, hw, ux_setWidth_eq_zero h64, ex_setWidth_signed hw h64 hs, apply_ite (BitVec.setWidth w),
    setWidth_wrapTo h64, hr, setWidth_wrapNat h64, BitVec.toNat_setWidth_of_le h64, BitVec.ofNat_toNat, BitVec.setWidth_eq]

end

/-! ### Products of 32-bit operands at 64 bits -/

theorem ex_s32 (a : Word) : ex .s32 (a.setWidth 64) = a.toInt := ex_setWidth_signed (t := .s32) rfl (by decide) rfl a
theorem ex_n32 (a : Word) : ex .n32 (a.setWidth 64) = (a.toNat : Int) :=
  ex_setWidth_unsigned (t := .n32) rfl (by decide) rfl a

/-- Bits 63 to 32 of a number read at 64 bits. -/
theorem ofInt_high_half (z : Int) :
    BitVec.ofInt 32 (z / (2 ^ 32 : Nat)) = ((BitVec.ofInt 64 z) >>> 32).setWidth 32 := by
  refine BitVec.eq_of_toNat_eq ?_
  simp only [BitVec.toNat_ofInt, BitVec.toNat_setWidth, BitVec.toNat_ushiftRight, Nat.shiftRight_eq_div_pow]
  omega

theorem imulhV_s32 (a b : Word) : (imulhV .s32 (a.setWidth 64) (b.setWidth 64)).setWidth 32 =
    ((a.signExtend 64 * b.signExtend 64) >>> 32).setWidth 32 := by
  rw [imulhV, setWidth_wrapTo (by decide), ex_s32, ex_s32,
    ofInt_high_half, BitVec.ofInt_mul]
  rfl

theorem imulhV_n32 (a b : Word) : (imulhV .n32 (a.setWidth 64) (b.setWidth 64)).setWidth 32 =
    ((a.setWidth 64 * b.setWidth 64) >>> 32).setWidth 32 := by
  rw [imulhV, setWidth_wrapTo (by decide), ex_n32, ex_n32, ofInt_high_half, BitVec.ofInt_mul]
  simp

theorem imadwV_s32 (a b : Word) (c : DWord) :
    imadwV .s32 (a.setWidth 64) (b.setWidth 64) c = a.signExtend 64 * b.signExtend 64 + c := by
  rw [imadwV, ex_s32, ex_s32,
    ← BitVec.setWidth_eq (wrapTo _ _), setWidth_wrapTo (by decide), BitVec.ofInt_add, BitVec.ofInt_mul]
  simp [BitVec.signExtend]

theorem imadwV_n32 (a b : Word) (c : DWord) :
    imadwV .n32 (a.setWidth 64) (b.setWidth 64) c = a.setWidth 64 * b.setWidth 64 + c := by
  rw [imadwV, ex_n32, ex_n32,
    ← BitVec.setWidth_eq (wrapTo _ _), setWidth_wrapTo (by decide), BitVec.ofInt_add, BitVec.ofInt_mul]
  simp

end Sys2Proof.Machine
end

section
/-!
SUPPORT. What a lane instruction leaves: its result in the registers it names, its carry, and FSTAT; then the same for
the instructions that compute one value from sources of one width.
-/

namespace Sys2Proof.Machine

/-! ### Predicates and registers of a lane -/

@[simp] theorem Lane.setPred_v1 (z : Lane) (p : Fin 8) (v : Bool) (k : Nat) : (z.setPred p v).v1 k = z.v1 k := by
  unfold Lane.setPred; split <;> rfl

/-- A predicate read after a write of one; p7 is left out, as it keeps no value (R14). -/
theorem Lane.pred_setPred (z : Lane) (p q : Fin 8) (v : Bool) (hq : q ≠ 7) :
    (z.setPred p v).pred q = if q = p then v else z.pred q := by
  by_cases hp : p = 7
  · simp [Lane.setPred, hp, hq]
  · have hbit : (1#8 <<< p.val).getLsbD q.val = decide (q = p) := by
      rw [← BitVec.twoPow_eq, BitVec.getLsbD_twoPow]
      simp [Fin.ext_iff, p.isLt, eq_comm]
    have hq7 : (q == 7) = false := by simpa using hq
    rw [Lane.setPred, if_neg hp, Lane.pred, Lane.pred, hq7, Bool.false_or, Bool.false_or, BitVec.getLsbD_or,
      BitVec.getLsbD_and, BitVec.getLsbD_not, hbit, apply_ite (BitVec.getLsbD · q.val), hbit]
    by_cases h : q = p <;> simp [h]

theorem mapLanes_lane (s : State) (b : BRef) (ls : List Nat) (f : Nat → Lane → Lane) (hn : ls.Nodup) (l : Nat) :
    (s.mapLanes b ls f).lane b l = if l ∈ ls then f l (s.lane b l) else s.lane b l := by
  unfold State.mapLanes
  rw [lane_setBundle, Bundle.lane_mapLanes _ _ _ _ hn]
  rfl

theorem writePred_v1 (s : State) (act : List Nat) (o : Opnd) (v : Nat → Bool) (hn : act.Nodup) (l k : Nat) :
    ((s.writePred s.ref act o v).lane s.ref l).v1 k = (s.lane s.ref l).v1 k := by
  unfold State.writePred
  split
  · rw [mapLanes_lane _ _ _ _ hn]
    split
    · exact Lane.setPred_v1 _ _ _ _
    · rfl
  · rfl

theorem writePred_pred (s : State) (act : List Nat) (o : Opnd) (v : Nat → Bool) (hn : act.Nodup) {l : Nat} (hl : l ∈ act)
    (q : Fin 8) (hq : q ≠ 7) :
    ((s.writePred s.ref act o v).lane s.ref l).pred q = if o = .p q then v l else (s.lane s.ref l).pred q := by
  unfold State.writePred
  split
  · next p =>
    rw [mapLanes_lane _ _ _ _ hn, if_pos hl, Lane.pred_setPred _ _ _ _ hq]
    simp only [Opnd.p.injEq, eq_comm]
  · next h => rw [if_neg (h q)]

theorem writeV_pred (s : State) (act : List Nat) (n : Nat) (vals : Nat → List Word) (hn : act.Nodup) (l : Nat) (q : Fin 8) :
    ((s.writeV s.ref act n vals).lane s.ref l).pred q = (s.lane s.ref l).pred q := by
  unfold State.writeV
  rw [mapLanes_lane _ _ _ _ hn]
  split <;> rfl

/-! ### FSTAT of the course's bundle -/

theorem mapLanes_fstat (s : State) (b : BRef) (ls : List Nat) (f : Nat → Lane → Lane) :
    ((s.mapLanes b ls f).bundle b).fstat = (s.bundle b).fstat := by
  unfold State.mapLanes
  rw [bundle_setBundle, Bundle.mapLanes_eq]

theorem writePred_fstat (s : State) (b : BRef) (act : List Nat) (o : Opnd) (v : Nat → Bool) :
    ((s.writePred b act o v).bundle b).fstat = (s.bundle b).fstat := by
  unfold State.writePred
  split
  · exact mapLanes_fstat _ _ _ _
  · rfl

theorem writeDst_fstat (s : State) (x : Args) (t : Taken) (act : List Nat) (r : Nat) (v : Nat → List Word)
    (hq : ∀ n, x.d ≠ .q n) : ((s.writeDst s.ref x t act r v).bundle s.ref).fstat = (s.bundle s.ref).fstat := by
  unfold State.writeDst
  split
  · exact mapLanes_fstat _ _ _ _
  · next n _ =>
    split
    · rfl
    · next l _ =>
      obtain ⟨c, w, h⟩ := writeC_eq s s.ref n.val (v l)
      rw [h]
      simp [State.bundle]
  · next n hn => exact absurd hn (hq n)
  · rfl

theorem results_fstat (s : State) (sh : Shape) (x : Args) (t : Taken) (act : List Nat) (outs : List (Nat × LOut))
    (hq : ∀ n, x.d ≠ .q n) : ((s.results sh x t act outs).bundle s.ref).fstat = (s.bundle s.ref).fstat := by
  unfold State.results
  dsimp only
  split <;> split <;> simp only [writePred_fstat, writeDst_fstat _ _ _ _ _ _ hq]

theorem finish_fstat (s : State) (x : Args) (d : Bool) :
    ((s.finish x d).bundle s.ref).fstat = (s.bundle s.ref).fstat := by
  unfold State.finish State.finishTo
  rw [bundle_setBundle, Bundle.marks_eq, Bundle.mapLanes_eq]

/-- A commit raises in FSTAT the flags it is given, and no other (R64). -/
theorem commit_fstat (s : State) (sh : Shape) (x : Args) (act : List Nat) (tags : List (Nat × Tag))
    (outs : List (Nat × LOut)) (fl : FFlags) (hp : noPorts x = true) (hg : s.curCrew.byTags = false) :
    ((s.commit sh x noneTaken act tags outs fl).bundle s.ref).fstat = (s.bundle s.ref).fstat ||| fl := by
  have hr : (s.results sh x noneTaken act outs).ref = s.ref := (results_frame s sh x noneTaken act outs (noPorts_d hp)).ref
  have hb : ((s.beforeEnd sh x act tags outs fl).bundle s.ref).fstat = (s.bundle s.ref).fstat ||| fl := by
    simp [State.beforeEnd, State.raise, hr, Bundle.setTags, results_fstat s sh x noneTaken act outs (noPorts_d hp)]
  rw [commit_eq _ _ _ _ _ _ _ hp hg, ← hb, ← atCourse_ref (beforeEnd_frame s sh x act tags outs fl hp)]
  exact finish_fstat _ _ _

/-! ### Completion -/

/-- A finished course stands at the next word. -/
theorem finish_passed (s : State) (x : Args) (d : Bool) : s.passed (s.finish x d) := by
  intro l hl
  unfold State.finish
  rw [finishTo_lane, if_pos hl]

theorem commit_passed (s : State) (sh : Shape) (x : Args) (act : List Nat) (tags : List (Nat × Tag))
    (outs : List (Nat × LOut)) (fl : FFlags) (hp : noPorts x = true) (hg : s.curCrew.byTags = false) :
    s.passed (s.commit sh x noneTaken act tags outs fl) := by
  intro l hl
  rw [commit_lane _ _ _ _ _ _ _ hp hg]
  simp only [hl, if_true]

/-- An instruction of a crew of the gang class does not wait for storage (R25). -/
theorem withRoom_gang (s : State) (x : Args) (act : List Nat) (tags : List (Nat × Tag)) (k : State → Out)
    (hg : s.curCrew.byTags = false) : s.withRoom x act tags k = k s := by
  unfold State.withRoom State.reserve
  rw [show (s.crew s.ref.core s.ref.slot).byTags = false from hg]
  rfl

/-! ### Results of the lanes -/

/-- What each lane predicated on brings to an instruction of this shape that names no port. -/
abbrev State.brings (s : State) (sh : Shape) (x : Args) (sgn : Bool) (l : Nat) : LIn :=
  s.laneIn s.ref noneTaken sh x sgn (s.act x) l

/-- The results of an instruction that acts on each lane by itself, in the lanes predicated on. -/
def State.laneOuts (s : State) (sh : Shape) (x : Args) (sgn : Bool) (f : LIn → LOut) : List (Nat × LOut) :=
  (s.act x).map fun l => (l, f (s.brings sh x sgn l))

theorem outOf_laneOuts (s : State) (sh : Shape) (x : Args) (sgn : Bool) (f : LIn → LOut) {l : Nat} (hl : l ∈ s.act x) :
    outOf (s.laneOuts sh x sgn f) l = f (s.brings sh x sgn l) := by
  unfold outOf State.laneOuts
  generalize s.act x = ls at hl
  rw [List.find?_map]
  have hf : ls.find? ((fun e : Nat × LOut => e.1 == l) ∘ fun m => (m, f (s.brings sh x sgn m))) = some l := by
    induction ls with
    | nil => simp at hl
    | cons m r ih =>
      by_cases h : m = l
      · exact (List.find?_cons_of_pos (by simp [h])).trans (congrArg some h)
      · exact (List.find?_cons_of_neg (by simp [h])).trans (ih (by simpa [Ne.symm h] using hl))
  rw [hf]
  rfl

/-- The lanes predicated on are those of the course that an instruction computes for. -/
theorem filter_on_laneIn (s : State) (sh : Shape) (x : Args) (sgn : Bool) :
    (s.lanes.map (s.brings sh x sgn)).filter LIn.on = (s.act x).map (s.brings sh x sgn) := by
  rw [List.filter_map]
  congr 1
  unfold State.act
  refine List.filter_congr fun l hl => ?_
  simp [State.brings, State.laneIn, State.act, hl]

/-- An instruction that acts on each lane by itself commits the results of its lanes. -/
theorem alu_commits (s : State) (i : Instr) (x : Args) (sgn : Bool) (rule : TagRule) (f : LIn → LOut) {sh : Shape}
    (hs : i.shape = some sh) (hp : noPorts x = true) (hg : s.curCrew.byTags = false) :
    ∃ tags, s.alu i x sgn rule f = .next (s.commit sh x noneTaken (s.act x) tags (s.laneOuts sh x sgn f)
      ((s.laneOuts sh x sgn f).foldl (fun a e => a ||| e.2.fl) 0)) := by
  obtain ⟨tags, h⟩ := aluG_commits s i x sgn rule (fun ls =>
    let outs := (ls.filter LIn.on).map fun e => (e.lane, f e)
    (outs, outs.foldl (fun a e => a ||| e.2.fl) 0)) hp hg
  have ho : ((s.lanes.map (s.brings sh x sgn)).filter LIn.on).map (fun e => (e.lane, f e)) = s.laneOuts sh x sgn f := by
    rw [filter_on_laneIn, List.map_map]
    rfl
  refine ⟨tags, ?_⟩
  rw [State.alu, h, hs]
  simp only [Option.getD_some, ho]

theorem foldl_no_flags (ls : List Nat) (g : Nat → LOut) (h : ∀ l, (g l).fl = 0) :
    (ls.map fun l => (l, g l)).foldl (fun a e => a ||| e.2.fl) 0 = (0 : FFlags) := by
  induction ls with
  | nil => rfl
  | cons m r ih => simpa [h] using ih

/-- An instruction whose lanes raise no flag completes with FSTAT as it was. -/
theorem alu_completes_fstat (s : State) (i : Instr) (x : Args) (sgn : Bool) (rule : TagRule) (f : LIn → LOut) {sh : Shape}
    (hs : i.shape = some sh) (hp : noPorts x = true) (hg : s.curCrew.byTags = false) (hf : ∀ j, (f j).fl = 0) :
    ∃ t, s.alu i x sgn rule f = .next t ∧ s.atCourse t ∧ s.passed t ∧ (t.bundle s.ref).fstat = (s.bundle s.ref).fstat := by
  obtain ⟨tags, h⟩ := alu_commits s i x sgn rule f hs hp hg
  refine ⟨_, h, commit_frame _ _ _ _ _ _ _ hp hg, commit_passed _ _ _ _ _ _ _ hp hg, ?_⟩
  rw [commit_fstat _ _ _ _ _ _ _ hp hg, State.laneOuts, foldl_no_flags _ _ fun _ => hf _]
  exact BitVec.or_zero

/-- What an instruction writes whose destination is a v-register: its words, and its carry where it has one. -/
theorem results_vDst (s : State) (sh : Shape) (x : Args) (t : Taken) (act : List Nat) (outs : List (Nat × LOut))
    {n : Fin 248} (hd : x.d = .v n) (hk : sh.d.kind = .dst) : s.results sh x t act outs =
      let s2 := s.writeV s.ref act n.val fun l => wordsOf sh.d.regs (outOf outs l).val
      if sh.c.kind == .pzCarry then s2.writePred s2.ref act x.c fun l => (outOf outs l).pred else s2 := by
  simp only [State.results, State.writeDst, hk, hd, show (Kind.dst == Kind.predDst) = false from rfl, Bool.false_eq_true,
    if_false]
  rfl

/-- A v-destination takes the words of the result. -/
theorem results_v1 (s : State) (sh : Shape) (x : Args) (t : Taken) (act : List Nat) (outs : List (Nat × LOut))
    {n : Fin 248} (hd : x.d = .v n) (hk : sh.d.kind = .dst) (hn : act.Nodup) {l : Nat} (hl : l ∈ act) (j : Nat)
    (hj : j < (wordsOf sh.d.regs (outOf outs l).val).length) :
    ((s.results sh x t act outs).lane s.ref l).v1 (n.val + j) = (wordsOf sh.d.regs (outOf outs l).val).getD j 0 := by
  have hv := writeV_v1 s act n.val (fun l => wordsOf sh.d.regs (outOf outs l).val) hn l (n.val + j)
  rw [if_pos ⟨hl, by omega, by omega⟩, Nat.add_sub_cancel_left] at hv
  rw [results_vDst s sh x t act outs hd hk, ← hv]
  dsimp only
  split
  · exact writePred_v1 _ act x.c _ hn l _
  · rfl

/-- An instruction with a v-destination writes a predicate only as its carry. -/
theorem results_carry (s : State) (sh : Shape) (x : Args) (t : Taken) (act : List Nat) (outs : List (Nat × LOut))
    {n : Fin 248} (hd : x.d = .v n) (hk : sh.d.kind = .dst) (hc : sh.c.kind = .pzCarry) (hn : act.Nodup) {l : Nat}
    (hl : l ∈ act) (q : Fin 8) (hq : q ≠ 7) :
    ((s.results sh x t act outs).lane s.ref l).pred q =
      if x.c = .p q then (outOf outs l).pred else (s.lane s.ref l).pred q := by
  rw [results_vDst s sh x t act outs hd hk, hc,
    ← writeV_pred s act n.val (fun l => wordsOf sh.d.regs (outOf outs l).val) hn l q]
  exact writePred_pred _ act x.c _ hn hl q hq

end Sys2Proof.Machine
end

section
/-!
PROOF. O2: integer sums, products, minimum, maximum, carry, division and remainder at both widths, with FSTAT as it was.
-/

namespace Sys2Proof.Machine

/-! ### Operands by width -/

/-- A 32-bit operand stands zero-extended in what a lane brings. -/
theorem rd_one (s : State) (x : Args) (sgn : Bool) (l : Nat) (o : Opnd) :
    s.rd s.ref noneTaken x sgn 1 l o = (s.src32 x l o).setWidth 64 := by
  cases o with
  | p k =>
    simp only [State.src32, State.rd]
    split <;> rfl
  | _ => simp [State.src32, State.rd, Taken.elem]

/-- A 64-bit operand is what a lane brings. -/
theorem rd_two (s : State) (x : Args) (sgn : Bool) (l : Nat) (o : Opnd) :
    s.rd s.ref noneTaken x sgn 2 l o = s.src64 x sgn l o := rfl

/-- A pair holds the two words of its value (R13). -/
theorem words_append (v : DWord) : ((v >>> 32).setWidth 32 ++ v.setWidth 32 : DWord) = v := by
  refine BitVec.eq_of_getLsbD_eq fun k hk => ?_
  rw [BitVec.getLsbD_append]
  split
  · next h => simp [h]
  · next h =>
    rw [BitVec.getLsbD_setWidth, BitVec.getLsbD_ushiftRight, show 32 + (k - 32) = k by omega]
    simp [show k - 32 < 32 by omega]

/-- What a lane carries into `IADDC`: the predicate its third source names, or 0 for any other operand (R217). -/
def State.carryIn (s : State) (x : Args) (l : Nat) : Nat := if s.rdPred s.ref l x.c then 1 else 0

theorem carryIn_eq (s : State) (x : Args) (l : Nat) : s.carryIn x l =
    match x.c with
    | .p p => if p = 7 ∨ (s.lane s.ref l).p.getLsbD p then 1 else 0
    | _ => 0 := by
  unfold State.carryIn State.rdPred
  cases x.c with
  | p k => simp [Lane.pred]
  | _ => rfl

/-! ### Forms with one result -/

theorem byTags_of_gangClass {s : State} (hg : s.gangClass = true) : s.curCrew.byTags = false := by
  simpa [State.gangClass] using hg

section
variable {s : State} {x : Args} {n : Fin 248} (hp : noPorts x = true) (hg : s.gangClass = true) (hd : x.d = .v n)
  {i : Instr} {sgn : Bool} {rule : TagRule}
include hp hg hd

/-- The result and the carry of an instruction that acts on each lane by itself, whose destination is a v-register. -/
theorem alu_result {sh : Shape} {f : LIn → LOut} (hi : exec i s = s.alu i x sgn rule f) (hs : i.shape = some sh)
    (hk : sh.d.kind = .dst) :
    ∃ t, exec i s = .next t ∧ s.passed t ∧ ∀ l ∈ s.act x,
      (∀ j < (wordsOf sh.d.regs (f (s.brings sh x sgn l)).val).length,
        (t.lane s.ref l).v1 (n.val + j) = (wordsOf sh.d.regs (f (s.brings sh x sgn l)).val).getD j 0) ∧
      (sh.c.kind = .pzCarry → ∀ q : Fin 8, q ≠ 7 → (t.lane s.ref l).pred q =
        if x.c = .p q then (f (s.brings sh x sgn l)).pred else (s.lane s.ref l).pred q) := by
  have hq := byTags_of_gangClass hg
  obtain ⟨tags, h⟩ := alu_commits s i x sgn rule f hs hp hq
  refine ⟨_, hi.trans h, commit_passed _ _ _ _ _ _ _ hp hq, fun l hl => ?_⟩
  rw [commit_lane _ _ _ _ _ _ _ hp hq]
  simp only [s.act_subset x hl, if_true, ← outOf_laneOuts s sh x sgn f hl]
  exact ⟨fun j hj => results_v1 s sh x _ _ _ hd hk (s.act_nodup x) hl j hj,
    fun hc q hq7 => results_carry s sh x _ _ _ hd hk hc (s.act_nodup x) hl q hq7⟩

/-- `alu_result` for a destination of one register. -/
theorem alu_result32 {sh : Shape} {f : LIn → LOut} (hi : exec i s = s.alu i x sgn rule f) (hs : i.shape = some sh)
    (hk : sh.d = ⟨.dst, 1⟩) :
    ∃ t, exec i s = .next t ∧ s.passed t ∧ ∀ l ∈ s.act x,
      (t.lane s.ref l).v1 n = (f (s.brings sh x sgn l)).val.setWidth 32 ∧
      (sh.c.kind = .pzCarry → ∀ q : Fin 8, q ≠ 7 → (t.lane s.ref l).pred q =
        if x.c = .p q then (f (s.brings sh x sgn l)).pred else (s.lane s.ref l).pred q) := by
  obtain ⟨t, ht, hpass, h⟩ := alu_result hp hg hd hi hs (by rw [hk])
  rw [hk] at h
  exact ⟨t, ht, hpass, fun l hl => ⟨(h l hl).1 0 Nat.one_pos, (h l hl).2⟩⟩

/-- `alu_result` for a destination of a pair. -/
theorem alu_result64 {sh : Shape} {f : LIn → LOut} (hi : exec i s = s.alu i x sgn rule f) (hs : i.shape = some sh)
    (hk : sh.d = ⟨.dst, 2⟩) :
    ∃ t, exec i s = .next t ∧ s.passed t ∧ ∀ l ∈ s.act x,
      (t.lane s.ref l).v2 n = (f (s.brings sh x sgn l)).val ∧
      (sh.c.kind = .pzCarry → ∀ q : Fin 8, q ≠ 7 → (t.lane s.ref l).pred q =
        if x.c = .p q then (f (s.brings sh x sgn l)).pred else (s.lane s.ref l).pred q) := by
  obtain ⟨t, ht, hpass, h⟩ := alu_result hp hg hd hi hs (by rw [hk])
  rw [hk] at h
  refine ⟨t, ht, hpass, fun l hl => ⟨?_, (h l hl).2⟩⟩
  have hlo := (h l hl).1 0 Nat.two_pos
  have hhi := (h l hl).1 1 Nat.one_lt_two
  rw [Nat.add_zero] at hlo
  rw [Lane.v2, hlo, hhi]
  exact words_append _

theorem alu_writes32 {sh : Shape} {f : LIn → LOut} (hi : exec i s = s.alu i x sgn rule f) (hs : i.shape = some sh)
    (hk : sh.d = ⟨.dst, 1⟩) {g : Nat → Word} (hv : ∀ l, (f (s.brings sh x sgn l)).val.setWidth 32 = g l) :
    writes32 s i x n g := by
  obtain ⟨t, ht, hpass, h⟩ := alu_result32 hp hg hd hi hs hk
  exact ⟨t, ht, hpass, fun l hl => (h l hl).1.trans (hv l)⟩

theorem alu_writes64 {sh : Shape} {f : LIn → LOut} (hi : exec i s = s.alu i x sgn rule f) (hs : i.shape = some sh)
    (hk : sh.d = ⟨.dst, 2⟩) {g : Nat → DWord} (hv : ∀ l, (f (s.brings sh x sgn l)).val = g l) :
    writes64 s i x n g := by
  obtain ⟨t, ht, hpass, h⟩ := alu_result64 hp hg hd hi hs hk
  exact ⟨t, ht, hpass, fun l hl => (h l hl).1.trans (hv l)⟩

/-- A form of one type with two sources, at 32 bits: `V` gives in its low word the operation `op`. -/
theorem binary_writes32 {V : DWord → DWord → DWord} {op : Word → Word → Word} {o v r : Nat} {pr : Bool} {c : Slot}
    (hi : exec i s = s.alu i x sgn rule fun j => { val := V j.a j.b })
    (hs : i.shape = some ⟨o, v, pr, ⟨.dst, r⟩, ⟨.src, r⟩, ⟨.src, r⟩, c⟩) (hr : r = 1)
    (hV : ∀ a b : Word, (V (a.setWidth 64) (b.setWidth 64)).setWidth 32 = op a b) :
    writes32 s i x n fun l => op (s.src32 x l x.a) (s.src32 x l x.b) := by
  subst hr
  exact alu_writes32 hp hg hd hi hs rfl fun l => by simp only [State.laneIn, rd_one, hV]

/-- A form of one type with two sources, at 64 bits. -/
theorem binary_writes64 {V op : DWord → DWord → DWord} {o v r : Nat} {pr : Bool} {c : Slot}
    (hi : exec i s = s.alu i x sgn rule fun j => { val := V j.a j.b })
    (hs : i.shape = some ⟨o, v, pr, ⟨.dst, r⟩, ⟨.src, r⟩, ⟨.src, r⟩, c⟩) (hr : r = 2)
    (hV : ∀ a b : DWord, (V (a.setWidth 64) (b.setWidth 64)).setWidth 64 = op a b) :
    writes64 s i x n fun l => op (s.src64 x sgn l x.a) (s.src64 x sgn l x.b) := by
  subst hr
  simp only [BitVec.setWidth_eq] at hV
  exact alu_writes64 hp hg hd hi hs rfl fun l => hV _ _

/-! ### Carry (R217) -/

/-- `IADDC` at 32 bits. -/
theorem iaddc_result32 {t : Ty} (hr : t.regs = 1) :
    let full := fun l => (s.src32 x l x.a).toNat + (s.src32 x l x.b).toNat + s.carryIn x l
    ∃ u, exec (.iaddc t x) s = .next u ∧ s.passed u ∧
      ∀ l ∈ s.act x, (u.lane s.ref l).v1 n = BitVec.ofNat 32 (full l) ∧
        ∀ p : Fin 8, p ≠ 7 →
          (u.lane s.ref l).pred p = if x.c = .p p then decide (2 ^ 32 ≤ full l) else (s.lane s.ref l).pred p := by
  have hw : tyWidth t = 32 := by rw [tyWidth_eq, hr]
  have h64 : 32 ≤ 64 := by decide
  obtain ⟨u, hu, hpass, h⟩ := alu_result32 (i := .iaddc t x) hp hg hd rfl rfl (congrArg (Slot.mk .dst) hr)
  simp only [State.laneIn, hr, hw, rd_one, ux_setWidth h64, setWidth_wrapNat h64, forall_const] at h
  exact ⟨u, hu, hpass, h⟩

/-- `IADDC` at 64 bits. -/
theorem iaddc_result64 {t : Ty} (hr : t.regs = 2) :
    let full := fun l => (s.src64 x (litSext t) l x.a).toNat + (s.src64 x (litSext t) l x.b).toNat + s.carryIn x l
    ∃ u, exec (.iaddc t x) s = .next u ∧ s.passed u ∧
      ∀ l ∈ s.act x, (u.lane s.ref l).v2 n = BitVec.ofNat 64 (full l) ∧
        ∀ p : Fin 8, p ≠ 7 →
          (u.lane s.ref l).pred p = if x.c = .p p then decide (2 ^ 64 ≤ full l) else (s.lane s.ref l).pred p := by
  have hw : tyWidth t = 64 := by rw [tyWidth_eq, hr]
  obtain ⟨u, hu, hpass, h⟩ := alu_result64 (i := .iaddc t x) hp hg hd rfl rfl (congrArg (Slot.mk .dst) hr)
  have hux (a : DWord) : ux 64 a = a.toNat := by simpa using ux_setWidth le_rfl a
  have hwrap (k : Nat) : wrapNat 64 k = BitVec.ofNat 64 k := by simpa using setWidth_wrapNat (le_refl 64) k
  simp only [State.laneIn, hr, hw, hux, hwrap, forall_const] at h
  exact ⟨u, hu, hpass, h⟩

end

/-! ### FSTAT over class 0x0 -/

/-- An instruction of class 0x0 only finishes, only writes tags, or computes in each lane without a flag. -/
theorem class0_cases {i : Instr} {sh : Shape} {x : Args} (hs : i.shape = some sh) (ho : sh.opc < 0x100)
    (hx : i.args = some x) :
    i = .nop x ∨ i = .taggen x ∨
      ∀ s : State, ∃ sgn rule f, exec i s = s.alu i x sgn rule f ∧ ∀ j, (f j).fl = 0 := by
  cases i with
  | nop y => cases hx; exact .inl rfl
  | taggen y => cases hx; exact .inr (.inl rfl)
  | mov _ y | iadd _ y | isub _ y | iaddc _ y | imul _ y | imulh _ y | imad _ y | imadw _ y | idiv _ y | irem _ y
  | iabs _ y | ineg _ y | imin _ y | imax _ y | icmp _ _ y | isel _ y | andL _ y | orL _ y | xorL _ y | andn _ y
  | notL _ y | shl _ y | shr _ y | shra _ y | rotl _ y | funnel y | popc _ y | clz _ y | ctz _ y | brev _ y
  | bfx _ y | bfi y | lea _ _ y | plop _ y | pmovPack y | pmovUnpack y | gettag y =>
    cases hx
    exact .inr (.inr fun s => ⟨_, _, _, rfl, fun _ => rfl⟩)
  | _ =>
    cases hs <;> simp at ho

theorem nop_completes_fstat (s : State) (x : Args) :
    ∃ t, exec (.nop x) s = .next t ∧ s.atCourse t ∧ s.passed t ∧ (t.bundle s.ref).fstat = (s.bundle s.ref).fstat :=
  ⟨_, rfl, atCourse_finish _ _ _, finish_passed _ _ _, finish_fstat _ _ _⟩

theorem taggen_completes_fstat (s : State) (x : Args) (hg : s.curCrew.byTags = false) :
    ∃ t, exec (.taggen x) s = .next t ∧ s.atCourse t ∧ s.passed t ∧ (t.bundle s.ref).fstat = (s.bundle s.ref).fstat := by
  have h : ∃ ts, exec (.taggen x) s = .next ((s.setBundle s.ref ((s.bundle s.ref).setTags ts)).finish x true) :=
    ⟨_, (withRoom_gang s x _ _ _ hg).trans (by rw [giveTags_gang _ _ hg])⟩
  obtain ⟨ts, h⟩ := h
  refine ⟨_, h, (atCourse_setTags s ts).trans (atCourse_finish _ _ _), fun l hl => ?_, ?_⟩
  · exact finish_passed _ x true l hl
  · refine (finish_fstat _ x true).trans ?_
    rw [setBundle_ref, bundle_setBundle]
    rfl

theorem class0_completes_fstat {s : State} {i : Instr} {sh : Shape} {x : Args} (hp : noPorts x = true)
    (hg : s.curCrew.byTags = false) (hs : i.shape = some sh) (ho : sh.opc < 0x100) (hx : i.args = some x) :
    ∃ t, exec i s = .next t ∧ s.atCourse t ∧ s.passed t ∧ (t.bundle s.ref).fstat = (s.bundle s.ref).fstat := by
  rcases class0_cases hs ho hx with rfl | rfl | h
  · exact nop_completes_fstat s x
  · exact taggen_completes_fstat s x hg
  · obtain ⟨sgn, rule, f, he, hf⟩ := h s
    rw [he]
    exact alu_completes_fstat s i x sgn rule f hs hp hg hf

/-! ### The statement -/

/-- Settles O2: each clause is the value lemma of its operation, carried through the shared shape of the lane
instructions; FSTAT is kept because no form of class 0x0 gives a flag to its commit. -/
theorem integerArithmetic : Obligations.IntegerArithmetic := by
  have h32 : 32 ≤ 64 := by decide
  have h64 : 64 ≤ 64 := le_rfl
  unfold Obligations.IntegerArithmetic
  refine ⟨fun s x n t hp hg hd _ hr => ?_, fun s x n t hp hg hd hr => ?_, fun s x n hp hg hd => ?_,
    fun s x n t hp hg hd _ => ?_, fun s x hp hg => ⟨fun n hd => ?_, fun i sh hs ho hx => ?_⟩⟩
  · -- sums, products and signs at 32 bits (R216)
    have hw : tyWidth t = 32 := by rw [tyWidth_eq, hr]
    have hk : (⟨.dst, t.regs⟩ : Slot) = ⟨.dst, 1⟩ := by rw [hr]
    refine ⟨binary_writes32 hp hg hd rfl rfl hr (iaddV_setWidth hw h32),
      binary_writes32 hp hg hd rfl rfl hr (isubV_setWidth hw h32),
      binary_writes32 hp hg hd rfl rfl hr (imulV_setWidth hw h32),
      alu_writes32 hp hg hd rfl rfl hk fun l => ?_,
      alu_writes32 hp hg hd rfl rfl hk fun l => ?_,
      alu_writes32 hp hg hd rfl rfl hk fun l => ?_,
      binary_writes32 hp hg hd rfl rfl rfl imulhV_s32, binary_writes32 hp hg hd rfl rfl rfl imulhV_n32⟩
    · simp only [State.laneIn, hr, rd_one, imadV_setWidth hw h32]
    · simp only [State.laneIn, hr, rd_one, inegV_setWidth hw h32]
    · simp only [State.laneIn, hr, rd_one, iabsV_setWidth hw h32]
  · -- the same at 64 bits, and `IMADW`
    have hw : tyWidth t = 64 := by rw [tyWidth_eq, hr]
    have hk : (⟨.dst, t.regs⟩ : Slot) = ⟨.dst, 2⟩ := by rw [hr]
    refine ⟨binary_writes64 hp hg hd rfl rfl hr (iaddV_setWidth hw h64),
      binary_writes64 hp hg hd rfl rfl hr (isubV_setWidth hw h64),
      binary_writes64 hp hg hd rfl rfl hr (imulV_setWidth hw h64),
      alu_writes64 hp hg hd rfl rfl hk fun l => ?_,
      alu_writes64 hp hg hd rfl rfl hk fun l => ?_,
      alu_writes64 hp hg hd rfl rfl hk fun l => ?_,
      alu_writes64 hp hg hd rfl rfl rfl fun l => ?_,
      alu_writes64 hp hg hd rfl rfl rfl fun l => ?_⟩
    · simpa only [State.laneIn, hr, rd_two, BitVec.setWidth_eq] using imadV_setWidth hw h64 _ _ _
    · simpa only [State.laneIn, hr, rd_two, BitVec.setWidth_eq] using inegV_setWidth hw h64 _
    · simpa only [State.laneIn, hr, rd_two, BitVec.setWidth_eq] using iabsV_setWidth hw h64 _
    · simp only [State.laneIn, rd_one, rd_two, imadwV_s32]
    · simp only [State.laneIn, rd_one, rd_two, imadwV_n32]
  · -- minimum and maximum
    exact ⟨binary_writes32 hp hg hd rfl rfl rfl (iminV_setWidth_unsigned rfl h32 rfl),
      binary_writes32 hp hg hd rfl rfl rfl (imaxV_setWidth_unsigned rfl h32 rfl),
      binary_writes32 hp hg hd rfl rfl rfl (iminV_setWidth_signed rfl h32 rfl),
      binary_writes32 hp hg hd rfl rfl rfl (imaxV_setWidth_signed rfl h32 rfl),
      binary_writes64 hp hg hd rfl rfl rfl (iminV_setWidth_unsigned rfl h64 rfl),
      binary_writes64 hp hg hd rfl rfl rfl (imaxV_setWidth_unsigned rfl h64 rfl),
      binary_writes64 hp hg hd rfl rfl rfl (iminV_setWidth_signed rfl h64 rfl),
      binary_writes64 hp hg hd rfl rfl rfl (imaxV_setWidth_signed rfl h64 rfl)⟩
  · -- carry (R217)
    intro cin
    have hcin : cin = s.carryIn x := funext fun l => (carryIn_eq s x l).symm
    clear_value cin
    subst hcin
    exact ⟨iaddc_result32 hp hg hd, iaddc_result64 hp hg hd⟩
  · -- division and remainder (R57)
    exact ⟨binary_writes32 hp hg hd rfl rfl rfl (idivV_setWidth_unsigned rfl h32 rfl),
      binary_writes32 hp hg hd rfl rfl rfl (iremV_setWidth_unsigned rfl h32 rfl),
      binary_writes32 hp hg hd rfl rfl rfl (idivV_setWidth_signed rfl h32 rfl),
      binary_writes32 hp hg hd rfl rfl rfl (iremV_setWidth_signed rfl h32 rfl),
      binary_writes64 hp hg hd rfl rfl rfl (idivV_setWidth_unsigned rfl h64 rfl),
      binary_writes64 hp hg hd rfl rfl rfl (iremV_setWidth_unsigned rfl h64 rfl),
      binary_writes64 hp hg hd rfl rfl rfl (idivV_setWidth_signed rfl h64 rfl),
      binary_writes64 hp hg hd rfl rfl rfl (iremV_setWidth_signed rfl h64 rfl)⟩
  · -- no flag and no trap (R57)
    exact class0_completes_fstat hp (byTags_of_gangClass hg) hs ho hx

end Sys2Proof.Machine
end

section
/-!
SUPPORT. Selection, logic and shifts as operations on words of the form's own width (R219, R220).
-/

namespace Sys2Proof.Machine

/-! ### Powers of two -/

theorem ofInt_mul_two_pow (w : Nat) (z : Int) (k : Nat) :
    BitVec.ofInt w (z * (2 ^ k : Nat)) = BitVec.ofInt w z <<< k := by
  rw [BitVec.ofInt_mul, BitVec.ofInt_natCast, BitVec.shiftLeft_eq_mul_twoPow]
  congr 1
  exact BitVec.eq_of_toNat_eq (by rw [BitVec.toNat_ofNat, BitVec.toNat_twoPow])

theorem ofNat_mul_two_pow {w : Nat} (a : BitVec w) (k : Nat) : BitVec.ofNat w (a.toNat * 2 ^ k) = a <<< k := by
  rw [← BitVec.ofInt_natCast, Int.natCast_mul, ofInt_mul_two_pow, BitVec.ofInt_natCast, BitVec.ofNat_toNat,
    BitVec.setWidth_eq]

/-- The lowest `k` bits of a word. -/
theorem toNat_and_mask (a : Word) {k : Nat} (hk : k ≤ 32) :
    (a &&& BitVec.ofNat 32 (2 ^ k - 1)).toNat = a.toNat % 2 ^ k := by
  have hmask : 2 ^ k - 1 < 2 ^ 32 :=
    Nat.lt_of_lt_of_le (Nat.sub_lt (Nat.two_pow_pos k) Nat.one_pos) (Nat.pow_le_pow_right Nat.two_pos hk)
  rw [BitVec.toNat_and, BitVec.toNat_ofNat, Nat.mod_eq_of_lt hmask, Nat.and_two_pow_sub_one_eq_mod]

/-! ### Selection and logic (R219) -/

section
variable {w : Nat} (h64 : w ≤ 64)
include h64

theorem setWidth_setWidth_le (a : BitVec w) : (a.setWidth 64).setWidth w = a := by
  rw [BitVec.setWidth_setWidth_of_le _ h64, BitVec.setWidth_eq]

theorem and_setWidth (a b : BitVec w) : (a.setWidth 64 &&& b.setWidth 64).setWidth w = a &&& b := by
  rw [BitVec.setWidth_and, setWidth_setWidth_le h64, setWidth_setWidth_le h64]

theorem or_setWidth (a b : BitVec w) : (a.setWidth 64 ||| b.setWidth 64).setWidth w = a ||| b := by
  rw [BitVec.setWidth_or, setWidth_setWidth_le h64, setWidth_setWidth_le h64]

theorem xor_setWidth (a b : BitVec w) : (a.setWidth 64 ^^^ b.setWidth 64).setWidth w = a ^^^ b := by
  rw [BitVec.setWidth_xor, setWidth_setWidth_le h64, setWidth_setWidth_le h64]

theorem andnV_setWidth (a b : BitVec w) : (andnV (a.setWidth 64) (b.setWidth 64)).setWidth w = a &&& ~~~b := by
  rw [andnV, BitVec.setWidth_and, BitVec.setWidth_not h64, setWidth_setWidth_le h64, setWidth_setWidth_le h64]

theorem iselV_setWidth (a b : BitVec w) (c : Word) :
    (iselV (a.setWidth 64) (b.setWidth 64) (c.setWidth 64)).setWidth w = if c = 0 then b else a := by
  simp only [iselV, ux_setWidth_eq_zero (show 32 ≤ 64 by decide), apply_ite (BitVec.setWidth w), setWidth_setWidth_le h64]

end

/-! ### Complement and shifts at the width of the type (R219, R220) -/

section
variable {w : Nat} {t : Ty} (hw : tyWidth t = w) (h64 : w ≤ 64)
include hw h64

theorem notV_setWidth (a : BitVec w) : (notV t (a.setWidth 64)).setWidth w = ~~~a := by
  rw [notV, hw, setWidth_wrapNat h64, BitVec.ofNat_toNat, BitVec.setWidth_not h64, setWidth_setWidth_le h64]

theorem shlV_setWidth (a : BitVec w) (b : Word) :
    (shlV t (a.setWidth 64) (b.setWidth 64)).setWidth w = if b.toNat < w then a <<< b.toNat else 0 := by
  simp only [shlV, hw, ux_setWidth (show 32 ≤ 64 by decide), apply_ite (BitVec.setWidth w), setWidth_wrapNat h64,
    BitVec.toNat_setWidth_of_le h64, ofNat_mul_two_pow, BitVec.ofNat_eq_ofNat, BitVec.setWidth_zero]

theorem shrV_setWidth (a : BitVec w) (b : Word) :
    (shrV t (a.setWidth 64) (b.setWidth 64)).setWidth w = if b.toNat < w then a >>> b.toNat else 0 := by
  have h (k : Nat) : BitVec.ofNat w (a.toNat / 2 ^ k) = a >>> k := by
    refine BitVec.eq_of_toNat_eq ?_
    rw [BitVec.toNat_ofNat, BitVec.toNat_ushiftRight, Nat.shiftRight_eq_div_pow,
      Nat.mod_eq_of_lt (Nat.lt_of_le_of_lt (Nat.div_le_self _ _) a.isLt)]
  simp only [shrV, hw, ux_setWidth (show 32 ≤ 64 by decide), ux_setWidth h64, apply_ite (BitVec.setWidth w),
    BitVec.setWidth_ofNat_of_le h64, h, BitVec.ofNat_eq_ofNat]

theorem shraV_setWidth (a : BitVec w) (b : Word) :
    (shraV t (a.setWidth 64) (b.setWidth 64)).setWidth w =
      if b.toNat < w then a.sshiftRight b.toNat else if a.msb then BitVec.allOnes w else 0 := by
  have h (k : Nat) : BitVec.ofInt w (a.toInt / (2 ^ k : Nat)) = a.sshiftRight k := by
    rw [← Int.shiftRight_eq_div_pow]
    rfl
  simp only [shraV, hw, ux_setWidth (show 32 ≤ 64 by decide), sx_setWidth h64, apply_ite (BitVec.setWidth w),
    setWidth_wrapTo h64, ofInt_neg_one, BitVec.msb_eq_toInt, decide_eq_true_eq, h, BitVec.ofNat_eq_ofNat,
    BitVec.setWidth_zero]

theorem rotlV_setWidth (hpos : 0 < w) (a : BitVec w) (b : Word) :
    (rotlV t (a.setWidth 64) (b.setWidth 64)).setWidth w = a.rotateLeft (b.toNat % w) := by
  have h (k : Nat) (hk : k < w) : BitVec.ofNat w (a.toNat * 2 ^ k + a.toNat / 2 ^ (w - k)) = a.rotateLeft k := by
    have hlow : a.toNat >>> (w - k) < 2 ^ k := by
      rw [Nat.shiftRight_eq_div_pow, Nat.div_lt_iff_lt_mul (Nat.two_pow_pos _), ← Nat.pow_add,
        Nat.add_sub_cancel' hk.le]
      exact a.isLt
    rw [← Nat.shiftLeft_eq, ← Nat.shiftRight_eq_div_pow, Nat.shiftLeft_add_eq_or_of_lt hlow]
    refine BitVec.eq_of_toNat_eq ?_
    rw [BitVec.toNat_ofNat, BitVec.toNat_rotateLeft, Nat.or_mod_two_pow, Nat.mod_eq_of_lt hk,
      Nat.mod_eq_of_lt (hlow.trans (Nat.pow_lt_pow_right Nat.one_lt_two hk))]
  have hk := Nat.mod_lt b.toNat hpos
  simp only [rotlV, hw, ux_setWidth (show 32 ≤ 64 by decide), ux_setWidth h64, apply_ite (BitVec.setWidth w),
    setWidth_wrapNat h64, BitVec.toNat_setWidth_of_le h64, h _ hk]
  split
  · next h0 => rw [h0, ← h 0 hpos, Nat.sub_zero, Nat.div_eq_of_lt a.isLt, Nat.pow_zero, Nat.mul_one, Nat.add_zero]
  · rfl

end

theorem funnelV_setWidth (a b c : Word) :
    (funnelV (a.setWidth 64) (b.setWidth 64) (c.setWidth 64)).setWidth 32 =
      ((b ++ a : BitVec 64) >>> (c.toNat % 32)).setWidth 32 := by
  have h : 32 ≤ 64 := by decide
  rw [funnelV, ux_setWidth h, ux_setWidth h, ux_setWidth h, setWidth_wrapNat h]
  refine BitVec.eq_of_toNat_eq ?_
  rw [BitVec.toNat_ofNat, BitVec.toNat_setWidth, BitVec.toNat_ushiftRight, Nat.shiftRight_eq_div_pow,
    BitVec.toNat_append, ← Nat.shiftLeft_add_eq_or_of_lt a.isLt, Nat.shiftLeft_eq]

end Sys2Proof.Machine
end

section
/-!
PROOF. O4: selection, logic, moves and shifts at both widths.
-/

namespace Sys2Proof.Machine

/-- Settles O4: each clause is the value lemma of its form at its width, carried through the shared shape of the lane
instructions. -/
theorem logicAndShiftForms : Obligations.LogicAndShiftForms := by
  have h32 : 32 ≤ 64 := by decide
  have h64 : 64 ≤ 64 := le_rfl
  unfold Obligations.LogicAndShiftForms
  refine ⟨fun s x n t hp hg hd _ => ⟨fun hr => ?_, fun hr => ?_⟩,
    fun s x n t hp hg hd _ => ⟨?_, fun hr => ?_, fun hr => ?_⟩⟩
  · -- selection, logic and the move at 32 bits (R219, R227)
    have hw : tyWidth t = 32 := by rw [tyWidth_eq, hr]
    have hk : (⟨.dst, t.regs⟩ : Slot) = ⟨.dst, 1⟩ := by rw [hr]
    refine ⟨alu_writes32 hp hg hd rfl rfl hk fun l => ?_,
      binary_writes32 hp hg hd rfl rfl hr (and_setWidth h32),
      binary_writes32 hp hg hd rfl rfl hr (or_setWidth h32),
      binary_writes32 hp hg hd rfl rfl hr (xor_setWidth h32),
      binary_writes32 hp hg hd rfl rfl hr (andnV_setWidth h32),
      alu_writes32 hp hg hd rfl rfl hk fun l => ?_,
      alu_writes32 hp hg hd rfl rfl hk fun l => ?_⟩
    · simp only [State.laneIn, hr, rd_one, setWidth_setWidth_le h32]
    · simp only [State.laneIn, hr, rd_one, notV_setWidth hw h32]
    · simp only [State.laneIn, hr, rd_one, iselV_setWidth h32]
  · -- the same at 64 bits; `ISEL` still chooses by a 32-bit source
    have hw : tyWidth t = 64 := by rw [tyWidth_eq, hr]
    have hk : (⟨.dst, t.regs⟩ : Slot) = ⟨.dst, 2⟩ := by rw [hr]
    refine ⟨alu_writes64 hp hg hd rfl rfl hk fun l => ?_,
      binary_writes64 hp hg hd rfl rfl hr (and_setWidth h64),
      binary_writes64 hp hg hd rfl rfl hr (or_setWidth h64),
      binary_writes64 hp hg hd rfl rfl hr (xor_setWidth h64),
      binary_writes64 hp hg hd rfl rfl hr (andnV_setWidth h64),
      alu_writes64 hp hg hd rfl rfl hk fun l => ?_,
      alu_writes64 hp hg hd rfl rfl hk fun l => ?_⟩
    · simp only [State.laneIn, hr, rd_two]
    · simpa only [State.laneIn, hr, rd_two, BitVec.setWidth_eq] using notV_setWidth hw h64 _
    · simpa only [State.laneIn, hr, rd_one, rd_two, BitVec.setWidth_eq] using iselV_setWidth h64 _ _ _
  · -- `FUNNEL` (R220)
    exact alu_writes32 hp hg hd rfl rfl rfl fun l => by simp only [State.laneIn, rd_one, funnelV_setWidth]
  · -- shifts at 32 bits (R220)
    have hw : tyWidth t = 32 := by rw [tyWidth_eq, hr]
    have hk : (⟨.dst, t.regs⟩ : Slot) = ⟨.dst, 1⟩ := by rw [hr]
    refine ⟨alu_writes32 hp hg hd rfl rfl hk fun l => ?_, alu_writes32 hp hg hd rfl rfl hk fun l => ?_,
      alu_writes32 hp hg hd rfl rfl hk fun l => ?_, alu_writes32 hp hg hd rfl rfl hk fun l => ?_⟩
    · simp only [State.laneIn, hr, rd_one, shlV_setWidth hw h32]
    · simp only [State.laneIn, hr, rd_one, shrV_setWidth hw h32]
    · simp only [State.laneIn, hr, rd_one, shraV_setWidth hw h32]
    · simp only [State.laneIn, hr, rd_one, rotlV_setWidth hw h32 (by decide)]
  · -- shifts at 64 bits: the count is a 32-bit number all the same (R220)
    have hw : tyWidth t = 64 := by rw [tyWidth_eq, hr]
    have hk : (⟨.dst, t.regs⟩ : Slot) = ⟨.dst, 2⟩ := by rw [hr]
    refine ⟨alu_writes64 hp hg hd rfl rfl hk fun l => ?_, alu_writes64 hp hg hd rfl rfl hk fun l => ?_,
      alu_writes64 hp hg hd rfl rfl hk fun l => ?_, alu_writes64 hp hg hd rfl rfl hk fun l => ?_⟩
    · simpa only [State.laneIn, hr, rd_one, rd_two, BitVec.setWidth_eq] using shlV_setWidth hw h64 _ _
    · simpa only [State.laneIn, hr, rd_one, rd_two, BitVec.setWidth_eq] using shrV_setWidth hw h64 _ _
    · simpa only [State.laneIn, hr, rd_one, rd_two, BitVec.setWidth_eq] using shraV_setWidth hw h64 _ _
    · simpa only [State.laneIn, hr, rd_one, rd_two, BitVec.setWidth_eq] using rotlV_setWidth hw h64 (by decide) _ _

end Sys2Proof.Machine
end

section
/-!
SUPPORT. Bit counts, reversal, bit fields and scaled addresses as operations on words (R221 to R223).
-/

namespace Sys2Proof.Machine

/-! ### Counts and reversal (R221) -/

theorem popcN_eq_length (x n : Nat) : popcN x n = ((List.range n).filter fun i => x.testBit i).length := by
  induction n with
  | zero => rfl
  | succ n ih =>
    rw [popcN, List.range_succ, List.filter_append, List.length_append, ih]
    cases h : x.testBit n <;> simp [h]

/-- The first place below `n + 1` that satisfies `p` is 0 or one past the first place of what follows. -/
theorem getD_find_range_succ (p : Nat → Bool) (n : Nat) : ((List.range (n + 1)).find? p).getD (n + 1) =
    if p 0 then 0 else ((List.range n).find? fun i => p (i + 1)).getD n + 1 := by
  rw [List.range_succ_eq_map, List.find?_cons]
  cases p 0 with
  | true => rfl
  | false =>
    rw [List.find?_map]
    exact Option.getD_map Nat.succ n _

theorem clzN_eq_find (x n : Nat) : clzN x n = ((List.range n).find? fun i => x.testBit (n - 1 - i)).getD n := by
  induction n with
  | zero => rfl
  | succ n ih =>
    have hnext : (fun i => x.testBit (n - (i + 1))) = fun i => x.testBit (n - 1 - i) :=
      funext fun i => by rw [Nat.sub_sub, Nat.add_comm 1]
    rw [clzN, getD_find_range_succ, ih, Nat.add_sub_cancel, hnext, Nat.sub_zero]

theorem ctzN_eq_find (x i n : Nat) : ctzN x i n = ((List.range n).find? fun j => x.testBit (i + j)).getD n := by
  induction n generalizing i with
  | zero => rfl
  | succ n ih =>
    have hnext : (fun j => x.testBit (i + (j + 1))) = fun j => x.testBit (i + 1 + j) :=
      funext fun j => by rw [Nat.add_assoc, Nat.add_comm 1]
    rw [ctzN, getD_find_range_succ, hnext, ih]
    rfl

/-- A number is the sum of the powers of two of its bits. -/
theorem foldl_testBit (x n : Nat) :
    (List.range n).foldl (fun acc i => acc + (if x.testBit i then 2 ^ i else 0)) 0 = x % 2 ^ n := by
  induction n with
  | zero => simp [Nat.mod_one]
  | succ n ih =>
    rw [List.range_succ, List.foldl_append, ih, Nat.mod_pow_succ, ← Nat.toNat_testBit]
    cases h : x.testBit n <;> simp [h]

section
variable {w : Nat} {t : Ty} (hw : tyWidth t = w) (h64 : w ≤ 64)
include hw h64

theorem popcV_setWidth (a : BitVec w) : (popcV t (a.setWidth 64)).setWidth 32 =
    BitVec.ofNat 32 ((List.range w).filter fun i => a.getLsbD i).length := by
  rw [popcV, hw, popcN_eq_length, BitVec.toNat_setWidth_of_le h64, BitVec.setWidth_ofNat_of_le (by decide)]
  rfl

theorem clzV_setWidth (a : BitVec w) : (clzV t (a.setWidth 64)).setWidth 32 =
    BitVec.ofNat 32 (((List.range w).find? fun i => a.getLsbD (w - 1 - i)).getD w) := by
  rw [clzV, hw, clzN_eq_find, BitVec.toNat_setWidth_of_le h64, BitVec.setWidth_ofNat_of_le (by decide)]
  rfl

theorem ctzV_setWidth (a : BitVec w) : (ctzV t (a.setWidth 64)).setWidth 32 =
    BitVec.ofNat 32 (((List.range w).find? fun i => a.getLsbD i).getD w) := by
  simp only [ctzV, hw, ctzN_eq_find, BitVec.toNat_setWidth_of_le h64, BitVec.setWidth_ofNat_of_le (show 32 ≤ 64 by decide),
    Nat.zero_add]
  rfl

theorem brevV_setWidth (a : BitVec w) : (brevV t (a.setWidth 64)).setWidth w = a.reverse := by
  have hbits : (List.range w).foldl (fun acc i => acc + (if a.toNat.testBit (w - 1 - i) then 2 ^ i else 0)) 0 =
      (List.range w).foldl (fun acc i => acc + (if a.reverse.toNat.testBit i then 2 ^ i else 0)) 0 := by
    refine List.foldl_ext _ _ _ fun acc i hi => ?_
    rw [BitVec.testBit_toNat, BitVec.testBit_toNat, BitVec.getLsbD_reverse, BitVec.getMsbD,
      decide_eq_true (List.mem_range.1 hi), Bool.true_and]
  rw [brevV, hw, BitVec.toNat_setWidth_of_le h64, hbits, foldl_testBit, Nat.mod_eq_of_lt (BitVec.isLt _),
    BitVec.setWidth_ofNat_of_le h64, BitVec.ofNat_toNat, BitVec.setWidth_eq]

end

/-! ### Bit fields and scaled addresses (R222, R223) -/

theorem bfPos_setWidth (b : Word) : bfPos (b.setWidth 64) = b.toNat % 32 := by
  rw [bfPos, ux_setWidth (by decide)]

theorem bfLen_setWidth (b : Word) :
    bfLen (b.setWidth 64) = min (b.toNat / 256 % 64) (32 - b.toNat % 32) := by
  rw [bfLen, bfPos_setWidth, ux_setWidth (by decide)]

theorem bfPos_add_bfLen_le (b : DWord) : bfPos b + bfLen b ≤ 32 := by
  unfold bfLen bfPos
  omega

theorem testBit_toNat_msb {n : Nat} (f : BitVec n) : f.toNat.testBit (n - 1) = f.msb := by
  rw [BitVec.msb_eq_getLsbD_last]
  rfl

/-- `BFX` extends the field that the control word names as the type says (R222). -/
theorem bfxV_eq_extract (t : Ty) (a : Word) (b : DWord) : (bfxV t (a.setWidth 64) b).setWidth 32 =
    if tySigned t then (a.extractLsb' (bfPos b) (bfLen b)).signExtend 32
    else (a.extractLsb' (bfPos b) (bfLen b)).setWidth 32 := by
  have h : 32 ≤ 64 := by decide
  have hf : ux 32 (a.setWidth 64) / 2 ^ bfPos b % 2 ^ bfLen b = (a.extractLsb' (bfPos b) (bfLen b)).toNat := by
    rw [ux_setWidth h, BitVec.extractLsb'_toNat, Nat.shiftRight_eq_div_pow]
  simp only [bfxV, hf]
  generalize a.extractLsb' (bfPos b) (bfLen b) = f
  generalize bfLen b = n at f
  rcases Nat.eq_zero_or_pos n with rfl | hn
  · simp [BitVec.eq_nil f]
  · rw [if_neg hn.ne', testBit_toNat_msb, BitVec.signExtend, BitVec.toInt_eq_msb_cond]
    cases tySigned t <;> cases f.msb <;> simp [setWidth_wrapTo h]

theorem setWidth_extract (a : Word) (p : Nat) {n : Nat} (hn : n ≤ 32) :
    (a.extractLsb' p n).setWidth 32 = (a >>> p) &&& BitVec.ofNat 32 (2 ^ n - 1) := by
  refine BitVec.eq_of_toNat_eq ?_
  rw [BitVec.toNat_setWidth_of_le hn, BitVec.extractLsb'_toNat, toNat_and_mask _ hn, BitVec.toNat_ushiftRight]

theorem signExtend_extract (a : Word) {p n : Nat} (h : p + n ≤ 32) : (a.extractLsb' p n).signExtend 32 =
    if n = 0 then 0 else (a <<< (32 - n - p)).sshiftRight (32 - n) := by
  split
  · next hn =>
    subst hn
    simp [BitVec.eq_nil (a.extractLsb' p 0)]
  · ext i hi
    rw [BitVec.getElem_signExtend, BitVec.getElem_sshiftRight, BitVec.msb_eq_getLsbD_last, BitVec.msb_eq_getLsbD_last]
    by_cases hin : i < n
    · -- a bit of the field
      rw [dif_pos hin, dif_pos (by omega), BitVec.getElem_extractLsb', BitVec.getElem_shiftLeft,
        ← BitVec.getLsbD_eq_getElem, show 32 - n + i - (32 - n - p) = p + i by omega]
      simp only [show ¬ 32 - n + i < 32 - n - p by omega, decide_false, Bool.not_false, Bool.true_and]
    · -- a copy of its top bit
      rw [dif_neg hin, dif_neg (by omega), BitVec.getLsbD_extractLsb', BitVec.getLsbD_shiftLeft,
        show 32 - 1 - (32 - n - p) = p + (n - 1) by omega]
      simp only [show n - 1 < n by omega, show 32 - 1 < 32 by omega, show ¬ 32 - 1 < 32 - n - p by omega, decide_true,
        decide_false, Bool.not_false, Bool.true_and]

theorem bfiV_setWidth (a c : Word) (b : DWord) : (bfiV (a.setWidth 64) b (c.setWidth 64)).setWidth 32 =
    let mask := BitVec.ofNat 32 ((2 ^ bfLen b - 1) * 2 ^ bfPos b)
    (c &&& ~~~mask) ||| ((a <<< bfPos b) &&& mask) := by
  have h : 32 ≤ 64 := by decide
  simp only [bfiV, BitVec.setWidth_or, BitVec.setWidth_and, BitVec.setWidth_not h, setWidth_wrapNat h,
    BitVec.toNat_setWidth_of_le h, ofNat_mul_two_pow, BitVec.ofNat_toNat, BitVec.setWidth_eq]

theorem leaV_eq_add_shift (t : Ty) (sh : Nat) (a b : DWord) :
    leaV t sh a b = a + (BitVec.ofInt 64 (ex t b) <<< sh) := by
  rw [leaV, ← BitVec.setWidth_eq (wrapTo _ _), setWidth_wrapTo (by decide), BitVec.ofInt_add, ofInt_mul_two_pow,
    BitVec.ofInt_natCast, BitVec.ofNat_toNat, BitVec.setWidth_eq]

end Sys2Proof.Machine
end

section
/-!
PROOF. O5: bit counts, reversal, bit fields and scaled addresses.
-/

namespace Sys2Proof.Machine

/-- Settles O5: each clause is the value lemma of its form, carried through the shared shape of the lane instructions. -/
theorem bitForms : Obligations.BitForms := by
  have h32 : 32 ≤ 64 := by decide
  have h64 : 64 ≤ 64 := le_rfl
  unfold Obligations.BitForms
  intro s x n hp hg hd a ctl pos len mask
  have hlen (l : Nat) : len l = bfLen ((ctl l).setWidth 64) := (bfLen_setWidth _).symm
  have hpos (l : Nat) : pos l = bfPos ((ctl l).setWidth 64) := (bfPos_setWidth _).symm
  have hle (l : Nat) : pos l + len l ≤ 32 := by rw [hlen, hpos]; exact bfPos_add_bfLen_le _
  refine ⟨fun t _ hr => ?_, fun t _ hr => ?_, ?_, ?_, ?_, fun sh => ⟨?_, ?_⟩⟩
  · -- counts and reversal at 32 bits (R221)
    have hw : tyWidth t = 32 := by rw [tyWidth_eq, hr]
    have hk : (⟨.dst, t.regs⟩ : Slot) = ⟨.dst, 1⟩ := by rw [hr]
    refine ⟨alu_writes32 hp hg hd rfl rfl rfl fun l => ?_, alu_writes32 hp hg hd rfl rfl rfl fun l => ?_,
      alu_writes32 hp hg hd rfl rfl rfl fun l => ?_, alu_writes32 hp hg hd rfl rfl hk fun l => ?_⟩
    · simp only [State.laneIn, hr, rd_one, popcV_setWidth hw h32, a]
    · simp only [State.laneIn, hr, rd_one, clzV_setWidth hw h32, a]
    · simp only [State.laneIn, hr, rd_one, ctzV_setWidth hw h32, a]
    · simp only [State.laneIn, hr, rd_one, brevV_setWidth hw h32, a]
  · -- the same at 64 bits
    have hw : tyWidth t = 64 := by rw [tyWidth_eq, hr]
    have hk : (⟨.dst, t.regs⟩ : Slot) = ⟨.dst, 2⟩ := by rw [hr]
    refine ⟨alu_writes32 hp hg hd rfl rfl rfl fun l => ?_, alu_writes32 hp hg hd rfl rfl rfl fun l => ?_,
      alu_writes32 hp hg hd rfl rfl rfl fun l => ?_, alu_writes64 hp hg hd rfl rfl hk fun l => ?_⟩
    · simpa only [State.laneIn, hr, rd_two, BitVec.setWidth_eq] using popcV_setWidth hw h64 _
    · simpa only [State.laneIn, hr, rd_two, BitVec.setWidth_eq] using clzV_setWidth hw h64 _
    · simpa only [State.laneIn, hr, rd_two, BitVec.setWidth_eq] using ctzV_setWidth hw h64 _
    · simpa only [State.laneIn, hr, rd_two, BitVec.setWidth_eq] using brevV_setWidth hw h64 _
  · -- an unsigned field (R222)
    refine alu_writes32 hp hg hd rfl rfl rfl fun l => ?_
    simp only [State.laneIn, rd_one]
    rw [bfxV_eq_extract, if_neg (by decide), ← hpos, ← hlen, setWidth_extract _ _ ((Nat.le_add_left _ _).trans (hle l))]
  · -- a signed field (R222)
    refine alu_writes32 hp hg hd rfl rfl rfl fun l => ?_
    simp only [State.laneIn, rd_one]
    rw [bfxV_eq_extract, if_pos (show tySigned .s32 = true from rfl), ← hpos, ← hlen, signExtend_extract _ (hle l)]
  · -- a field put in (R222)
    refine alu_writes32 hp hg hd rfl rfl rfl fun l => ?_
    simp only [State.laneIn, rd_one, bfiV_setWidth, mask, hlen, hpos, a, ctl]
  · -- scaled addresses (R223)
    refine alu_writes64 hp hg hd rfl rfl rfl fun l => ?_
    simp only [State.laneIn, rd_one, rd_two, leaV_eq_add_shift, ex_n32, BitVec.ofInt_natCast, BitVec.ofNat_toNat, ctl]
  · refine alu_writes64 hp hg hd rfl rfl rfl fun l => ?_
    simp only [State.laneIn, rd_one, rd_two, leaV_eq_add_shift, ex_s32, BitVec.signExtend, ctl]

end Sys2Proof.Machine
end

section
/-!
SUPPORT. What an instruction leaves whose destination is a predicate, and what a finished course leaves as it was.
-/

namespace Sys2Proof.Machine

/-! ### Predicate destinations -/

/-- A predicate destination takes the predicate of the result. -/
theorem results_pred (s : State) (sh : Shape) (x : Args) (t : Taken) (act : List Nat) (outs : List (Nat × LOut))
    {p : Fin 8} (hd : x.d = .p p) (hk : sh.d.kind = .predDst) (hc : sh.c.kind ≠ .pzCarry) (hn : act.Nodup) {l : Nat}
    (hl : l ∈ act) (hp7 : p ≠ 7) :
    ((s.results sh x t act outs).lane s.ref l).pred p = (outOf outs l).pred := by
  have h : s.results sh x t act outs = s.writePred s.ref act x.d fun l => (outOf outs l).pred := by
    unfold State.results
    rw [if_pos (beq_iff_eq.2 hk), if_neg (fun hb => hc (beq_iff_eq.1 hb))]
  rw [h, writePred_pred s act x.d _ hn hl p hp7, if_pos hd]

/-- An instruction that acts on each lane by itself, whose destination is a predicate, writes there what each lane
computes. -/
theorem alu_writesPred {s : State} {x : Args} {p : Fin 8} (hp : noPorts x = true) (hg : s.gangClass = true)
    (hd : x.d = .p p) (hp7 : p ≠ 7) {i : Instr} {sgn : Bool} {rule : TagRule} {sh : Shape} {f : LIn → LOut}
    (hi : exec i s = s.alu i x sgn rule f) (hs : i.shape = some sh) (hk : sh.d.kind = .predDst)
    (hc : sh.c.kind ≠ .pzCarry) {g : Nat → Bool} (hv : ∀ l, (f (s.brings sh x sgn l)).pred = g l) :
    writesPred s i x p g := by
  have hq := byTags_of_gangClass hg
  obtain ⟨tags, h⟩ := alu_commits s i x sgn rule f hs hp hq
  refine ⟨_, hi.trans h, commit_passed _ _ _ _ _ _ _ hp hq, fun l hl => ?_⟩
  rw [commit_lane _ _ _ _ _ _ _ hp hq]
  simp only [s.act_subset x hl, if_true]
  rw [← hv l, ← outOf_laneOuts s sh x sgn f hl]
  exact results_pred s sh x _ _ _ hd hk hc (s.act_nodup x) hl hp7

/-! ### The end of a course -/

theorem finish_tags (s : State) (x : Args) (d : Bool) :
    ((s.finish x d).bundle s.ref).tags = (s.bundle s.ref).tags := by
  unfold State.finish State.finishTo
  rw [bundle_setBundle, Bundle.marks_eq, Bundle.mapLanes_eq]

theorem finish_c (s : State) (x : Args) (d : Bool) : (s.finish x d).curCrew.c = s.curCrew.c := by
  simp [State.finish, State.finishTo, State.setBundle, State.curCrew, State.ref]

/-- A finished course changes a lane's PC and hold alone. -/
theorem finish_lane_frame (s : State) (x : Args) (d : Bool) (l : Nat) : (s.finish x d).lane s.ref l =
    { s.lane s.ref l with pc := ((s.finish x d).lane s.ref l).pc, hold := ((s.finish x d).lane s.ref l).hold } := by
  unfold State.finish
  rw [finishTo_lane]
  split <;> rfl

theorem finish_v1 (s : State) (x : Args) (d : Bool) (l k : Nat) :
    ((s.finish x d).lane s.ref l).v1 k = (s.lane s.ref l).v1 k := by
  rw [finish_lane_frame]
  rfl

end Sys2Proof.Machine
end

section
/-!
PROOF. O6: PLOP, PMOV, GETTAG, TAGGEN and NOP.
-/

namespace Sys2Proof.Machine

/-! ### Packed predicates (R225) -/

/-- Bits gathered from a list of places. -/
theorem getLsbD_foldl_or (f : Nat → Bool) (k i : Nat) (hi : i < 64) :
    ((List.range k).foldl (fun (a : DWord) n => if f n then a ||| (1#64 <<< n) else a) 0).getLsbD i =
      (decide (i < k) && f i) := by
  induction k with
  | zero => simp
  | succ k ih =>
    have hbit : (1#64 <<< k).getLsbD i = decide (i = k) := by
      rw [← BitVec.twoPow_eq, BitVec.getLsbD_twoPow]
      by_cases h : k = i
      · simp [h, hi]
      · simp [h, Ne.symm h]
    rw [List.range_succ, List.foldl_append, List.foldl_cons, List.foldl_nil]
    split
    · next hf =>
      rw [BitVec.getLsbD_or, ih, hbit]
      grind
    · next hf =>
      rw [ih]
      grind

theorem packPreds_setWidth (z : Lane) : z.packPreds.setWidth 32 = (z.p ||| 0x80).setWidth 32 := by
  refine BitVec.eq_of_getLsbD_eq fun i hi => ?_
  rw [BitVec.getLsbD_setWidth, BitVec.getLsbD_setWidth, Lane.packPreds, getLsbD_foldl_or _ _ _ (by omega)]
  congr 1
  by_cases h8 : i < 8
  · have h7 : (Fin.ofNat 8 i == 7) = decide (7 = i) := by
      rw [beq_eq_decide]
      simp only [Fin.ext_iff, Fin.val_ofNat, Nat.mod_eq_of_lt h8, eq_comm]
      rfl
    rw [show (0x80 : Byte) = BitVec.twoPow 8 7 from rfl, BitVec.getLsbD_or, BitVec.getLsbD_twoPow, Lane.pred, h7,
      Fin.val_ofNat, Nat.mod_eq_of_lt h8, Bool.or_comm, decide_eq_true h8]
    rfl
  · rw [BitVec.getLsbD_of_ge _ _ (not_lt.1 h8), decide_eq_false h8, Bool.false_and]

/-! ### Tags (R22, R226) -/

/-- New tags of which those of one place all agree. -/
theorem findD_foldl_setD {α : Type} [DecidableEq α] (ts : List (Nat × α)) (m : SMap α) (k : Nat) (v d : α)
    (hv : ∀ e ∈ ts, e.1 = k → e.2 = v) (hk : (∃ e ∈ ts, e.1 = k) ∨ findD m k d = v) :
    findD (ts.foldl (fun m e => setD m e.1 e.2 d) m) k d = v := by
  induction ts generalizing m with
  | nil => simpa using hk
  | cons e r ih =>
    refine ih (setD m e.1 e.2 d) (fun f hf => hv f (List.mem_cons_of_mem _ hf)) ?_
    by_cases he : e.1 = k
    · exact .inr (by rw [← he, findD_setD_self, hv e List.mem_cons_self he])
    · rw [findD_setD_ne _ _ _ (Ne.symm he)]
      exact hk.imp_left fun ⟨f, hf, hfk⟩ => ⟨f, (List.mem_cons.1 hf).resolve_left fun h => he (h ▸ hfk), hfk⟩

theorem mem_slicesOf {act : List Nat} {l : Nat} (hl : l ∈ act) (h32 : l < 32) : l / 4 ∈ slicesOf act := by
  rw [slicesOf, List.mem_filter, List.mem_range, List.any_eq_true]
  exact ⟨by omega, l, hl, beq_self_eq_true _⟩

/-- `TAGGEN` of a crew of the gang class gives its tags and is at its end. -/
theorem taggen_next {s : State} (hg : s.curCrew.byTags = false) (x : Args) :
    exec (.taggen x) s = .next ((s.setBundle s.ref ((s.bundle s.ref).setTags
      ((slicesOf (s.act x)).map fun k => (8 * vNum x.d + k, Tag.general)))).finish x true) :=
  (withRoom_gang s x _ _ _ hg).trans (by rw [giveTags_gang _ _ hg])

/-- `TAGGEN` leaves its register general in every slice that holds a lane predicated on, and no value changed (R226). -/
theorem taggen_makes_general {s : State} {x : Args} {n : Fin 248} (hg : s.curCrew.byTags = false) (hd : x.d = .v n) :
    ∃ t, exec (.taggen x) s = .next t ∧ s.atCourse t ∧ s.passed t ∧
      (∀ l ∈ s.act x, (t.bundle s.ref).tag n (l / 4) = .general) ∧
      ∀ l k, (t.lane s.ref l).v1 k = (s.lane s.ref l).v1 k := by
  have hv : vNum x.d = n.val := by rw [hd]; rfl
  refine ⟨_, taggen_next hg x, (atCourse_setTags s _).trans (atCourse_finish _ _ _),
    fun l hl => finish_passed _ x true l hl, fun l hl => ?_, fun l k => ?_⟩
  · have hslice := mem_slicesOf hl (List.mem_range.1 (List.mem_filter.1 (s.act_subset x hl)).1)
    refine (congrArg (findD · _ _) (finish_tags _ x true)).trans ?_
    rw [setBundle_ref, bundle_setBundle]
    refine findD_foldl_setD _ _ _ _ _ (fun e he _ => ?_) (.inl ⟨_, List.mem_map_of_mem hslice, by rw [hv]⟩)
    obtain ⟨k, -, rfl⟩ := List.mem_map.1 he
    rfl
  · refine (finish_v1 _ x true l k).trans ?_
    rw [setBundle_ref, lane_setBundle]
    rfl

/-! ### The statement -/

/-- `NOP` changes nothing but the PC and the hold of the course's lanes, and the flags (R227). -/
theorem nop_frame (s : State) (x : Args) : ∃ t, exec (.nop x) s = .next t ∧ s.atCourse t ∧ s.passed t ∧
    t.curCrew.c = s.curCrew.c ∧ (t.bundle s.ref).tags = (s.bundle s.ref).tags ∧
    (t.bundle s.ref).fstat = (s.bundle s.ref).fstat ∧
    ∀ l, t.lane s.ref l = { s.lane s.ref l with pc := (t.lane s.ref l).pc, hold := (t.lane s.ref l).hold } :=
  ⟨_, rfl, atCourse_finish _ _ _, finish_passed _ _ _, finish_c _ _ _, finish_tags _ _ _, finish_fstat _ _ _,
    finish_lane_frame _ _ _⟩

/-- Settles O6: the predicate and pack forms go through the shared shape of the lane instructions; `TAGGEN` and `NOP`
finish their course, whose end keeps registers, tags and FSTAT. -/
theorem predicateAndTagForms : Obligations.PredicateAndTagForms := by
  unfold Obligations.PredicateAndTagForms
  refine ⟨fun s x hp hg => ⟨fun p tt hd hp7 => ⟨?_, ?_⟩, fun n hd => ?_⟩,
    fun s x n hp hg => ⟨fun k hd ha => ?_, taggen_makes_general (byTags_of_gangClass hg)⟩, nop_frame⟩
  · -- `PLOP` (R224)
    exact alu_writesPred hp hg hd hp7 rfl rfl rfl (by decide) fun l => rfl
  · -- `PMOV` that unpacks (R225)
    refine alu_writesPred hp hg hd hp7 rfl rfl rfl (by decide) fun l => ?_
    simp only [State.laneIn, rd_one, ux_setWidth (show 32 ≤ 64 by decide), BitVec.testBit_toNat]
  · -- `PMOV` that packs (R225)
    exact alu_writes32 hp hg hd rfl rfl rfl fun l => packPreds_setWidth _
  · -- `GETTAG` (R226)
    refine alu_writes32 hp hg hd rfl rfl rfl fun l => ?_
    rw [ha]
    change ((s.bundle s.ref).tag k (l / 4)).code.setWidth 32 = _
    cases (s.bundle s.ref).tag k (l / 4) <;> rfl

end Sys2Proof.Machine
end

section
/-!
SUPPORT. Sign, order and class of FP32 values by their bits (R61, R62, R229 to R231).
-/

namespace Sys2Proof.Machine

/-! ### Magnitude and sign -/

theorem toNat_and_max (a : Word) : (a &&& 0x7FFFFFFF#32).toNat = a.toNat % 2 ^ 31 :=
  toNat_and_mask a (k := 31) (by decide)

/-- A result below 2^32 taken as a word. -/
theorem setWidth_ofNat_eq {v : Nat} {a : Word} (h : v = a.toNat) : (BitVec.ofNat 64 v).setWidth 32 = a := by
  rw [h, BitVec.setWidth_ofNat_of_le (by decide), BitVec.ofNat_toNat, BitVec.setWidth_eq]

theorem xor_two_pow_mod (n k : Nat) :
    (n ^^^ 2 ^ k) % 2 ^ (k + 1) = if n.testBit k then n % 2 ^ k else n % 2 ^ k + 2 ^ k := by
  rw [Nat.mod_pow_succ, Nat.xor_mod_two_pow, Nat.mod_self, Nat.xor_zero, ← Nat.toNat_testBit, Nat.testBit_xor,
    Nat.testBit_two_pow_self]
  cases n.testBit k <;> simp

theorem fabsV_mask (a : Word) {f : Fmt} {k : Nat} (hb : f.bits = k + 1) (hk : k ≤ 32) :
    (fOut (fabsV f a.toNat, 0)).val.setWidth 32 = a &&& BitVec.ofNat 32 (2 ^ k - 1) :=
  setWidth_ofNat_eq (by rw [toNat_and_mask a hk, fabsV, Fmt.signBit, hb, Nat.add_sub_cancel])

theorem fnegV_xor (a : Word) {f : Fmt} {k : Nat} (hb : f.bits = k + 1) (hk : k < 32) :
    (fOut (fnegV f a.toNat, 0)).val.setWidth 32 = (a ^^^ BitVec.twoPow 32 k) &&& BitVec.ofNat 32 (2 ^ (k + 1) - 1) :=
  setWidth_ofNat_eq (by
    rw [toNat_and_mask _ hk, BitVec.toNat_xor, BitVec.toNat_twoPow_of_lt hk, xor_two_pow_mod, fnegV, Fmt.signBit, hb,
      Nat.add_sub_cancel])

/-! ### Classes of FP32 values -/

/-- The fields of an FP32 value, by its magnitude bits `m`. -/
theorem unpack_f32 (n : Nat) : f32.unpack n =
    let m := n % 2 ^ 31
    if 0x7F800000 < m then .nan (decide (m < 0x7FC00000))
    else if m = 0x7F800000 then .inf (n.testBit 31)
    else if m < 2 ^ 23 then .fin (n.testBit 31) m f32.qmin
    else .fin (n.testBit 31) (m % 2 ^ 23 + 2 ^ 23) (f32.qmin + ((m / 2 ^ 23 : Nat) - 1)) := by
  have hfrac : n % 2 ^ 23 = n % 2 ^ 31 % 2 ^ 23 := (Nat.mod_mod_of_dvd n (Nat.pow_dvd_pow 2 (by decide))).symm
  have hexp : n / 2 ^ 23 % 2 ^ 8 = n % 2 ^ 31 / 2 ^ 23 := (Nat.mod_mul_right_div_self n (2 ^ 23) (2 ^ 8)).symm
  have hfields : f32.unpack n =
      if n / 2 ^ 23 % 2 ^ 8 = 255 then
        if n % 2 ^ 23 = 0 then .inf (n.testBit 31) else .nan (decide (n % 2 ^ 23 < 2 ^ 22))
      else if n / 2 ^ 23 % 2 ^ 8 = 0 then .fin (n.testBit 31) (n % 2 ^ 23) f32.qmin
      else .fin (n.testBit 31) (n % 2 ^ 23 + 2 ^ 23) (f32.qmin + ((n / 2 ^ 23 % 2 ^ 8 : Nat) - 1)) := rfl
  have hlt : n % 2 ^ 31 < 2 ^ 31 := Nat.mod_lt _ (Nat.two_pow_pos _)
  rw [hfields, hfrac, hexp]
  dsimp only
  generalize n % 2 ^ 31 = m at hlt
  rcases lt_trichotomy m 0x7F800000 with h | h | h
  · rw [if_neg (show ¬ m / 2 ^ 23 = 255 by omega), if_neg (show ¬ 0x7F800000 < m by omega), if_neg h.ne]
    by_cases hsub : m < 2 ^ 23
    · rw [if_pos (show m / 2 ^ 23 = 0 by omega), if_pos hsub, Nat.mod_eq_of_lt hsub]
    · rw [if_neg (show ¬ m / 2 ^ 23 = 0 by omega), if_neg hsub]
  · subst h
    rfl
  · have hquiet : m % 2 ^ 23 < 2 ^ 22 ↔ m < 0x7FC00000 := by omega
    rw [if_pos (show m / 2 ^ 23 = 255 by omega), if_neg (show ¬ m % 2 ^ 23 = 0 by omega), if_pos h,
      decide_eq_decide.2 hquiet]

theorem isNan32_eq (a : Word) : isNan32 a = decide (0x7F800000 < a.toNat % 2 ^ 31) := by
  simp only [isNan32, BitVec.lt_def, toNat_and_max]
  rfl

theorem isNan_unpack_f32 (a : Word) : (f32.unpack a.toNat).isNan = isNan32 a := by
  rw [unpack_f32, isNan32_eq]
  dsimp only
  by_cases h : 0x7F800000 < a.toNat % 2 ^ 31
  · rw [if_pos h, decide_eq_true h]
    rfl
  · rw [if_neg h, decide_eq_false h]
    split
    · rfl
    · split <;> rfl

/-! ### Order of FP32 values -/

/-- A number that orders the FP32 values other than NaNs; the zeros are equal (R230). -/
def valueKey (w : Word) : Int := if w.msb then -((w &&& 0x7FFFFFFF).toNat : Int) else (w.toNat : Int)
/-- The same with -0 below +0 (R62). -/
def orderKey (w : Word) : Int := if w.msb then -((w &&& 0x7FFFFFFF).toNat : Int) - 1 else (w.toNat : Int)

/-- A word is its sign and its magnitude. -/
theorem toNat_eq_sign_add (a : Word) : a.toNat = (if a.msb then 2 ^ 31 else 0) + a.toNat % 2 ^ 31 := by
  have hlt : a.toNat < 2 ^ 32 := a.isLt
  rw [BitVec.msb_eq_decide]
  simp only [decide_eq_true_eq, Nat.add_one_sub_one]
  split <;> omega

theorem testBit_31_toNat (a : Word) : a.toNat.testBit 31 = a.msb := testBit_toNat_msb a

theorem toNat_of_msb_false {a : Word} (h : a.msb = false) : a.toNat = a.toNat % 2 ^ 31 := by
  have ha := toNat_eq_sign_add a
  rwa [h, if_neg Bool.false_ne_true, Nat.zero_add] at ha

theorem valueKey_eq (a : Word) :
    valueKey a = if a.msb then -((a.toNat % 2 ^ 31 : Nat) : Int) else (a.toNat % 2 ^ 31 : Nat) := by
  cases h : a.msb with
  | true => rw [valueKey, if_pos h, if_pos rfl, ← toNat_and_max]; rfl
  | false => rw [valueKey, if_neg (by simp [h]), if_neg Bool.false_ne_true, ← toNat_of_msb_false h]

theorem orderKey_eq (a : Word) : orderKey a = valueKey a - if a.msb then 1 else 0 := by
  cases h : a.msb <;> simp [orderKey, valueKey, h]

theorem key_f32 (a : Word) : f32.key a.toNat = valueKey a := by
  rw [valueKey_eq, ← testBit_31_toNat]
  rfl

/-- The model's order of two values is that of their keys, unless they are the same bits. -/
theorem valueKey_lt_or_neg {a b : Word} (h : a ≠ b) :
    (decide (valueKey a < valueKey b) || (valueKey a == valueKey b && a.msb)) = decide (orderKey a < orderKey b) := by
  have ha := toNat_eq_sign_add a
  have hb := toNat_eq_sign_add b
  have hne : a.toNat ≠ b.toNat := fun e => h (BitVec.eq_of_toNat_eq e)
  rw [Bool.eq_iff_iff, Bool.or_eq_true, Bool.and_eq_true, decide_eq_true_eq, decide_eq_true_eq, beq_iff_eq, orderKey_eq,
    orderKey_eq, valueKey_eq, valueKey_eq]
  generalize a.msb = p at *
  generalize b.msb = q at *
  cases p <;> cases q <;> simp only [if_true, if_false, Bool.false_eq_true, and_true, and_false, or_false] at * <;>
    omega

/-- The operand that `FMIN` or `FMAX` of two numbers gives is the one that comes first or last in the order of keys. -/
theorem choice_of_valueKey (wantMax : Bool) (a b : Word) :
    (if (decide (valueKey a < valueKey b) || (valueKey a == valueKey b && a.msb)) != wantMax then a else b) =
      if decide (orderKey a < orderKey b) == !wantMax then a else b := by
  have hnot : ∀ p q : Bool, (p != q) = (p == !q) := by decide
  by_cases h : a = b
  · rw [h, ite_self, ite_self]
  · rw [valueKey_lt_or_neg h, hnot]

/-- `FMIN` and `FMAX` by the bits of their operands (R62). -/
theorem fminmax_f32 (wantMax : Bool) (a b : Word) :
    (fOut (fminmax f32 wantMax a.toNat b.toNat)).val.setWidth 32 =
      if isNan32 a && isNan32 b then 0x7FC00000#32
      else if isNan32 a then b
      else if isNan32 b then a
      else if decide (orderKey a < orderKey b) == !wantMax then a else b := by
  have hmod (w : Word) : w.toNat % 2 ^ f32.bits = w.toNat := Nat.mod_eq_of_lt w.isLt
  have hbit : f32.bits - 1 = 31 := rfl
  have hword (w : Word) : (BitVec.ofNat 64 w.toNat).setWidth 32 = w := setWidth_ofNat_eq rfl
  simp only [fOut, fminmax, isNan_unpack_f32, key_f32, hmod, hbit, testBit_31_toNat]
  cases isNan32 a with
  | true =>
    cases isNan32 b with
    | true => rfl
    | false => exact hword b
  | false =>
    cases isNan32 b with
    | true => exact hword a
    | false =>
      refine Eq.trans ?_ (choice_of_valueKey wantMax a b)
      rw [← hword (ite _ a b), apply_ite BitVec.toNat]
      rfl

/-- Table 13-5 on the bits of two FP32 values (R230). -/
def fcmpBits (k : FCond) (a b : Word) : Bool :=
  let un := isNan32 a || isNan32 b
  match k with
  | .eq => !un && decide (valueKey a = valueKey b)
  | .ne => un || decide (valueKey a ≠ valueKey b)
  | .lt => !un && decide (valueKey a < valueKey b)
  | .le => !un && decide (valueKey a ≤ valueKey b)
  | .gt => !un && decide (valueKey b < valueKey a)
  | .ge => !un && decide (valueKey b ≤ valueKey a)
  | .un => un
  | .ord => !un

theorem fcmpV_f32 (k : FCond) (a b : Word) : (fcmpV f32 k a.toNat b.toNat).1 = fcmpBits k a b := by
  simp only [fcmpV, fcmpBits, isNan_unpack_f32, key_f32]
  cases k with
  | eq => rw [beq_eq_decide]
  | ne => rw [bne, beq_eq_decide, decide_not]
  | lt | le | gt | ge | un | ord => rfl

/-! ### Classification (R231) -/

theorem fclassV_mask (w : Word) : (fOut (fclassV w.toNat, 0)).val.setWidth 32 =
    let m := w &&& 0x7FFFFFFF#32
    if isNan32 w then (if w.getLsbD 22 then 0x002 else 0x001)
    else if m = 0x7F800000#32 then (if w.msb then 0x004 else 0x200)
    else if m = 0 then (if w.msb then 0x020 else 0x040)
    else if m < 0x00800000#32 then (if w.msb then 0x010 else 0x080)
    else (if w.msb then 0x008 else 0x100) := by
  have hinfinite : (w &&& 0x7FFFFFFF#32) = 0x7F800000#32 ↔ w.toNat % 2 ^ 31 = 0x7F800000 := by
    rw [BitVec.toNat_eq, toNat_and_max]
    rfl
  have hnull : (w &&& 0x7FFFFFFF#32) = 0 ↔ w.toNat % 2 ^ 31 = 0 := by
    rw [BitVec.toNat_eq, toNat_and_max]
    rfl
  have hsmall : (w &&& 0x7FFFFFFF#32) < 0x00800000#32 ↔ w.toNat % 2 ^ 31 < 2 ^ 23 := by
    rw [BitVec.lt_def, toNat_and_max]
    rfl
  simp only [fOut, fclassV, unpack_f32, isNan32_eq, hinfinite, hnull, hsmall, testBit_31_toNat, decide_eq_true_eq]
  by_cases hnan : 0x7F800000 < w.toNat % 2 ^ 31
  · have hquiet : w.getLsbD 22 = !decide (w.toNat % 2 ^ 31 < 0x7FC00000) := by
      rw [← BitVec.testBit_toNat, Nat.testBit_eq_decide_div_mod_eq, ← decide_not, decide_eq_decide]
      omega
    rw [if_pos hnan, if_pos hnan, hquiet]
    cases decide (w.toNat % 2 ^ 31 < 0x7FC00000) <;> rfl
  rw [if_neg hnan, if_neg hnan]
  by_cases hinf : w.toNat % 2 ^ 31 = 0x7F800000
  · rw [if_pos hinf, if_pos hinf]
    cases w.msb <;> rfl
  rw [if_neg hinf, if_neg hinf]
  by_cases hzero : w.toNat % 2 ^ 31 = 0
  · rw [if_pos hzero, hzero]
    cases w.msb <;> rfl
  rw [if_neg hzero]
  by_cases hsub : w.toNat % 2 ^ 31 < 2 ^ 23
  · rw [if_pos hsub, if_pos hsub]
    dsimp only
    rw [if_neg hzero, if_pos hsub]
    cases w.msb <;> rfl
  · rw [if_neg hsub, if_neg hsub]
    dsimp only
    rw [if_neg (by omega), if_neg (by omega)]
    cases w.msb <;> rfl

end Sys2Proof.Machine
end

section
/-!
PROOF. O8: sign forms, minimum, maximum, comparison and classification of FP32 values.
-/

namespace Sys2Proof.Machine

theorem bits_of_half {t : Ty} (ht : t = .f16 ∨ t = .bf16) : (fmtOf t).bits = 15 + 1 := by
  rcases ht with rfl | rfl <;> rfl

theorem toNat_rd_one (s : State) (x : Args) (sgn : Bool) (l : Nat) (o : Opnd) :
    (s.rd s.ref noneTaken x sgn 1 l o).toNat = (s.src32 x l o).toNat := by
  rw [rd_one, BitVec.toNat_setWidth_of_le (by decide)]

/-- A form whose lanes raise no flag leaves FSTAT as it was. -/
theorem exec_fstat_of_noFlags {s u : State} {i : Instr} {x : Args} {sgn : Bool} {rule : TagRule} {f : LIn → LOut}
    {sh : Shape} (hi : exec i s = s.alu i x sgn rule f) (hs : i.shape = some sh) (hp : noPorts x = true)
    (hg : s.gangClass = true) (hf : ∀ j, (f j).fl = 0) (hu : exec i s = .next u) :
    (u.bundle s.ref).fstat = (s.bundle s.ref).fstat := by
  obtain ⟨t, ht, -, -, h⟩ := alu_completes_fstat s i x sgn rule f hs hp (byTags_of_gangClass hg) hf
  rw [← hi, hu] at ht
  cases ht
  exact h

/-- Settles O8: each clause is what its form does to the bits of FP32 values, carried through the shared shape of the lane
instructions; where no lane raises a flag FSTAT is kept. -/
theorem floatComparisons : Obligations.FloatComparisons := by
  unfold Obligations.FloatComparisons
  refine ⟨fun s x n hp hg hd => ⟨?_, ?_, fun t ht => ⟨?_, ?_⟩, fun t u hu => ?_⟩, fun s x n hp hg hd => ⟨?_, ?_⟩,
    fun s x p hp hg hd hp7 => ?_, fun s x n hp hg hd => ⟨fun u hu => ?_, ?_⟩⟩
  · -- `FABS` (R229)
    refine alu_writes32 hp hg hd rfl rfl rfl fun l => ?_
    simp only [State.laneIn, toNat_rd_one]
    exact fabsV_mask _ (k := 31) rfl (by decide)
  · -- `FNEG` (R229)
    refine alu_writes32 hp hg hd rfl rfl rfl fun l => ?_
    simp only [State.laneIn, toNat_rd_one]
    exact (fnegV_xor _ (k := 31) rfl (by decide)).trans BitVec.and_allOnes
  · -- `FABS` of the 16-bit formats
    refine alu_writes32 hp hg hd rfl rfl rfl fun l => ?_
    simp only [State.laneIn, toNat_rd_one]
    exact fabsV_mask _ (bits_of_half ht) (by decide)
  · -- `FNEG` of the 16-bit formats
    refine alu_writes32 hp hg hd rfl rfl rfl fun l => ?_
    simp only [State.laneIn, toNat_rd_one]
    exact fnegV_xor _ (bits_of_half ht) (by decide)
  · -- neither raises a flag
    rcases hu with hu | hu <;> exact exec_fstat_of_noFlags rfl rfl hp hg (fun _ => rfl) hu
  · -- `FMIN` (R62)
    refine alu_writes32 hp hg hd rfl rfl rfl fun l => ?_
    simp only [State.laneIn, toNat_rd_one]
    exact fminmax_f32 false _ _
  · -- `FMAX` (R62)
    refine alu_writes32 hp hg hd rfl rfl rfl fun l => ?_
    simp only [State.laneIn, toNat_rd_one]
    exact fminmax_f32 true _ _
  · -- `FCMP` (R230)
    have hcond (k : FCond) :
        writesPred s (.fcmp k .f32 x) x p fun l => fcmpBits k (s.src32 x l x.a) (s.src32 x l x.b) := by
      refine alu_writesPred hp hg hd hp7 rfl rfl rfl (by decide) fun l => ?_
      simp only [State.laneIn, toNat_rd_one]
      exact fcmpV_f32 k _ _
    exact ⟨hcond .eq, hcond .ne, hcond .lt, hcond .le, hcond .gt, hcond .ge, hcond .un, hcond .ord⟩
  · -- `FCLASS` raises no flag (R231)
    exact exec_fstat_of_noFlags rfl rfl hp hg (fun _ => rfl) hu
  · -- the mask of `FCLASS`
    refine alu_writes32 hp hg hd rfl rfl rfl fun l => ?_
    simp only [State.laneIn, toNat_rd_one]
    exact fclassV_mask _

end Sys2Proof.Machine
end

section
/-!
SUPPORT. The cross-lane forms (class 0x7) as forms that act on each lane by itself: what the lanes of the course bring is
fixed by the state, so each lane's result is a function of the lane (R267 to R271).
-/

namespace Sys2Proof.Machine

/-! ### Words and masks -/

/-- Equality does not depend on the width that a word is extended to. -/
theorem beq_setWidth {w : Nat} (h64 : w ≤ 64) (a b : BitVec w) : (a.setWidth 64 == b.setWidth 64) = (a == b) := by
  rw [Bool.eq_iff_iff, beq_iff_eq, beq_iff_eq]
  refine ⟨fun h => ?_, congrArg _⟩
  rw [← setWidth_setWidth_le h64 a, h, setWidth_setWidth_le h64]

/-- 32-bit operands that lanes bring are equal when their words are. -/
theorem rd_one_beq (s : State) (x : Args) (sgn : Bool) (l m : Nat) (o : Opnd) :
    (s.rd s.ref noneTaken x sgn 1 l o == s.rd s.ref noneTaken x sgn 1 m o) = (s.src32 x l o == s.src32 x m o) := by
  rw [rd_one, rd_one, beq_setWidth (by decide)]

theorem rd_one_bne_zero (s : State) (x : Args) (sgn : Bool) (l : Nat) (o : Opnd) :
    (s.rd s.ref noneTaken x sgn 1 l o != 0) = (s.src32 x l o != 0) := by
  rw [rd_one]
  exact congrArg not (beq_setWidth (by decide) _ 0)

theorem getLsbD_maskOf (ls : List Nat) {i : Nat} (hi : i < 32) : (maskOf ls).getLsbD i = decide (i ∈ ls) := by
  have key : ∀ m : Word, (ls.foldl (fun a l => a ||| (1#32 <<< l)) m).getLsbD i = (m.getLsbD i || decide (i ∈ ls)) := by
    induction ls with
    | nil => simp
    | cons l r ih =>
      intro m
      have hbit : (1#32 <<< l).getLsbD i = decide (i = l) := by
        rw [← BitVec.twoPow_eq, BitVec.getLsbD_twoPow, ← Bool.decide_and, decide_eq_decide]
        omega
      rw [List.foldl_cons, ih, BitVec.getLsbD_or, hbit, Bool.or_assoc, ← Bool.decide_or]
      simp only [List.mem_cons]
  rw [maskOf, key]
  simp

/-- The mask of a mask's lanes is that mask. -/
theorem maskOf_lanesOf (m : Word) : maskOf (lanesOf m) = m := by
  refine BitVec.eq_of_getLsbD_eq fun i hi => ?_
  rw [getLsbD_maskOf _ hi]
  simp [lanesOf, hi]

/-- What the lanes `ls` vote on the values `a` (R269). -/
def votes (m : VoteMode) (ls : List Nat) (a : Nat → Word) : Bool :=
  match m with
  | .all => ls.all fun l => a l != 0
  | .any => ls.any fun l => a l != 0
  | .uni => ls.all fun l => ls.all fun l' => a l == a l'

/-- The number of the lane that a shuffle delivers from to lane `l`, whose operand is `b` (R270). -/
def shflSource (m : ShflMode) (l b : Nat) : Int :=
  match m with
  | .idx => b
  | .up => (l : Int) - b
  | .down => (l : Int) + b
  | .xor => (l ^^^ b : Nat)

/-! ### The lanes that take part -/

/-- An instruction that acts on the lanes together gives what one gives that acts on each lane by itself, when over what
the lanes of this course bring their results agree and no flag is raised. -/
theorem aluG_eq_alu {s : State} {x : Args} (hp : noPorts x = true) {i : Instr} {sgn : Bool} {rule : TagRule} {sh : Shape}
    {F : List LIn → List (Nat × LOut) × FFlags} {f : LIn → LOut} (hs : i.shape = some sh) (hf : ∀ j, (f j).fl = 0)
    (hF : F (s.lanes.map (s.brings sh x sgn)) = (s.laneOuts sh x sgn f, 0)) :
    s.aluG i x sgn rule F = s.alu i x sgn rule f := by
  have halu : ((s.lanes.map (s.brings sh x sgn)).filter LIn.on).map (fun e => (e.lane, f e)) = s.laneOuts sh x sgn f := by
    rw [filter_on_laneIn, List.map_map]
    rfl
  have hfl : (s.laneOuts sh x sgn f).foldl (fun a e => a ||| e.2.fl) 0 = 0 := foldl_no_flags _ _ fun _ => hf _
  simp only [State.alu, State.aluG, take_noPorts _ _ _ _ _ hp, hs, Option.getD_some, hF, halu, hfl]

section
variable (s : State) (sh : Shape) (x : Args) (sgn : Bool)

theorem takers_lanes : takers (s.lanes.map (s.brings sh x sgn)) = (s.act x).map (s.brings sh x sgn) :=
  filter_on_laneIn s sh x sgn

theorem giveAll_lanes (v : LOut) : giveAll (s.lanes.map (s.brings sh x sgn)) v = s.laneOuts sh x sgn fun _ => v := by
  rw [giveAll, takers_lanes, List.map_map]
  rfl

theorem maskIf_brings (ls : List Nat) (p : LIn → Bool) : maskIf (ls.map (s.brings sh x sgn)) p =
    (maskOf (ls.filter fun l => p (s.brings sh x sgn l))).setWidth 64 := by
  have hlane : LIn.lane ∘ s.brings sh x sgn = id := rfl
  rw [maskIf, List.filter_map, List.map_map, hlane, List.map_id]
  rfl

/-- What lane `j` brings as `a`, where a lane of that number takes part; otherwise `d`. -/
theorem getD_valOf (j : Int) (d : DWord) : (valOf ((s.act x).map (s.brings sh x sgn)) j).getD d =
    if 0 ≤ j ∧ j.toNat ∈ s.act x then (s.brings sh x sgn j.toNat).a else d := by
  have hlane : (fun e : LIn => (e.lane : Int) == j) ∘ s.brings sh x sgn = fun l : Nat => (l : Int) == j := rfl
  rw [valOf, List.find?_map, hlane]
  cases h : (s.act x).find? fun l : Nat => (l : Int) == j with
  | none =>
    have hnone := List.find?_eq_none.1 h
    rw [if_neg fun hj => hnone _ hj.2 (beq_iff_eq.2 (Int.toNat_of_nonneg hj.1))]
    rfl
  | some l =>
    have hl : ((l : Int) == j) = true := List.find?_some (p := fun l : Nat => (l : Int) == j) h
    obtain rfl := beq_iff_eq.1 hl
    rw [if_pos ⟨Int.natCast_nonneg l, List.mem_of_find?_eq_some h⟩]
    rfl

end

/-! ### Each form on a lane -/

section
variable {s : State} {x : Args} (hp : noPorts x = true)
include hp

/-- `BALLOT` (R268). -/
theorem exec_ballot_eq_alu : exec (.ballot x) s = s.alu (.ballot x) x false .general fun _ =>
    { val := (maskOf ((s.act x).filter fun l => s.src32 x l x.a != 0)).setWidth 64 } := by
  change execBallot x s = _
  rw [execBallot]
  refine aluG_eq_alu hp rfl (fun _ => rfl) ?_
  simp only [giveAll_lanes, takers_lanes, maskIf_brings, State.laneIn, rd_one_bne_zero]

/-- `ACTMASK` (R268). -/
theorem exec_actmask_eq_alu : exec (.actmask x) s = s.alu (.actmask x) x false .general fun _ =>
    { val := s.cur.mask.setWidth 64 } := by
  change execActmask x s = _
  rw [execActmask]
  refine aluG_eq_alu hp rfl (fun _ => rfl) ?_
  have hlanes : maskOf s.lanes = s.cur.mask := maskOf_lanesOf _
  simp only [giveAll_lanes, maskIf_brings, List.filter_true, hlanes]

/-- `MATCH` (R268). -/
theorem exec_match_eq_alu (t : Ty) : exec (.matchL t x) s = s.alu (.matchL t x) x (litSext t) .general fun e =>
    { val := (maskOf ((s.act x).filter fun m => s.rd s.ref noneTaken x (litSext t) t.regs m x.a == e.a)).setWidth 64 } := by
  change execMatch t x s = _
  rw [execMatch]
  refine aluG_eq_alu hp rfl (fun _ => rfl) ?_
  simp only [takers_lanes, maskIf_brings, List.map_map]
  rfl

/-- `VOTE` (R269). -/
theorem exec_vote_eq_alu (m : VoteMode) : exec (.vote m x) s = s.alu (.vote m x) x false .general fun _ =>
    { pred := votes m (s.act x) fun l => s.src32 x l x.a } := by
  change execVote m x s = _
  rw [execVote]
  refine aluG_eq_alu hp rfl (fun _ => rfl) ?_
  cases m with
  | all | any =>
    simp only [giveAll_lanes, takers_lanes, List.all_map, List.any_map, votes, Function.comp_def, State.laneIn,
      rd_one_bne_zero]
  | uni =>
    simp only [giveAll_lanes, takers_lanes, List.all_map, votes, Function.comp_def, State.laneIn, rd_one_beq]

/-- `SHFL` (R270). -/
theorem exec_shfl_eq_alu (m : ShflMode) (t : Ty) : exec (.shfl m t x) s = s.alu (.shfl m t x) x (litSext t) .general fun e =>
    let j := shflSource m e.lane (ux 32 e.b)
    { val := if 0 ≤ j ∧ j.toNat ∈ s.act x then s.rd s.ref noneTaken x (litSext t) t.regs j.toNat x.a else e.a } := by
  change execShfl m t x s = _
  rw [execShfl]
  refine aluG_eq_alu hp rfl (fun _ => rfl) ?_
  simp only [takers_lanes, List.map_map, getD_valOf]
  cases m <;> rfl

/-- `BCAST` (R271). -/
theorem exec_bcast_eq_alu (t : Ty) {m : Nat} (hm : (s.act x).head? = some m) :
    exec (.bcast t x) s = s.alu (.bcast t x) x (litSext t) .general fun _ =>
      let j := (s.src32 x m x.b).toNat
      { val := if j ∈ s.act x then s.rd s.ref noneTaken x (litSext t) t.regs j x.a
          else s.rd s.ref noneTaken x (litSext t) t.regs m x.a } := by
  change execBcast t x s = _
  rw [execBcast]
  refine aluG_eq_alu hp rfl (fun _ => rfl) ?_
  obtain ⟨r, hr⟩ := List.head?_eq_some_iff.1 hm
  have htakers (sh : Shape) (sgn : Bool) : takers (s.lanes.map (s.brings sh x sgn)) =
      s.brings sh x sgn m :: r.map (s.brings sh x sgn) := by rw [takers_lanes, hr, List.map_cons]
  simp only [htakers]
  rw [← htakers, takers_lanes, getD_valOf, giveAll_lanes]
  simp only [State.laneIn, rd_one, ux_setWidth (show 32 ≤ 64 by decide), Int.natCast_nonneg, true_and, Int.toNat_natCast]

end

end Sys2Proof.Machine
end

section
/-!
PROOF. O13: ballots, matches, votes, shuffles and broadcasts over the lanes that take part.
-/

namespace Sys2Proof.Machine

section
variable {s : State} {x : Args} {n : Fin 248} (hp : noPorts x = true) (hg : s.gangClass = true) (hd : x.d = .v n)
include hp hg hd

theorem ballot_writes32 : writes32 s (.ballot x) x n fun _ =>
    maskOf ((s.act x).filter fun l => s.src32 x l x.a != 0) :=
  alu_writes32 hp hg hd (exec_ballot_eq_alu hp) rfl rfl fun _ => setWidth_setWidth_le (by decide) _

theorem actmask_writes32 : writes32 s (.actmask x) x n fun _ => s.cur.mask :=
  alu_writes32 hp hg hd (exec_actmask_eq_alu hp) rfl rfl fun _ => setWidth_setWidth_le (by decide) _

theorem match_writes32 : writes32 s (.matchL .b32 x) x n fun l =>
    maskOf ((s.act x).filter fun m => s.src32 x m x.a == s.src32 x l x.a) :=
  alu_writes32 hp hg hd (exec_match_eq_alu hp .b32) rfl rfl fun l => by
    simp only [State.laneIn, Ty.regs, rd_one_beq, setWidth_setWidth_le (show 32 ≤ 64 by decide)]

/-- The lanes that match at 64 bits are a 32-bit mask all the same. -/
theorem match64_writes32 : writes32 s (.matchL .b64 x) x n fun l =>
    maskOf ((s.act x).filter fun m => s.src64 x true m x.a == s.src64 x true l x.a) :=
  alu_writes32 hp hg hd (exec_match_eq_alu hp .b64) rfl rfl fun _ => setWidth_setWidth_le (by decide) _

theorem shfl_writes32 (m : ShflMode) : writes32 s (.shfl m .b32 x) x n fun l =>
    let j := shflSource m l (s.src32 x l x.b).toNat
    if 0 ≤ j ∧ j.toNat ∈ s.act x then s.src32 x j.toNat x.a else s.src32 x l x.a :=
  alu_writes32 hp hg hd (exec_shfl_eq_alu hp m .b32) rfl rfl fun l => by
    simp only [State.laneIn, Ty.regs, rd_one, ux_setWidth (show 32 ≤ 64 by decide), apply_ite (BitVec.setWidth 32),
      setWidth_setWidth_le (show 32 ≤ 64 by decide)]

theorem shfl_writes64 (m : ShflMode) : writes64 s (.shfl m .b64 x) x n fun l =>
    let j := shflSource m l (s.src32 x l x.b).toNat
    if 0 ≤ j ∧ j.toNat ∈ s.act x then s.src64 x true j.toNat x.a else s.src64 x true l x.a :=
  alu_writes64 hp hg hd (exec_shfl_eq_alu hp m .b64) rfl rfl fun l => by
    simp only [State.laneIn, rd_one, ux_setWidth (show 32 ≤ 64 by decide)]
    rfl

theorem bcast_writes32 {m : Nat} (hm : (s.act x).head? = some m) : writes32 s (.bcast .b32 x) x n fun _ =>
    let j := (s.src32 x m x.b).toNat
    if j ∈ s.act x then s.src32 x j x.a else s.src32 x m x.a :=
  alu_writes32 hp hg hd (exec_bcast_eq_alu hp .b32 hm) rfl rfl fun _ => apply_ite (BitVec.setWidth 32) _ _ _

theorem bcast_writes64 {m : Nat} (hm : (s.act x).head? = some m) : writes64 s (.bcast .b64 x) x n fun _ =>
    let j := (s.src32 x m x.b).toNat
    if j ∈ s.act x then s.src64 x true j x.a else s.src64 x true m x.a :=
  alu_writes64 hp hg hd (exec_bcast_eq_alu hp .b64 hm) rfl rfl fun _ => rfl

end

theorem vote_writesPred {s : State} {x : Args} {p : Fin 8} (hp : noPorts x = true) (hg : s.gangClass = true)
    (hd : x.d = .p p) (hp7 : p ≠ 7) (m : VoteMode) :
    writesPred s (.vote m x) x p fun _ => votes m (s.act x) fun l => s.src32 x l x.a :=
  alu_writesPred hp hg hd hp7 (exec_vote_eq_alu hp m) rfl rfl (by decide) fun _ => rfl

/-- Settles O13: every form of class 0x7 but the reductions and scans acts on each lane by itself once the values of the
lanes that take part are known; each clause is its result in a lane. -/
theorem crossLaneForms : Obligations.CrossLaneForms := by
  unfold Obligations.CrossLaneForms
  intro s x hp hg
  refine ⟨fun n hd => ⟨ballot_writes32 hp hg hd, actmask_writes32 hp hg hd, match_writes32 hp hg hd, ?_, ?_, ?_, ?_,
    fun m hm => bcast_writes32 hp hg hd hm, match64_writes32 hp hg hd, shfl_writes64 hp hg hd .idx,
    shfl_writes64 hp hg hd .xor, shfl_writes64 hp hg hd .up, shfl_writes64 hp hg hd .down,
    fun m hm => bcast_writes64 hp hg hd hm⟩,
    fun p hd hp7 => ⟨vote_writesPred hp hg hd hp7 .all, vote_writesPred hp hg hd hp7 .any,
      vote_writesPred hp hg hd hp7 .uni⟩⟩
  · -- `SHFL.idx` (R270)
    simpa only [shflSource, Int.natCast_nonneg, true_and, Int.toNat_natCast] using shfl_writes32 hp hg hd .idx
  · -- `SHFL.xor`
    simpa only [shflSource, Int.natCast_nonneg, true_and, Int.toNat_natCast] using shfl_writes32 hp hg hd .xor
  · -- `SHFL.up`: the source lies below the lane, or nowhere
    simpa only [shflSource, Int.sub_nonneg, Int.ofNat_le, Int.toNat_sub] using shfl_writes32 hp hg hd .up
  · -- `SHFL.down`
    simpa only [shflSource, ← Int.natCast_add, Int.natCast_nonneg, true_and, Int.toNat_natCast] using
      shfl_writes32 hp hg hd .down

end Sys2Proof.Machine
end
